-- ==== Sys2Proof/Word.lean ====
section
/-! DEFINITION. The words the manual counts in (R7, R8): bytes, 32-bit register words, and the widths of addresses. -/

namespace Sys2Proof

/-- A byte (R7). -/
abbrev Byte := BitVec 8

/-- A register, a descriptor word or a vector register: 32 bits (R8, R228). -/
abbrev Word := BitVec 32

/-- A local address, bits [47:0] of a fabric address (R576). -/
abbrev Addr := BitVec 48

/-- A 64-byte descriptor: sixteen little-endian 32-bit words, word i in bits [32i+31:32i] (R79, R296, R384). -/
abbrev Desc := BitVec 512

/-- A launch record: eight words (R187). -/
abbrev LaunchRec := BitVec 256

/-- A task descriptor: sixty-four words (R368). -/
abbrev TaskDesc := BitVec 2048

/-- A line of 128 bytes, byte i in bits [8i+7:8i] (R279, R320). -/
abbrev LineBits := BitVec 1024

/-- A sparse table: keys strictly rising, at most one entry a key. -/
abbrev Tbl (α : Type) := List (Nat × α)

end Sys2Proof
end

