-- ==== Sys2Proof/Syntax.lean ====
section
/-! DEFINITION. The commands of the block: one constructor of `Instr` per row of spec/opcode_table.json, with the
operands that the row's event carries (register numbers, descriptors, packets, measured values). -/

namespace Sys2Proof

/-- The key of an item at one lot (R357, R358). -/
structure ItemKey where
  orig : BitVec 16
  item : BitVec 13
  lot  : BitVec 16
  deriving DecidableEq, Repr

/-- Who issued a descriptor to an array: the dispatcher, or a group by its slot and its launch number, which no later group in
that slot has (R82, R84, R256). -/
inductive Issuer where
  | dispatcher
  | group (slot : Fin 48) (born : Nat)
  deriving DecidableEq, Repr

/-- Form R of a thread instruction: bits [51:0] of R231. DEDUCED, log 22. -/
structure RForm where
  g  : Bool
  gn : Bool
  gp : BitVec 4
  d  : BitVec 8
  a  : BitVec 8
  b  : BitVec 8
  c  : BitVec 8
  ud : Bool
  ua : Bool
  ub : Bool
  uc : Bool
  mod : BitVec 10
  deriving DecidableEq, Repr

/-- Form I of a thread instruction (R231), its reserved bits [36:32] included. -/
structure IForm where
  g  : Bool
  gn : Bool
  gp : BitVec 4
  d  : BitVec 8
  ud : Bool
  rsv : BitVec 5
  imm : Word
  deriving DecidableEq, Repr

/-- Form M of a thread instruction (R231). -/
structure MForm where
  g  : Bool
  gn : Bool
  gp : BitVec 4
  d  : BitVec 8
  a  : BitVec 8
  b  : BitVec 8
  off : BitVec 16
  size : BitVec 3
  hint : BitVec 2
  w : Bool
  deriving DecidableEq, Repr

/-- Form A of a thread instruction (R231). -/
structure AForm where
  g  : Bool
  gn : Bool
  gp : BitVec 4
  d  : BitVec 8
  a  : BitVec 8
  b  : BitVec 8
  c  : BitVec 8
  e  : BitVec 8
  order : BitVec 2
  scope : BitVec 2
  space : BitVec 2
  deriving DecidableEq, Repr

/-- An Avolmoth packet: its sixteen header words (R360) and its payload bytes. -/
structure Packet where
  hdr : BitVec 512
  payload : List Byte
  deriving DecidableEq, Repr

/-- A link frame: its four header words (R400), its body and its link CRC (R401). -/
structure Frame where
  hdr : BitVec 128
  body : List Byte
  crc : Word
  deriving DecidableEq, Repr

/-- The width of a register access (R13). -/
inductive AccSize where
  | b8 | b16 | b32 | b64
  deriving DecidableEq, Repr

/-- The path a register access comes by (R13, R606, R608). -/
inductive AccPath where
  | bar0 | smbus | jtag | window
  deriving DecidableEq, Repr

/-- The clock whose lock is lost (R29). -/
inductive ClockLoss where
  | aclk | nclk | cclk
  | near (c : Fin 12)
  | recovered (q : Fin 16)
  deriving DecidableEq, Repr

/-- What faults a pass (R97, R129, R443): in a stationary slot, in data read, in a residue, or in an accumulator entry or a word
of the flag store that stage 10 reads. -/
inductive PassFaultKind where
  | stationaryUncorrectable | poisonedRead | residueMismatch | entryUncorrectable
  deriving DecidableEq, Repr

/-- What SEC-DED finds in a column that a drain reads (R129, R138, R443): nothing, an error that it corrects, or one that it
cannot, with the row of the entry. -/
inductive ColumnEcc where
  | clean
  | corrected (row : Fin 128)
  | uncorrectable (row : Fin 128)
  deriving DecidableEq, Repr

/-- What a group meets at the address that it issues from (R208, R233, R443): a word that is no instruction, or none that can be
fetched; or what SEC-DED finds in the engine's SRAMs, with the location that ERR_LAST1 names: an error that it corrects, one in a
register of a lane, in an 8-byte word of the block's local store, or in one of a delivered slot of a drain ring. -/
inductive IssueFault where
  | word
  | fetch
  | corrected (loc : Word)
  | registers (lane : Fin 32) (loc : Word)
  | localStore (word : Fin 49152) (loc : Word)
  | drainRing (a : Fin 4) (slot : Fin 256) (word : Fin 64) (loc : Word)
  deriving DecidableEq, Repr

/-- What SEC-DED or the SC code finds where a command reads an SRAM (R443): nothing, an error that it corrects, or one that it cannot,
with the location that ERR_LAST1 names. -/
inductive ReadCheck where
  | clean
  | corrected (loc : Word)
  | uncorrectable (loc : Word)
  deriving DecidableEq, Repr

/-- What takes the device fault (R29, R376, R443): a cause by the number of its class, or an uncorrectable error of the controller's
own SRAM, with the location that ERR_LAST1 names. -/
inductive DeviceCause where
  | named (cause : Byte)
  | sram (loc : Word)
  deriving DecidableEq, Repr

/-- The end of a pass on an array, with the row and column of each entry in which stage 10 corrected an error (R129, R443). -/
structure PassEnd where
  array : Fin 200
  corrected : List (Fin 128 × Fin 256)
  deriving DecidableEq, Repr

/-- Where a pass meets a fault: what it is, the last column issued, and the row and column of the entry (R97, R129). -/
structure PassFaultAt where
  kind : PassFaultKind
  col : BitVec 9
  loc : Fin 128 × Fin 256
  deriving DecidableEq, Repr

/-- The next column read of an array's drain, with what SEC-DED finds in it (R129, R138). -/
structure DrainRead where
  array : Fin 200
  ecc : ColumnEcc
  deriving DecidableEq, Repr

/-- The fill of a line, with the bytes in error among the 132 of a line of GDDR7 (R282, R320). -/
structure MissFill where
  line : BitVec 41
  bad : List (Fin 132)
  deriving DecidableEq, Repr

/-- What a packet brings to the router beside itself: its TTL, and what SEC-DED finds in the route entry that it reads (R406, R443). -/
structure Hop where
  ttl : BitVec 6
  ecc : ReadCheck
  deriving DecidableEq, Repr

/-- A scrubber kind (R451). -/
inductive ScrubKind where
  | acc | sc | pb | near
  deriving DecidableEq, Repr

/-- What a scrubber's visit finds (R452). -/
inductive ScrubResult where
  | clean | corrected | uncorrectable
  deriving DecidableEq, Repr

/-- What a request asks of an SC slice (R280). -/
inductive ScOp where
  | read
  | write (data : LineBits)
  | aload
  | atomicAdd (v : Word)
  deriving DecidableEq, Repr

/-- A request that reaches an SC slice: the master port (R301: 0–191 arrays, 192–239 engines, 240–271 movers, 272 host),
its tint, the address, the length in bytes and the streaming hint (R281). -/
structure ScReq where
  master : Fin 273
  tint : BitVec 3
  addr : Addr
  len : Fin 129
  op : ScOp
  streaming : Bool
  deriving DecidableEq, Repr

/-- A request that reaches its slice, with what the slice's code finds in the line that it reads (R280, R443). -/
structure ScArrival where
  req : ScReq
  ecc : ReadCheck
  deriving DecidableEq, Repr

/-- What the dispatcher queues when it expands an item; the placement is its own choice (R149, R368). prescan launches the
pre-scan blocks of product t with its total K (R150); prologue launches a block whose groups signal tag, and queues the descriptors
that depend on it (R151). -/
inductive DispatchAct where
  | queue (n : Fin 200) (desc : Desc)
  | launch (e : Fin 50) (rec : LaunchRec)
  | mover (m : Fin 24) (desc : Desc)
  | prescan (t : Fin 16) (k : Word) (launches : List (Fin 50 × LaunchRec))
  | prologue (e : Fin 50) (rec : LaunchRec) (tag : BitVec 16) (gates : List (Fin 200 × Desc))
  deriving DecidableEq, Repr

/-- The four base-address registers of a ring pair (R392). -/
inductive RingBase where
  | sqLo | sqHi | cqLo | cqHi
  deriving DecidableEq, Repr

/-- What a HELLO tells of its sender (R411, R414). -/
structure HelloMsg where
  devId : BitVec 16
  assigned : Bool
  role : Bool
  domain : BitVec 4
  mgrSerial : BitVec 64
  serial : BitVec 64
  port : Fin 16
  deriving DecidableEq, Repr

/-- One port as a PROBE_REPLY describes it (R411). -/
structure PortDesc where
  state : BitVec 3
  txw : BitVec 4
  rxw : BitVec 4
  partnerSerial : BitVec 64
  partnerPort : Fin 16
  partnerDomain : BitVec 4
  deriving DecidableEq, Repr

/-- A device description (R411), with the path the probe took (R412, R415). -/
structure ProbeReplyMsg where
  serial : BitVec 64
  role : Bool
  domain : BitVec 4
  devId : BitVec 16
  assigned : Bool
  path : List (Fin 16)
  ports : List PortDesc
  deriving DecidableEq, Repr

/-- ASSIGN (R411, R425). -/
structure AssignMsg where
  devId : BitVec 16
  mgrSerial : BitVec 64
  rejoin : Bool
  deriving DecidableEq, Repr

/-- ROUTE_SET: generation, first entry and entries (R411, R420); entries 4,096 to 4,111 are the domain entries. -/
structure RouteSetMsg where
  mgrSerial : BitVec 64
  gen : Word
  first : BitVec 13
  entries : List Word
  deriving DecidableEq, Repr

/-- LINK_EVENT (R411, R421). -/
structure LinkEventMsg where
  serial : BitVec 64
  port : Fin 16
  state : BitVec 3
  txw : BitVec 4
  rxw : BitVec 4
  deriving DecidableEq, Repr

/-- LEFT: identifiers that have left, or a whole domain (R411, R422, R428). -/
structure LeftMsg where
  sender : BitVec 16
  pseq : BitVec 16
  ids : List (BitVec 16)
  domain : Option (BitVec 4)
  deriving DecidableEq, Repr

/-- A border link of DOMAIN_INFO and DOMAIN_ROUTE (R411, R427). -/
structure BorderLink where
  index : BitVec 12
  port : Fin 16
  neighbour : BitVec 4
  width : BitVec 4
  deriving DecidableEq, Repr

/-- What trained of an Avolmoth port (R395, R397, R398): the good lanes of each direction, the partner's serial number and port, whether
the verification pattern passed on every lane with the settings of the port's record, and the settings that a full training finds. -/
structure TrainResult where
  txGood : BitVec 9
  rxGood : BitVec 9
  serial : BitVec 64 := 0
  port : Fin 16 := 0
  verified : Bool := false
  settings : BitVec 64 := 0
  deriving DecidableEq, Repr

/-- A regulator phase: VDD_LOGIC or VDD_MEM of a region, or VDD_MEM of a slice (R474, R476, R480). -/
inductive Phase where
  | logic (p : Fin 50) (k : Fin 8)
  | mem (p : Fin 50) (k : Fin 4)
  | sliceMem (s : Fin 64) (k : Fin 4)
  deriving DecidableEq, Repr

/-- What a start-up test or a bond test names bad: the word of R455. -/
abbrev BadPart := Word

/-- How an SPDM request arrives (R552): by DOE, or by a fabric packet from a device. -/
inductive SpdmPath where
  | doe
  | fabric (src : BitVec 16)
  deriving DecidableEq, Repr

/-- What a far port finds at FAR_MEM or at the return of a link (R330, R347, R348). -/
structure FarFound where
  ready : Bool
  width : BitVec 3
  rate64 : Bool
  mediaOk : Bool
  deriving DecidableEq, Repr

/-- What a controller's training meets at NEAR_MEM (R324, R326): whether full training succeeds, the identifiers of its devices, the
Darrax junction temperature in degrees, whether the verification pass succeeds with the settings of the controller's record, and the
settings that a full training finds. -/
structure NearTrain where
  ok : Bool
  devices : BitVec 64 := 0
  temp : Int := 0
  verified : Bool := false
  settings : BitVec 64 := 0
  deriving DecidableEq, Repr

/-- One sample of every sensor (R506, R516): readings in 1/16 degree (none: conversion not done), the power of each slice
in mW and the leakage estimate of each zone in 1/16 degree. -/
structure ThermalReadings where
  sensors : List (Option Int)
  slicePower : List Nat
  leak : List Int
  deriving DecidableEq, Repr

/-- The commands, one constructor per row of spec/opcode_table.json, in its order. -/
inductive Instr where
  | registerWrite (path : AccPath) (off : BitVec 26) (size : AccSize) (data : BitVec 64) (poisoned : Bool) (hwSet : Word)
  | pllLossOfLock (which : ClockLoss)
  | deviceFault (cause : DeviceCause)
  | descriptorQueueEntry (n : Fin 200) (desc : Desc)
  | passStart (n : Fin 200)
  | tileLoadComplete (n : Fin 200)
  | passComplete (c : PassEnd)
  | stopRequest (n : Fin 200) (slot : BitVec 9)
  | stopDone (n : Fin 200)
  | passFault (n : Fin 200) (f : PassFaultAt)
  | taCntClear (n : Fin 200) (v : Word)
  | taHighClr (n : Fin 200) (v : Word)
  | taStopReq (n : Fin 200) (v : Word) (slot : BitVec 9)
  | taStopResume (n : Fin 200) (v : Word)
  | preloadStart (n : Fin 200)
  | preloadComplete (n : Fin 200)
  | drainEnter (n : Fin 200)
  | drainColumnRead (r : DrainRead)
  | drainComplete (n : Fin 200)
  | scrubVisit (kind : ScrubKind) (inst : Fin 200) (loc : BitVec 32) (detail : BitVec 20) (res : ScrubResult) (lapEnd : Bool) (lap : Word)
  | lapSlow (kind : ScrubKind) (inst : Fin 200) (lap : Word)
  | accvEnWrite (n : Fin 200) (v : Word)
  | accvSelWrite (n : Fin 200) (v : Word)
  | accvReadComplete (n : Fin 200) (corrected uncorr : Bool)
  | dringCfgWrite (e : Fin 50) (a : Fin 4) (v : Word)
  | lakeWriteComplete (n : Fin 200)
  | launch (e : Fin 50) (rec : LaunchRec)
  | groupFreed (e : Fin 50) (sl : Fin 48)
  | groupPromotion (e : Fin 50) (sl : Fin 48)
  | napEnd (e : Fin 50) (sl : Fin 48) (lane : Fin 32)
  | barrierTimeout (e : Fin 50) (sl : Fin 48) (block : Bool) (bar : Fin 8)
  | dbgHalt (e : Fin 50) (v : Word)
  | haltComplete (e : Fin 50) (sl : Fin 48)
  | dbgResume (e : Fin 50) (v : Word)
  | dbgStep (e : Fin 50) (v : Word)
  | haltAll (e : Fin 50) (v : Word)
  | resumeAll (e : Fin 50) (v : Word)
  | dbgDataWrite (e : Fin 50) (v : Word)
  | teCntClear (e : Fin 50) (v : Word)
  | iadd (e : Fin 50) (sl : Fin 48) (r : RForm)
  | isub (e : Fin 50) (sl : Fin 48) (r : RForm)
  | imul (e : Fin 50) (sl : Fin 48) (r : RForm)
  | imulhiS (e : Fin 50) (sl : Fin 48) (r : RForm)
  | imulhiU (e : Fin 50) (sl : Fin 48) (r : RForm)
  | imad (e : Fin 50) (sl : Fin 48) (r : RForm)
  | and (e : Fin 50) (sl : Fin 48) (r : RForm)
  | or (e : Fin 50) (sl : Fin 48) (r : RForm)
  | xor (e : Fin 50) (sl : Fin 48) (r : RForm)
  | not (e : Fin 50) (sl : Fin 48) (r : RForm)
  | shl (e : Fin 50) (sl : Fin 48) (r : RForm)
  | shr (e : Fin 50) (sl : Fin 48) (r : RForm)
  | sar (e : Fin 50) (sl : Fin 48) (r : RForm)
  | iminS (e : Fin 50) (sl : Fin 48) (r : RForm)
  | imaxS (e : Fin 50) (sl : Fin 48) (r : RForm)
  | iminU (e : Fin 50) (sl : Fin 48) (r : RForm)
  | imaxU (e : Fin 50) (sl : Fin 48) (r : RForm)
  | idivS (e : Fin 50) (sl : Fin 48) (r : RForm)
  | idivU (e : Fin 50) (sl : Fin 48) (r : RForm)
  | iremS (e : Fin 50) (sl : Fin 48) (r : RForm)
  | iremU (e : Fin 50) (sl : Fin 48) (r : RForm)
  | popc (e : Fin 50) (sl : Fin 48) (r : RForm)
  | clz (e : Fin 50) (sl : Fin 48) (r : RForm)
  | icmp (e : Fin 50) (sl : Fin 48) (r : RForm)
  | sel (e : Fin 50) (sl : Fin 48) (r : RForm)
  | mov (e : Fin 50) (sl : Fin 48) (r : RForm)
  | movi (e : Fin 50) (sl : Fin 48) (i : IForm)
  | addi (e : Fin 50) (sl : Fin 48) (i : IForm)
  | pand (e : Fin 50) (sl : Fin 48) (r : RForm)
  | por (e : Fin 50) (sl : Fin 48) (r : RForm)
  | pnot (e : Fin 50) (sl : Fin 48) (r : RForm)
  | ballot (e : Fin 50) (sl : Fin 48) (r : RForm)
  | fadd (e : Fin 50) (sl : Fin 48) (r : RForm)
  | fsub (e : Fin 50) (sl : Fin 48) (r : RForm)
  | fmul (e : Fin 50) (sl : Fin 48) (r : RForm)
  | ffma (e : Fin 50) (sl : Fin 48) (r : RForm)
  | fmin (e : Fin 50) (sl : Fin 48) (r : RForm)
  | fmax (e : Fin 50) (sl : Fin 48) (r : RForm)
  | fabs (e : Fin 50) (sl : Fin 48) (r : RForm)
  | fneg (e : Fin 50) (sl : Fin 48) (r : RForm)
  | fcmp (e : Fin 50) (sl : Fin 48) (r : RForm)
  | exp2 (e : Fin 50) (sl : Fin 48) (r : RForm)
  | log2 (e : Fin 50) (sl : Fin 48) (r : RForm)
  | rcp (e : Fin 50) (sl : Fin 48) (r : RForm)
  | rsqrt (e : Fin 50) (sl : Fin 48) (r : RForm)
  | fdiv (e : Fin 50) (sl : Fin 48) (r : RForm)
  | hfma2 (e : Fin 50) (sl : Fin 48) (r : RForm)
  | hadd2 (e : Fin 50) (sl : Fin 48) (r : RForm)
  | hmul2 (e : Fin 50) (sl : Fin 48) (r : RForm)
  | cvt (e : Fin 50) (sl : Fin 48) (src : BitVec 4) (r : RForm)
  | cvtNar (e : Fin 50) (sl : Fin 48) (src : BitVec 4) (r : RForm)
  | cvtBlk (e : Fin 50) (sl : Fin 48) (src : BitVec 4) (r : RForm)
  | br (e : Fin 50) (sl : Fin 48) (i : IForm)
  | brv (e : Fin 50) (sl : Fin 48) (r : RForm)
  | jal (e : Fin 50) (sl : Fin 48) (i : IForm)
  | exit (e : Fin 50) (sl : Fin 48) (r : RForm)
  | nap (e : Fin 50) (sl : Fin 48) (i : IForm)
  | rdst (e : Fin 50) (sl : Fin 48) (r : RForm)
  | clst (e : Fin 50) (sl : Fin 48) (r : RForm)
  | ldLocal (e : Fin 50) (sl : Fin 48) (m : MForm)
  | stLocal (e : Fin 50) (sl : Fin 48) (m : MForm)
  | ldRing (e : Fin 50) (sl : Fin 48) (m : MForm)
  | ldBank (e : Fin 50) (sl : Fin 48) (m : MForm)
  | stBank (e : Fin 50) (sl : Fin 48) (m : MForm)
  | ldGlobal (e : Fin 50) (sl : Fin 48) (m : MForm)
  | stGlobal (e : Fin 50) (sl : Fin 48) (m : MForm)
  | aadd (e : Fin 50) (sl : Fin 48) (m : AForm)
  | asub (e : Fin 50) (sl : Fin 48) (m : AForm)
  | aand (e : Fin 50) (sl : Fin 48) (m : AForm)
  | aor (e : Fin 50) (sl : Fin 48) (m : AForm)
  | axor (e : Fin 50) (sl : Fin 48) (m : AForm)
  | aminS (e : Fin 50) (sl : Fin 48) (m : AForm)
  | amaxS (e : Fin 50) (sl : Fin 48) (m : AForm)
  | aminU (e : Fin 50) (sl : Fin 48) (m : AForm)
  | amaxU (e : Fin 50) (sl : Fin 48) (m : AForm)
  | aexch (e : Fin 50) (sl : Fin 48) (m : AForm)
  | acas (e : Fin 50) (sl : Fin 48) (m : AForm)
  | afadd (e : Fin 50) (sl : Fin 48) (m : AForm)
  | aload (e : Fin 50) (sl : Fin 48) (m : AForm)
  | astore (e : Fin 50) (sl : Fin 48) (m : AForm)
  | fence (e : Fin 50) (sl : Fin 48) (r : RForm)
  | bar (e : Fin 50) (sl : Fin 48) (r : RForm)
  | barMasked (e : Fin 50) (sl : Fin 48) (r : RForm)
  | apass (e : Fin 50) (sl : Fin 48) (r : RForm)
  | apre (e : Fin 50) (sl : Fin 48) (r : RForm)
  | adrain (e : Fin 50) (sl : Fin 48) (r : RForm)
  | await (e : Fin 50) (sl : Fin 48) (r : RForm)
  | lst (e : Fin 50) (sl : Fin 48) (r : RForm)
  | drel (e : Fin 50) (sl : Fin 48) (r : RForm)
  | dpop (e : Fin 50) (sl : Fin 48) (r : RForm)
  | tarm (e : Fin 50) (sl : Fin 48) (r : RForm)
  | tsig (e : Fin 50) (sl : Fin 48) (r : RForm)
  | scanrep (e : Fin 50) (sl : Fin 48) (r : RForm)
  | trap (e : Fin 50) (sl : Fin 48) (i : IForm)
  | rdcyc (e : Fin 50) (sl : Fin 48) (r : RForm)
  | scRequest (a : ScArrival)
  | scMissFill (f : MissFill)
  | tintEpoch
  | flushReq (v : Word)
  | flushInval (v : Word)
  | flushDone
  | holdWaysWrite (v : Word)
  | holdChangeComplete
  | scHighClr (s : Fin 64) (v : Word)
  | vcWordResend (ch : Fin 114) (write : Bool) (wires : List Nat)
  | wireReplacementComplete (ch : Fin 114) (write : Bool)
  | sliceRetirement (sl : Fin 64) (readLost : Bool)
  | moverGo (m : Fin 32) (v : Word)
  | moverDescriptorComplete (m : Fin 32)
  | tintLimWrite (t : Fin 8) (r : Fin 4) (v : Word)
  | recalibration (c : Fin 12) (retries : Nat) (temp : Int)
  | controllerRetirement (c : Fin 12)
  | commit (p : Fin 12) (granule : BitVec 23)
  | commitGranuleComplete (p : Fin 12) (granule : BitVec 23) (ok : Bool)
  | journalRecordComplete (p : Fin 12) (granule : BitVec 23)
  | refresh (p : Fin 12) (granule : BitVec 23)
  | poweredHour (p : Fin 12)
  | fm576Event (p : Fin 12) (granules : List (BitVec 23))
  | persistReq (v : Word)
  | persistComplete
  | farPortLinkLoss (p : Fin 12)
  | farLinkReturn (p : Fin 12) (found : FarFound)
  | format (p : Fin 12) (v : Word)
  | unmount (p : Fin 12) (v : Word)
  | mount (p : Fin 12) (v : Word)
  | work (port : Fin 17) (pkt : Packet)
  | itemDispatch (key : ItemKey) (acts : List DispatchAct)
  | data (port : Fin 17) (pkt : Packet)
  | itemComplete (key : ItemKey) (inline : List Byte)
  | result (port : Fin 17) (pkt : Packet)
  | ack (port : Fin 17) (pkt : Packet)
  | nack (port : Fin 17) (pkt : Packet)
  | lot (port : Fin 17) (pkt : Packet)
  | resendTimeout (key : ItemKey) (typ : BitVec 4) (pseq : BitVec 16)
  | itemTimeout (item : BitVec 13)
  | submit (ring : Fin 64) (entry : Desc) (payload : List Byte)
  | migrate (ring : Fin 64) (entry : Desc)
  | cancel (ring : Fin 64) (entry : Desc)
  | completionEntryWrite (ring : Fin 64)
  | sqTailWrite (ring : Fin 64) (v : Word)
  | cqHeadWrite (ring : Fin 64) (v : Word)
  | ringCfgWrite (ring : Fin 64) (v : Word)
  | ringBaseWrite (ring : Fin 64) (which : RingBase) (v : Word)
  | trainingComplete (q : Fin 16) (res : TrainResult)
  | trainingRetry (q : Fin 16)
  | retrain (q : Fin 16) (v : Word)
  | laneFail (q : Fin 16) (tx : Bool) (lane : Fin 9)
  | inServiceRetrainComplete (q : Fin 16) (ok : Bool)
  | dataFrame (q : Fin 16) (f : Frame)
  | linkControlFrame (q : Fin 16) (f : Frame)
  | idleFrame (q : Fin 16) (f : Frame)
  | replayTimeout (q : Fin 16)
  | linkControlSend (q : Fin 16)
  | portDown (q : Fin 16)
  | packetForward (from_ : Fin 17) (pkt : Packet) (hop : Hop)
  | reorderTimeout (q : Fin 16)
  | hello (q : Fin 16) (m : HelloMsg)
  | probe (q : Fin 16) (mgrSerial : BitVec 64) (rpath : List (Fin 16))
  | probeReply (m : ProbeReplyMsg)
  | probeTimeout (path : List (Fin 16))
  | assign (q : Fin 16) (m : AssignMsg)
  | assignAck (serial : BitVec 64) (accept : Bool) (reason : Byte)
  | routeSet (m : RouteSetMsg)
  | routeAck (serial : BitVec 64) (gen : Word)
  | routeSetTimeout (serial : BitVec 64)
  | linkEvent (m : LinkEventMsg)
  | heartbeatInterval
  | heartbeat (mgrSerial : BitVec 64)
  | heartbeatReply (serial : BitVec 64)
  | managerLoss
  | left (m : LeftMsg)
  | leftTimeout (member : BitVec 16) (pseq : BitVec 16)
  | leave (devId : BitVec 16)
  | domainInfo (serial : BitVec 64) (domain : BitVec 4) (links : List BorderLink)
  | domainRoute (links : List (BitVec 4 × BorderLink))
  | joinWaitTimeout
  | fabCmdLeave (v : Word)
  | rediscover (v : Word)
  | fiEnWrite (q : Fin 16) (v : Word)
  | traceEnWrite (q : Fin 16) (v : Word)
  | confirm (v : Word)
  | confirmAll (v : Word)
  | withdraw (v : Word)
  | logCompaction (ok : Bool)
  | bucketLeak (i : Fin 515)
  | phaseFail (ph : Phase)
  | currentSample (p : Fin 50) (tenthAmps : Nat)
  | staging (p : Fin 50) (logicFails : Byte) (memFails : BitVec 4) (neighbourPeaks : Bool)
  | stagingStep (p : Fin 50)
  | governorTick (volt1 volt2 watts : Nat)
  | rampPhaseEnd
  | effWrite (v : Word)
  | modeMoveComplete
  | deep (v : Word)
  | deepIdleEntered
  | wake (v : Word)
  | wakeDone
  | thermalSample (r : ThermalReadings)
  | autoRestart
  | tripCountReset
  | clearHold (v : Word)
  | power (volt1 volt2 : Nat) (stbyOk : Bool) (railFail : Option Byte) (supervised : Bool) (smbAddr : BitVec 2)
  | clocks (ref25 ref156 ref100 : Bool) (pllFail : Option Byte)
  | image (flashFail : Option (BitVec 27)) (holdReadable : Bool)
  | fuses (dxMap rzMap : List Word) (dxOk rzOk : Bool)
  | bondTest (runs : Bool) (bad : List BadPart)
  | sramTest (runs : Bool) (bad : List BadPart)
  | logicTest (runs : Bool) (bad : List BadPart)
  | repair (macroFail : Option Byte)
  | regions (logicFails : List Byte) (memFails : List (BitVec 4))
  | nearMem (trained : List NearTrain)
  | farMem (found : List FarFound)
  | fabric (trained : List TrainResult)
  | join
  | load (failSection : Option Byte)
  | ready
  | go (v : Word)
  | retry (v : Word)
  | prog (v : Word)
  | erase (v : Word)
  | flashOpComplete (ok : Bool)
  | nonce (v : Word)
  | tokenSubmit (v : Word)
  | tokenCheckComplete
  | extend6 (v : Word)
  | extend7 (v : Word)
  | relaySend (v : Word)
  | spdmResponse (src : BitVec 16) (body : List Byte)
  | relayTimeout
  | getVersion (via : SpdmPath)
  | getCapabilities (via : SpdmPath)
  | negotiateAlgorithms (via : SpdmPath)
  | challenge (via : SpdmPath) (slot : Byte) (nonce : List Byte)
  | getMeasurements (via : SpdmPath) (index : Byte) (signed : Bool) (nonce : List Byte)
  | spdmUnsupportedRequest (via : SpdmPath) (code : Byte)
  | bar2Read (off : BitVec 30) (len : Fin 4097)
  | bar2Write (off : BitVec 30) (bytes : List Byte) (poisoned : Bool)
  | hotReset
  | hostLinkChange (rate width : BitVec 3) (flit : Bool)
  | busMasterEnable
  | msixUnmask (v : Option (Fin 128))
  | warmReset (lowCycles : Nat)
  | powerLoss
  | perst (high : Bool)
  | smbusRead (off : Word) (pecOk : Bool)
  | smbusWrite (off v : Word) (pecOk : Bool)
  | smbusStatus
  | smbusWake (pecOk : Bool)
  | alertResponse
  | testLogicReset
  | extest (scan : BitVec 33)
  | idcode
  | samplePreload (scan : BitVec 33)
  | regacc (dr : BitVec 72)
  | bypass (tdi : Bool)
  | recalibrationComplete (c : Fin 12) (ok : Bool)
  | rampDownEnd (n : Fin 200)
  | bankZeroingComplete (r : Fin 48)
  | completionTimeout (ring : Fin 64) (entry : Option Desc)
  | badEntry (ring : Fin 64) (entry : Desc)
  | illegalInstruction (e : Fin 50) (sl : Fin 48) (w : BitVec 64) (what : IssueFault)
  | crcDrop (port : Fin 17) (pkt : Packet)
  | busMasterDisable
  | msixEnableWrite (en fmask : Bool)
  deriving DecidableEq, Repr

end Sys2Proof
end

