-- ==== Sys2Proof/Decode.lean ====
section
/-! DEFINITION. What a word spells by the table's bits: spec/opcode_table.json gives no row any bits, so no word spells a
command. -/

namespace Sys2Proof

/-- No row of the table has bits: none. DESIGN CHOICE, log 19. -/
def decodeTableWord (_nbits _w : Nat) : Option Instr := none

end Sys2Proof
end

