-- ==== Sys2Proof/Machine/Bits.lean ====
section
/-! DEFINITION. Bit fields, byte order, integer helpers, lists and sparse tables: what every other file is written over. -/

namespace Sys2Proof.Machine

/-- Field of width w at bit lo of a natural number (R7). -/
def nfld (x lo w : Nat) : Nat := (x >>> lo) % 2 ^ w

/-- Field [lo + w − 1 : lo] of a bit vector, as a number (R7). -/
def fld {n : Nat} (x : BitVec n) (lo w : Nat) : Nat := nfld x.toNat lo w

/-- Bit i of a bit vector. -/
def bit {n : Nat} (x : BitVec n) (i : Nat) : Bool := x.getLsbD i

/-- Word i of a structure of little-endian 32-bit words (R79). -/
def wordOf {n : Nat} (x : BitVec n) (i : Nat) : Word := x.extractLsb' (32 * i) 32

/-- The bit vector with field [lo + w − 1 : lo] replaced by v. -/
def setFld {n : Nat} (x : BitVec n) (lo w v : Nat) : BitVec n :=
  (x &&& ~~~(BitVec.ofNat n (2 ^ w - 1) <<< lo)) ||| (BitVec.ofNat n (v % 2 ^ w) <<< lo)

/-- A number of one bit. -/
def b2n (b : Bool) : Nat := if b then 1 else 0

/-- The value of w bits read as a two's-complement number. -/
def sext (w x : Nat) : Int := if x % 2 ^ w < 2 ^ (w - 1) then (x % 2 ^ w : Nat) else ((x % 2 ^ w : Nat) : Int) - (2 ^ w : Nat)

/-- The two's-complement pattern of width w of an integer. -/
def wrapInt (w : Nat) (x : Int) : Nat := (x % (2 ^ w : Nat)).toNat

/-- Integer value of a word taken as signed. -/
def sint (x : Word) : Int := x.toInt

/-- Clamp to an inclusive range. -/
def clampInt (lo hi x : Int) : Int := if x < lo then lo else if hi < x then hi else x

/-- Ceiling of a quotient. -/
def ceilDiv (a b : Nat) : Nat := (a + b - 1) / b

/-- The number of set bits among the low n. -/
def popcount : Nat → Nat → Nat
  | 0, _ => 0
  | n + 1, x => b2n (x.testBit n) + popcount n x

/-- n elements by index. -/
def tab {α : Type} (n : Nat) (f : Nat → α) : List α := (List.range n).map f

/-- The bytes of a value, lowest first (R7). -/
def toBytes (n x : Nat) : List Byte := tab n (fun i => BitVec.ofNat 8 (x >>> (8 * i)))

/-- The value of bytes, lowest first (R7). -/
def ofBytes : List Byte → Nat
  | [] => 0
  | b :: t => b.toNat + 256 * ofBytes t

/-- The bytes of a bit vector of n bytes. -/
def bvBytes {w : Nat} (x : BitVec w) : List Byte := toBytes (w / 8) x.toNat

/-- Replace element i by the value of f at it. -/
def modAt {α : Type} (l : List α) (i : Nat) (f : α → α) : List α :=
  match l, i with
  | [], _ => []
  | a :: t, 0 => f a :: t
  | a :: t, k + 1 => a :: modAt t k f

/-- First index at which p holds. -/
def idxOf {α : Type} (p : α → Bool) : List α → Option Nat
  | [] => none
  | a :: t => if p a then some 0 else (idxOf p t).map (· + 1)

/-- Remove the first element at which p holds. -/
def dropFirst {α : Type} (p : α → Bool) : List α → List α
  | [] => []
  | a :: t => if p a then t else a :: dropFirst p t

/-- The list cut into pieces of n (n > 0), at most k of them. -/
def chunks {α : Type} (n : Nat) : Nat → List α → List (List α)
  | 0, _ => []
  | k + 1, l => if l.isEmpty then [] else l.take n :: chunks n k (l.drop n)

/-- The largest of a list, 0 when empty. -/
def maxNat (l : List Nat) : Nat := l.foldl max 0

/-- The number of set bits of a list of flags. -/
def countTrue (l : List Bool) : Nat := (l.filter id).length

/-- What the table lists for a key. -/
def look {α : Type} : Tbl α → Nat → Option α
  | [], _ => none
  | (k, v) :: t, x => if k = x then some v else look t x

/-- What the table lists for a key, or the default. -/
def lookD {α : Type} (t : Tbl α) (k : Nat) (d : α) : α := (look t k).getD d

/-- List a value for a key, in place of the former one; keys stay rising. -/
def put {α : Type} : Tbl α → Nat → α → Tbl α
  | [], x, v => [(x, v)]
  | (k, w) :: t, x, v => if x < k then (x, v) :: (k, w) :: t else if k = x then (x, v) :: t else (k, w) :: put t x v

/-- Take a key out. -/
def del {α : Type} : Tbl α → Nat → Tbl α
  | [], _ => []
  | (k, w) :: t, x => if k = x then del t x else (k, w) :: del t x

/-- List a value unless it is what an unlisted key reads as: the canonical form of memory and registers. -/
def putD {α : Type} [DecidableEq α] (d : α) (t : Tbl α) (k : Nat) (v : α) : Tbl α :=
  if v = d then del t k else put t k v

/-- Keys strictly rise from a lower bound. -/
def risingFrom {α : Type} : Nat → Tbl α → Bool
  | _, [] => true
  | lo, (k, _) :: t => decide (lo ≤ k) && risingFrom (k + 1) t

/-- Insert into a sorted list of numbers, once. -/
def insNat : List Nat → Nat → List Nat
  | [], x => [x]
  | k :: t, x => if x < k then x :: k :: t else if k = x then k :: t else k :: insNat t x

end Sys2Proof.Machine
end

