-- ==== Sys2Proof/Machine/Formats.lean ====
section
/-! DEFINITION. Number formats, rounding and conversion (R36 to R64), and the exact value of an accumulator entry. -/

namespace Sys2Proof.Machine

/-- The formats of R36. -/
inductive Fmt where
  | fp32 | bf16 | fp16 | e4m3 | e5m2 | e3m2 | e2m3 | e2m1 | int4 | int8 | int32 | e8m0
  deriving DecidableEq, Repr

/-- The format of a code; codes 0xC to 0xF are reserved (R36). -/
def Fmt.ofCode : Nat → Option Fmt
  | 0 => some .fp32 | 1 => some .bf16 | 2 => some .fp16 | 3 => some .e4m3 | 4 => some .e5m2
  | 5 => some .e3m2 | 6 => some .e2m3 | 7 => some .e2m1 | 8 => some .int4 | 9 => some .int8
  | 10 => some .int32 | 11 => some .e8m0 | _ => none

/-- Width in bits (R36). -/
def Fmt.width : Fmt → Nat
  | .fp32 => 32 | .bf16 => 16 | .fp16 => 16 | .e4m3 => 8 | .e5m2 => 8 | .e3m2 => 6 | .e2m3 => 6 | .e2m1 => 4
  | .int4 => 4 | .int8 => 8 | .int32 => 32 | .e8m0 => 8

/-- The four block-scaled formats (R44). -/
def Fmt.narrow : Fmt → Bool
  | .e3m2 | .e2m3 | .e2m1 | .int4 => true
  | _ => false

/-- Exponent width, mantissa width and bias of a floating-point format (R38); none for the others. -/
def Fmt.layout : Fmt → Option (Nat × Nat × Nat)
  | .fp32 => some (8, 23, 127) | .bf16 => some (8, 7, 127) | .fp16 => some (5, 10, 15)
  | .e4m3 => some (4, 3, 7) | .e5m2 => some (5, 2, 15)
  | .e3m2 => some (3, 2, 3) | .e2m3 => some (2, 3, 1) | .e2m1 => some (2, 1, 1)
  | _ => none

/-- The encoding of the largest finite magnitude of a floating-point format (R40). -/
def Fmt.maxEnc : Fmt → Nat
  | .fp32 => 0x7F7FFFFF | .bf16 => 0x7F7F | .fp16 => 0x7BFF | .e4m3 => 0x7E | .e5m2 => 0x7B
  | .e3m2 => 0x1F | .e2m3 => 0x1F | .e2m1 => 0x7 | _ => 0

/-- An exact value: NaN, an infinity, or a sign with magnitude m · 2^e; m = 0 is a signed zero. -/
inductive Val where
  | nan
  | inf (neg : Bool)
  | num (neg : Bool) (m : Nat) (e : Int)
  deriving DecidableEq, Repr

/-- The exact value of an integer. -/
def Val.ofInt (x : Int) : Val := .num (decide (x < 0)) x.natAbs 0

/-- The exact value of an encoding (R37, R38, R41, R43). -/
def Fmt.decode (f : Fmt) (x : Nat) : Val :=
  match f with
  | .int4 => .ofInt (sext 4 x)
  | .int8 => .ofInt (sext 8 x)
  | .int32 => .ofInt (sext 32 x)
  | .e8m0 => if nfld x 0 8 = 255 then .nan else .num false 1 ((nfld x 0 8 : Nat) - 127)
  | f =>
    match f.layout with
    | none => .nan
    | some (eb, mb, bias) =>
      let neg := nfld x (eb + mb) 1 = 1
      let e := nfld x mb eb
      let m := nfld x 0 mb
      let special := match f with
        | .fp32 | .bf16 | .fp16 | .e5m2 => decide (e = 2 ^ eb - 1)
        | .e4m3 => decide (e = 15 ∧ m = 7)
        | _ => false
      if special then (if f ≠ .e4m3 ∧ m = 0 then .inf neg else .nan)
      else if e = 0 then .num neg m (1 - (bias : Int) - mb)
      else .num neg (2 ^ mb + m) ((e : Int) - bias - mb)

/-- A value is a NaN. -/
def Val.isNan : Val → Bool
  | .nan => true
  | _ => false

/-- The conditions of R62, of an arithmetic instruction too (R239): invalid, overflow, underflow, inexact, divide by zero. -/
structure FpFlags where
  invalid : Bool := false
  overflow : Bool := false
  underflow : Bool := false
  inexact : Bool := false
  divZero : Bool := false
  deriving DecidableEq, Repr

/-- Conditions accumulate (R62). -/
def FpFlags.or (a b : FpFlags) : FpFlags :=
  ⟨a.invalid || b.invalid, a.overflow || b.overflow, a.underflow || b.underflow, a.inexact || b.inexact, a.divZero || b.divZero⟩

/-- Rounding modes of R53. -/
inductive RMode where
  | nearest | zero | stochastic
  deriving DecidableEq, Repr

/-- Rounding mode of a field; 0b11 is reserved (R53). -/
def RMode.ofCode : Nat → Option RMode
  | 0 => some .nearest | 1 => some .zero | 2 => some .stochastic | _ => none

/-- mix of R57. -/
def mix (x : BitVec 64) : BitVec 64 :=
  let x := x ^^^ (x >>> 31)
  let x := x * 0xD6E8FEB86659FD93#64
  let x := x ^^^ (x >>> 29)
  let x := x * 0xA3B195C35E4D2F97#64
  x ^^^ (x >>> 32)

/-- The 24-bit draw of R57. -/
def draw (k0 k1 : BitVec 64) : Nat := fld (mix (k0 ^^^ mix k1)) 40 24

/-- k0 of R56: seed, originator, item number. -/
def drawK0 (seed orig item : Nat) : BitVec 64 :=
  BitVec.ofNat 64 ((seed % 2 ^ 32) * 2 ^ 32 + (orig % 2 ^ 16) * 2 ^ 16 + (item % 2 ^ 13) * 8)

/-- k1 of R56: output row, output column, output tensor. -/
def drawK1 (row col t : Nat) : BitVec 64 :=
  BitVec.ofNat 64 (((row / 128) % 2 ^ 16) * 2 ^ 48 + ((col / 128) % 2 ^ 16) * 2 ^ 32 + (t % 16) * 2 ^ 28
    + (row % 128) * 2 ^ 7 + col % 128)

/-- Round the exact quotient n / 2^sh to an integer under a mode and a draw (R53, R55): result and whether it is inexact. -/
def roundShift (mode : RMode) (r24 n sh : Nat) : Nat × Bool :=
  let lo := n >>> sh
  let rem := n % 2 ^ sh
  if rem = 0 then (lo, false)
  else match mode with
    | .zero => (lo, true)
    | .nearest => if 2 * rem > 2 ^ sh ∨ (2 * rem = 2 ^ sh ∧ lo % 2 = 1) then (lo + 1, true) else (lo, true)
    | .stochastic => if r24 < rem * 2 ^ 24 / 2 ^ sh then (lo + 1, true) else (lo, true)

/-- Round m · 2^e to a multiple of 2^q: the multiple, and whether it is inexact. -/
def roundAt (mode : RMode) (r24 m : Nat) (e q : Int) : Nat × Bool :=
  if e ≥ q then (m <<< (e - q).toNat, false) else roundShift mode r24 m (q - e).toNat

/-- Put a sign before a magnitude of width w. -/
def withSign (neg : Bool) (w enc : Nat) : Nat := enc + b2n neg * 2 ^ (w - 1)

/-- Canonical NaN encodings of R61. -/
def Fmt.nanEnc : Fmt → Nat
  | .fp32 => 0x7FC00000 | .bf16 => 0x7FC0 | .fp16 => 0x7E00 | .e5m2 => 0x7E | .e4m3 => 0x7F | _ => 0

/-- The infinity of a format (R38). -/
def Fmt.infEnc : Fmt → Nat
  | .fp32 => 0x7F800000 | .bf16 => 0x7F80 | .fp16 => 0x7C00 | .e5m2 => 0x7C | _ => 0

/-- The rounded magnitude's encoding in a floating-point format whose exponent range is unbounded above (R53). -/
def Fmt.encMag (f : Fmt) (mode : RMode) (r24 m : Nat) (e : Int) : Nat × Bool :=
  match f.layout with
  | none => (0, false)
  | some (_, mb, bias) =>
    if m = 0 then (0, false) else
    let qmin : Int := 1 - (bias : Int) - mb
    let q := max (e + Nat.log2 m - mb) qmin
    let (r, inx) := roundAt mode r24 m e q
    (((q - qmin).toNat <<< mb) + r, inx)

/-- Convert to a target under a mode, an overflow control and a draw (R51 to R62). -/
def Fmt.convert (f : Fmt) (mode : RMode) (ovf : Bool) (r24 : Nat) (v : Val) : Nat × FpFlags :=
  match f with
  | .int4 | .int8 | .int32 =>
    let w := f.width
    match v with
    | .nan => (0, { invalid := true })
    | .inf neg => (if neg then 2 ^ (w - 1) else 2 ^ (w - 1) - 1, { invalid := true })
    | .num neg m e =>
      let (r, inx) := roundAt mode r24 m e 0
      let top := if neg then 2 ^ (w - 1) else 2 ^ (w - 1) - 1
      if r > top then (top, { overflow := true, inexact := true })
      else (wrapInt w (if neg then -(r : Int) else r), { underflow := decide (r = 0 ∧ m ≠ 0), inexact := inx })
  | .e8m0 => (255, { invalid := true })
  | f =>
    let w := f.width
    match v with
    | .nan => (if f.narrow then 0 else f.nanEnc, {})
    | .inf neg =>
      if f = .e4m3 then (if ovf then withSign neg 8 0x7E else 0x7F, { overflow := true })
      else (withSign neg w f.infEnc, {})
    | .num neg m e =>
      let (enc, inx) := f.encMag mode r24 m e
      if enc > f.maxEnc then
        let big := if f.narrow || ovf || decide (mode = .zero) then withSign neg w f.maxEnc
          else if f = .e4m3 then 0x7F else withSign neg w f.infEnc
        (big, { overflow := true, inexact := true })
      else (withSign neg w enc, { underflow := decide (enc = 0 ∧ m ≠ 0), inexact := inx })

/-- floor(log2 |v|) of a nonzero finite value. -/
def Val.floorLog2 : Val → Option Int
  | .num _ m e => if m = 0 then none else some (e + Nat.log2 m)
  | _ => none

/-- A value times a power of two. -/
def Val.scale (v : Val) (k : Int) : Val :=
  match v with
  | .num n m e => .num n m (e + k)
  | v => v

/-- Block conversion of R63 and R64: the scale, and each element with the conditions of its conversion; draws are given per
element. -/
def convertBlock (f : Fmt) (mode : RMode) (draws : List Nat) (vs : List Val) : Nat × List (Nat × FpFlags) :=
  if vs.any (fun v => match v with | .num .. => false | _ => true) then (255, vs.map (fun _ => (0, { invalid := true })))
  else
    let q : Int := if f = .e3m2 then 4 else 2
    let es := vs.filterMap Val.floorLog2
    let sc : Int := match es with
      | [] => 0x7F
      | e :: t => clampInt 0 254 (t.foldl max e - q + 127)
    (sc.toNat, (vs.zip draws).map (fun (v, d) => f.convert mode false d (v.scale (127 - sc))))

/-- Rate classes of R49. -/
inductive RateClass where
  | narrow | eight | sixteen | fp32
  deriving DecidableEq, Repr

/-- The rate class of an array input format; INT32 and E8M0 are no array inputs (R36, R49). -/
def Fmt.rateClass : Fmt → Option RateClass
  | .e3m2 | .e2m3 | .e2m1 | .int4 => some .narrow
  | .e4m3 | .e5m2 | .int8 => some .eight
  | .bf16 | .fp16 => some .sixteen
  | .fp32 => some .fp32
  | _ => none

/-- Formats that a drain may produce and a preload may read (R36, R131, R135). -/
def Fmt.drainable : Fmt → Bool
  | .fp32 | .bf16 | .fp16 | .e4m3 | .e5m2 | .int8 | .int32 => true
  | _ => false

/-- Element i of a packed row (R46): elements below a byte share bytes, others take whole bytes, lowest first. -/
def Fmt.element (f : Fmt) (row : List Byte) (i : Nat) : Nat :=
  let g (k : Nat) : Nat := (row.getD k 0).toNat
  match f.width with
  | 4 => nfld (g (i / 2)) (4 * (i % 2)) 4
  | 6 => nfld (ofBytes ((row.drop (3 * (i / 4))).take 3)) (6 * (i % 4)) 6
  | w => ofBytes ((row.drop (w / 8 * i)).take (w / 8))

/-- The bytes that hold n packed elements (R46, R78). -/
def Fmt.rowBytes (f : Fmt) (n : Nat) : Nat := ceilDiv (f.width * n) 8

/-- Pack elements into bytes (R46). -/
def Fmt.pack (f : Fmt) (xs : List Nat) : List Byte :=
  toBytes (f.rowBytes xs.length) (xs.foldr (fun x acc => x % 2 ^ f.width + acc * 2 ^ f.width) 0)

/-- R127: the residue of an integer modulo 7. -/
def mod7 (v : Int) : Nat := (v % 7).toNat

/-- Round an exact nonzero-or-zero finite value to the grid of weight 2^g, ties to even (R120, R133): integer and mark. -/
def toGrid (neg : Bool) (m : Nat) (e g : Int) : Int × Bool :=
  let (r, inx) := roundAt .nearest 0 m e g
  (if neg then -(r : Int) else r, inx)

end Sys2Proof.Machine
end

