-- ==== Sys2Proof/Machine/StateArray.lean ====
section
/-! DEFINITION. The state of a tensor array: pass queue, stationary slots, accumulator memory, drain unit
(chapters 3 and 4). -/

namespace Sys2Proof.Machine

/-- A descriptor that holds a place in a pass queue, with its issuer (R79, R81); resumed: issued again under R96; checked: it has
reached the head and passed the checks made there (R114, R140, R615). -/
structure QEntry where
  id : Nat
  desc : Desc
  issuer : Issuer
  resumed : Bool := false
  checked : Bool := false
  deriving DecidableEq, Repr

/-- The saved descriptor of a stopped pass (R81, R95), and the number of the tile that was active when it stopped (R96). -/
structure SavedPass where
  entry : QEntry
  tile : Nat
  deriving DecidableEq, Repr

/-- A stationary tile (R65, R615): the item and lot, format, MT and KT (counts) that it was made with, its element codes by
row, its block scales by row, whether a lake write made it, and whether a poisoned read filled it. -/
structure Tile where
  key : ItemKey
  fmt : BitVec 4
  mt : Nat
  kt : Nat
  codes : List (List Word)
  scales : List (List Byte)
  lake : Bool
  bad : Bool
  deriving DecidableEq, Repr

/-- One accumulator entry and its flags (R110, R111); CHECK is a function of the rest (R110). -/
structure AccEntry where
  value : BitVec 128 := 0
  res : BitVec 3 := 0
  inx : Bool := false
  sat : Bool := false
  pinf : Bool := false
  ninf : Bool := false
  deriving DecidableEq, Repr

/-- A column record (R112): ANCHOR is 80 wherever MODE is EXI. What a record holds after its release the spec does not say: the
model gives it the values of this default (DESIGN CHOICE, log 45). -/
structure ColRec where
  owned : Bool := false
  orig : BitVec 16 := 0
  item : BitVec 13 := 0
  lot : BitVec 16 := 0
  anw : Bool := false
  anchor : BitVec 10 := 80
  prod : Bool := false
  poison : Bool := false
  deriving DecidableEq, Repr

/-- A drain in the drain unit (R137): the descriptor, the next column to read (counted from EBASE), the flags so far; ended: its
item has failed on a poisoned tile, so that it only reports its flags (R138, R140). -/
structure DrainRec where
  entry : QEntry
  next : Nat
  flags : BitVec 16
  ended : Bool := false
  deriving DecidableEq, Repr

/-- A lake write that has reserved the shadow slot (R171): done when the tile is filled, claimed once a pass with
XSRC = 0b10 has entered the queue for it. -/
structure LakeRes where
  tile : Tile
  done : Bool
  claimed : Bool
  deriving DecidableEq, Repr

/-- The activity ramp (R90 to R93), with the length L that it began with (R103); down: with the length of the column slots that it
is counted in (R92). -/
inductive Ramp where
  | none
  | up (len cycle credit : Nat)
  | down (len slotLen : Nat)
  deriving DecidableEq, Repr

/-- Who holds the idle slots of an array (R35). -/
inductive IdleHolder where
  | none | pause | floor
  deriving DecidableEq, Repr

/-- A tensor array. -/
structure ArraySt where
  /-- Pass queue, head first; a streaming pass keeps its place at the head (R81). -/
  queue : List QEntry := []
  /-- The next queue-entry number (the model's own naming of descriptors). -/
  nextId : Nat := 0
  /-- The head pass streams (R81, R85). -/
  streaming : Bool := false
  /-- Passes whose last column has issued and whose last row sum has not written (R84, R86). -/
  inflight : List QEntry := []
  /-- Last column that issues under a stop in progress (R94). -/
  stopCol : Option Nat := none
  /-- A stop is in progress (R94, R98). -/
  stopping : Bool := false
  /-- A stop is in effect: after STOP_DONE no descriptor that was queued then starts until the resume (R98, log 20). -/
  halted : Bool := false
  /-- The descriptors with a number below it were in the queue when the stop ended (log 20). -/
  haltId : Nat := 0
  /-- The saved descriptors of stopped passes, oldest first (R81, R95). -/
  saved : List SavedPass := []
  /-- A resume waits for STOP_DONE (R98). -/
  resumePending : Bool := false
  /-- A resumed pass waits for a place in the full queue (R81, R83, R96). -/
  resumeHeld : Option QEntry := Option.none
  active : Option Tile := Option.none
  /-- How many tiles have been made active: the number of the active tile (R96). -/
  tileNo : Nat := 0
  /-- The shadow slot and the queue entry it was loaded for (R68, R78). -/
  shadow : Option (Tile × Nat) := Option.none
  lake : Option LakeRes := Option.none
  /-- Accumulator entries by 256 · row + entry. -/
  entries : Tbl AccEntry := []
  /-- Column records by entry column. -/
  cols : Tbl ColRec := []
  /-- A preload that has started and not written its last value (R134). -/
  preload : Option QEntry := Option.none
  drains : List DrainRec := []
  ramp : Ramp := .none
  idleHold : IdleHolder := .none
  /-- Thermal or cap pause in force, in sixteenths (R478, R511), and the credit of its pattern (R91). -/
  pause : Nat := 0
  pauseCredit : Nat := 0
  /-- Requests that the feeder has issued for the streaming pass, and the load port for the tile or preload it reads (R78, R300,
  R301). -/
  fed : Nat := 0
  loaded : Nat := 0
  /-- Floor duty in sixteenths (R488). -/
  floorDuty : Nat := 0
  /-- A debug view read is in flight (R144). -/
  viewPending : Bool := false
  fenced : Bool := false
  /-- Lake tiles that a stop has spilled (R174): a later pass with XSRC = 0b10 of the key takes the spilled copy. -/
  spilled : List (ItemKey × Addr × Addr × Nat) := []
  deriving DecidableEq, Repr

end Sys2Proof.Machine
end

