-- ==== Sys2Proof/Machine/Accum.lean ====
section
/-! DEFINITION. The arithmetic of the arrays: products, row sums, cell modes, residues, preload values and the value a
drain converts (chapters 3 and 4). -/

namespace Sys2Proof.Machine

/-- The largest value VALUE holds in every mode (R118). -/
def accMax : Int := 2 ^ 127 - 1

/-- The integer v of an entry (R110). -/
def AccEntry.v (e : AccEntry) : Int := e.value.toInt

/-- What a row sum or a preload brings to stage 11: the sum, the sign of a part that already left the range, the rounding
mark and the special flags (R118, R120, R125). -/
structure RowSum where
  sum : Int
  out : Option Bool
  inx : Bool
  pinf : Bool
  ninf : Bool
  deriving DecidableEq, Repr

/-- An entry with a new value inside the range, or the range end with SAT (R118); RES comes from the residue path (R128). -/
def AccEntry.store (e : AccEntry) (v : Int) (out : Option Bool) : AccEntry :=
  let bad : Option Bool := match out with
    | some n => some n
    | none => if v > accMax then some false else if v < -accMax then some true else none
  match bad with
  | some neg =>
    let r : Int := if neg then -accMax else accMax
    { e with value := BitVec.ofInt 128 r, res := BitVec.ofNat 3 (mod7 r), sat := true }
  | none => { e with value := BitVec.ofInt 128 v, res := BitVec.ofNat 3 (mod7 v) }

/-- The range end that a row sum takes its entry to at stage 7 (R118, R120): that of its exact sum's sign where the sum is out of
range. Where only a product of it is, the spec names no sign: the model takes that of the first such product, k rising (DESIGN
CHOICE, log 74). -/
def RowSum.end_ (r : RowSum) : Option Bool :=
  if r.sum > accMax then some false else if r.sum < -accMax then some true else r.out

/-- Stage 11 for a row sum that is added (R118, R120, R125, R128): a saturated entry ignores it. -/
def AccEntry.add (e : AccEntry) (r : RowSum) : AccEntry :=
  if e.sat then e
  else ({ e with inx := e.inx || r.inx, pinf := e.pinf || r.pinf, ninf := e.ninf || r.ninf }).store (e.v + r.sum) r.end_

/-- A preload with ADD = 0 replaces VALUE, RES and the flags (R134). -/
def AccEntry.replace (r : RowSum) : AccEntry :=
  ({ inx := r.inx, pinf := r.pinf, ninf := r.ninf } : AccEntry).store r.sum r.out

/-- The residue check of R129 at stage 10, at drain and in the scrubber. -/
def AccEntry.sound (e : AccEntry) : Bool :=
  decide (e.res.toNat = mod7 e.v) && decide (e.res ≠ 7) && decide (e.value ≠ 0x80000000000000000000000000000000#128)

/-- Bits [130:0] of an entry, over which CHECK is formed (R110). -/
def AccEntry.low (e : AccEntry) : BitVec 131 := e.res ++ e.value

/-- The value of an element of an operand, its block scale included (R44). -/
def scaledVal (f : Fmt) (code : Nat) (scale : Byte) : Val :=
  if f.narrow then
    if scale.toNat = 255 then .nan else (f.decode code).scale ((scale.toNat : Int) - 127)
  else f.decode code

/-- Stage 1 and 2 for one product on the grid of weight 2^g (R120, R125). -/
def productAt (g : Int) (x w : Val) : RowSum :=
  let special (neg : Bool) : RowSum := ⟨0, none, false, !neg, neg⟩
  match x, w with
  | .nan, _ => ⟨0, none, false, true, true⟩
  | _, .nan => ⟨0, none, false, true, true⟩
  | .inf a, .inf b => special (a ^^ b)
  | .inf a, .num b m _ => if m = 0 then ⟨0, none, false, true, true⟩ else special (a ^^ b)
  | .num a m _, .inf b => if m = 0 then ⟨0, none, false, true, true⟩ else special (a ^^ b)
  | .num a m e, .num b n f =>
    let (q, inx) := toGrid (a ^^ b) (m * n) (e + f) g
    ⟨q, if q > accMax then some false else if q < -accMax then some true else none, inx, false, false⟩

/-- The reduction of one row (R69): integer sums, flags by OR, the first sign of a product out of range. -/
def RowSum.plus (a b : RowSum) : RowSum :=
  ⟨a.sum + b.sum, match a.out with | some n => some n | none => b.out, a.inx || b.inx, a.pinf || b.pinf, a.ninf || b.ninf⟩

/-- A row sum with nothing in it. -/
def RowSum.zero : RowSum := ⟨0, none, false, false, false⟩

/-- The weight of the least significant bit of a column: 2^(A − 112) (R113). -/
def ColRec.grid (c : ColRec) : Int := c.anchor.toInt - 112

/-- The integer that an INT8 value is in EXI, in units of 2^-32 (R116). -/
def exiUnit : Int := 2 ^ 32

/-- The entry after a pass has combined one row with it (R87): the pairs are the stationary and streamed elements for
k = 0 to KT − 1, and ints their INT8 values in the comparison and distance modes. A distance sum that leaves the range, as it can
only after a preload near its end, sets SAT: R118 does so in every mode, and R88's remark excludes what a pass alone cannot reach
(DESIGN CHOICE, log 74). -/
def combineRow (cmode : Nat) (c : ColRec) (pairs : List (Val × Val)) (ints : List (Int × Int)) (e : AccEntry) : AccEntry :=
  let addInt (n : Int) := e.add ⟨n * exiUnit, none, false, false, false⟩
  let pick (n : Int) : AccEntry := if e.sat then e else { e with value := BitVec.ofInt 128 (n * exiUnit), res := BitVec.ofNat 3 (mod7 (n * exiUnit)) }
  match cmode with
  | 0 => e.add ((pairs.map (fun (x, w) => productAt c.grid x w)).foldl RowSum.plus RowSum.zero)
  | 1 => addInt ((ints.map (fun (x, w) => ((x - w).natAbs : Int))).foldl (· + ·) 0)
  | 2 => addInt ((ints.map (fun (x, w) => (x - w) * (x - w))).foldl (· + ·) 0)
  | 3 =>
    match ints.map (fun (x, w) => x + w) with
    | [] => e
    | a :: t => let m := t.foldl min a; if m * exiUnit < e.v then pick m else e
  | 4 =>
    match ints.map (fun (x, w) => x + w) with
    | [] => e
    | a :: t => let m := t.foldl max a; if e.v < m * exiUnit then pick m else e
  | _ => addInt ((ints.filter (fun (x, w) => x == w)).length : Int)

/-- The start value of a cell mode with CLEAR = 1 (R87). -/
def startEntry (cmode : Nat) : AccEntry :=
  match cmode with
  | 3 => ({} : AccEntry).store accMax none
  | 4 => ({} : AccEntry).store (-accMax) none
  | _ => {}

/-- A preload value on the grid of its column (R125, R133). -/
def preloadSum (g : Int) (v : Val) : RowSum :=
  match v with
  | .nan => ⟨0, none, false, true, true⟩
  | .inf neg => ⟨0, none, false, !neg, neg⟩
  | .num neg m e =>
    let (q, inx) := toGrid neg m e g
    ⟨q, if q > accMax then some false else if q < -accMax then some true else none, inx, false, false⟩

/-- The exact value a drain converts (R113, R126); an exact zero gives +0 (R54). -/
def drainVal (e : AccEntry) (c : ColRec) : Val :=
  if e.pinf && e.ninf then .nan
  else if e.pinf then .inf false
  else if e.ninf then .inf true
  else .num (decide (e.v < 0)) e.v.natAbs c.grid

/-- The pre-scan of R123: the anchor from the maxima ex, ew, eb and the total K (at least 1). -/
def prescanAnchor (ex ew eb : Option Int) (k : Nat) : Int :=
  let c : Int := if k ≤ 1 then 0 else (Nat.log2 (k - 1) : Int) + 1
  let u1 : Option Int := match ex, ew with
    | some a, some b => some (a + b + 2 + c)
    | _, _ => none
  let u : Option Int := match u1, eb with
    | some a, some b => some (max a (b + 1))
    | none, some b => some (b + 1)
    | a, none => a
  match u with
  | none => 0
  | some u => clampInt (-512) 511 (u - 13)

/-- The exponent bound e(v) of R123 for one value; none takes no part. Block-scaled elements take it from the scale. -/
def expBound (f : Fmt) (code : Nat) (scale : Byte) : Option Int :=
  if f.narrow then
    if scale.toNat = 255 then none
    else some ((scale.toNat : Int) - 127 + (match f with | .e3m2 => 4 | .int4 => 3 | _ => 2))
  else match f, f.decode code with
    | .int8, v => v.floorLog2
    | .int32, v => v.floorLog2
    | .e4m3, v => v.floorLog2
    | .e5m2, v => v.floorLog2
    | f, .num _ m _ =>
      if m = 0 then none
      else match f.layout with
        | some (eb, mb, bias) =>
          let e := nfld code mb eb
          some (if e = 0 then 1 - (bias : Int) else (e : Int) - bias)
        | none => none
    | _, _ => none

end Sys2Proof.Machine
end

