-- ==== Sys2Proof/Config.lean ====
section
/-! DEFINITION. What the spec leaves open: free values with no body (nothing can be proved of them but what holds of
every value), and the implementation-defined functions that the spec names. -/

namespace Sys2Proof.Config

/-- Free value: the n-th value that the spec leaves open, 32 bits (DESIGN CHOICE, log 7). -/
opaque freeWord : Nat → Word

/-- Free value: the n-th open byte (DESIGN CHOICE, log 7): an unwritten GDDR7 byte (DESIGN CHOICE, log 6), a flash byte lost in a broken program. -/
opaque freeByte : Nat → Byte

/-- Free value: the n-th open choice of a yes or no (DESIGN CHOICE, log 7). -/
opaque freeBool : Nat → Bool

/-- The check bits of R110: implementation-defined, a function of bits [130:0] of the entry alone. -/
opaque checkBits : BitVec 131 → BitVec 9

/-- DETAIL (R456) of the SRAM macro and row that hold an accumulator entry: the spec lays out no macro (DESIGN CHOICE, log 74). -/
opaque accPlace : Nat → BitVec 20

/-- Which word leaves a full instruction cache for the word at an address: the spec gives no replacement order (R185, DESIGN CHOICE,
log 75). -/
opaque icacheVictim : BitVec 48 → Nat

/-- Which of the values that R238's accuracy admits the module returns for one operation and operand: a function of both,
the same on every module (R238); it picks among the admitted values (DEDUCED, log 15). -/
opaque approxChoice : Nat → Word → Nat

/-- The fused voltage-frequency table: VDD_LOGIC in mV by ACLK in MHz, trimmed for each part (R475, DESIGN CHOICE, log 77). -/
opaque vfPoint : Nat → Nat

/-- GELU of the standard epilogue on an FP32 value, by firmware version: R162 lets an update change its bits, and the spec fixes none
(DESIGN CHOICE, log 76). -/
opaque gelu : Word → Word → Word

/-- SiLU of the standard epilogue on an FP32 value, by firmware version (R162, DESIGN CHOICE, log 76). -/
opaque silu : Word → Word → Word

/-- SHAKE256 of FIPS 202 with a 512-bit output, over a byte list (DESIGN CHOICE, log 17). -/
opaque shake256 : List Byte → List Byte

/-- ML-DSA-65 verification of FIPS 204: public key, message, signature (DESIGN CHOICE, log 17). -/
opaque mlDsaVerify : List Byte → List Byte → List Byte → Bool

/-- ML-DSA-65 signing by the module's own key (DESIGN CHOICE, log 17). -/
opaque mlDsaSign : List Byte → List Byte → List Byte

/-- The bytes that the n-th signed SPDM response covers, with the requester's nonce and the measurements in it; SPDM's own
transcript is not in the spec (DESIGN CHOICE, log 29). -/
opaque spdmTranscript : Nat → List Byte → List Byte → List Byte

/-- The public key of the module's own identity, formed from its device secret (DESIGN CHOICE, log 17). -/
opaque mlDsaPublic : List Byte → List Byte

/-- The module's random source, n-th draw of 32 bytes (DESIGN CHOICE, log 7). -/
opaque entropy : Nat → List Byte

end Sys2Proof.Config
end

