-- ==== Sys2Proof/Machine/Regs.lean ====
section
/-! DEFINITION. The register map (R8 to R15, R578 and the register tables of every chapter): each register's BAR0 offset, its
instances, and its fields with bit, width, access type, reset value and the range a write must lie in to change the field.
Reset values that the spec takes from the image, the fuses or a start-up step are those of DESIGN CHOICE, logs 3 and 4; the MSI-X table's
layout is that of PRESUMED, log 9. -/

namespace Sys2Proof.Machine

/-- Access types of R9. -/
inductive FieldType where
  | rw | ro | w1c | w1s | wo
  deriving DecidableEq, Repr

/-- A field: low bit, width, type, reset value, least and greatest value a write may store, and whether the reset value is
the instance number. -/
structure Field where
  lo : Nat
  w : Nat
  ty : FieldType
  reset : Nat
  least : Nat
  most : Nat
  index : Bool
  deriving DecidableEq, Repr

/-- A register: name, BAR0 offset of its first instance, instances as (count, stride), fields. -/
structure RegRow where
  name : String
  base : Nat
  dims : List (Nat × Nat)
  fields : List Field
  deriving DecidableEq, Repr

/-- Part 0 of the map. -/
def regMap0 : List RegRow := [
  ⟨"TA_ID", 0x1000000, [(200, 0x4000)], [⟨0, 8, .ro, 0, 0, 255, true⟩, ⟨8, 8, .ro, 255, 0, 255, false⟩, ⟨16, 1, .ro, 0, 0, 1, false⟩]⟩,
  ⟨"TA_CTRL", 0x1000004, [(200, 0x4000)], [⟨0, 2, .rw, 0, 0, 2, false⟩, ⟨2, 1, .rw, 0, 0, 1, false⟩, ⟨3, 1, .wo, 0, 0, 1, false⟩]⟩,
  ⟨"TA_STATUS", 0x1000008, [(200, 0x4000)], [⟨0, 3, .ro, 0, 0, 7, false⟩, ⟨3, 1, .w1c, 0, 0, 1, false⟩, ⟨4, 1, .w1c, 0, 0, 1, false⟩, ⟨5, 1, .w1c, 0, 0, 1, false⟩]⟩,
  ⟨"TA_QSTAT", 0x100000C, [(200, 0x4000)], [⟨0, 5, .ro, 0, 0, 31, false⟩, ⟨8, 5, .ro, 0, 0, 31, false⟩, ⟨16, 1, .w1c, 0, 0, 1, false⟩, ⟨17, 1, .wo, 0, 0, 1, false⟩]⟩,
  ⟨"TA_CURSOR", 0x1000010, [(200, 0x4000)], [⟨0, 9, .ro, 0, 0, 511, false⟩, ⟨16, 16, .ro, 0, 0, 65535, false⟩]⟩,
  ⟨"TA_STOP", 0x1000014, [(200, 0x4000)], [⟨0, 1, .wo, 0, 0, 1, false⟩, ⟨1, 1, .wo, 0, 0, 1, false⟩]⟩,
  ⟨"TA_DFLAGS", 0x1000018, [(200, 0x4000)], [⟨0, 9, .ro, 0, 0, 511, false⟩, ⟨16, 16, .ro, 0, 0, 65535, false⟩]⟩,
  ⟨"TA_ACCV_CTRL", 0x1001000, [(200, 0x4000)], [⟨0, 1, .rw, 0, 0, 1, false⟩, ⟨1, 1, .rw, 0, 0, 1, false⟩]⟩,
  ⟨"TA_ACCV_STATUS", 0x1001004, [(200, 0x4000)], [⟨0, 2, .ro, 0, 0, 3, false⟩, ⟨2, 1, .ro, 0, 0, 1, false⟩]⟩,
  ⟨"TA_ACCV_SEL", 0x1001008, [(200, 0x4000)], [⟨0, 7, .rw, 0, 0, 127, false⟩, ⟨8, 8, .rw, 0, 0, 255, false⟩]⟩,
  ⟨"TA_ACCV_DATA", 0x1001010, [(200, 0x4000), (4, 0x4)], [⟨0, 32, .ro, 0, 0, 4294967295, false⟩]⟩,
  ⟨"TA_ACCV_META", 0x1001020, [(200, 0x4000)], [⟨0, 3, .ro, 0, 0, 7, false⟩, ⟨3, 3, .ro, 0, 0, 7, false⟩, ⟨6, 1, .ro, 0, 0, 1, false⟩, ⟨7, 1, .ro, 0, 0, 1, false⟩, ⟨8, 1, .ro, 0, 0, 1, false⟩, ⟨9, 1, .ro, 0, 0, 1, false⟩, ⟨10, 1, .ro, 0, 0, 1, false⟩, ⟨11, 1, .ro, 0, 0, 1, false⟩, ⟨12, 1, .ro, 0, 0, 1, false⟩, ⟨13, 9, .ro, 0, 0, 511, false⟩]⟩,
  ⟨"TA_ACCV_COL", 0x1001024, [(200, 0x4000)], [⟨0, 10, .ro, 0, 0, 1023, false⟩, ⟨10, 1, .ro, 0, 0, 1, false⟩, ⟨11, 1, .ro, 0, 0, 1, false⟩, ⟨12, 1, .ro, 0, 0, 1, false⟩, ⟨13, 1, .ro, 0, 0, 1, false⟩, ⟨16, 16, .ro, 0, 0, 65535, false⟩]⟩,
  ⟨"TA_ACCV_OWN", 0x1001028, [(200, 0x4000)], [⟨0, 16, .ro, 0, 0, 65535, false⟩, ⟨16, 13, .ro, 0, 0, 8191, false⟩]⟩,
  ⟨"TE_DRING_CFG", 0x200F000, [(50, 0x10000), (4, 0x10)], [⟨0, 7, .rw, 0, 0, 127, false⟩, ⟨8, 6, .rw, 0, 0, 63, false⟩]⟩,
  ⟨"TE_DRING_STAT", 0x200F004, [(50, 0x10000), (4, 0x10)], [⟨0, 9, .ro, 0, 0, 511, false⟩, ⟨16, 5, .ro, 0, 0, 31, false⟩, ⟨24, 1, .w1c, 0, 0, 1, false⟩, ⟨25, 1, .w1c, 0, 0, 1, false⟩]⟩,
  ⟨"DSP_TRIG_STAT", 0x60C000, [], [⟨0, 13, .ro, 0, 0, 8191, false⟩, ⟨16, 1, .w1c, 0, 0, 1, false⟩, ⟨17, 1, .w1c, 0, 0, 1, false⟩, ⟨18, 1, .w1c, 0, 0, 1, false⟩]⟩,
  ⟨"TE_ID", 0x2000000, [(50, 0x10000)], [⟨0, 8, .ro, 0, 0, 255, true⟩, ⟨8, 8, .ro, 255, 0, 255, false⟩, ⟨16, 1, .ro, 0, 0, 1, false⟩]⟩,
  ⟨"TE_CTRL", 0x2000004, [(50, 0x10000)], [⟨0, 5, .rw, 20, 16, 28, false⟩, ⟨5, 1, .rw, 0, 0, 1, false⟩, ⟨6, 1, .wo, 0, 0, 1, false⟩]⟩,
  ⟨"TE_OCC", 0x2000008, [(50, 0x10000)], [⟨0, 6, .ro, 0, 0, 63, false⟩, ⟨8, 11, .ro, 1024, 0, 2047, false⟩, ⟨20, 9, .ro, 384, 0, 511, false⟩]⟩,
  ⟨"TE_TRAP_PEND0", 0x2000010, [(50, 0x10000)], [⟨0, 32, .w1c, 0, 0, 4294967295, false⟩]⟩,
  ⟨"TE_TRAP_PEND1", 0x2000014, [(50, 0x10000)], [⟨0, 16, .w1c, 0, 0, 65535, false⟩]⟩,
  ⟨"TE_TRAP_SEL", 0x2000018, [(50, 0x10000)], [⟨0, 6, .rw, 0, 0, 47, false⟩]⟩]

/-- Part 1 of the map. -/
def regMap1 : List RegRow := [
  ⟨"TE_TRAP_INFO", 0x200001C, [(50, 0x10000)], [⟨0, 8, .ro, 0, 0, 255, false⟩, ⟨8, 5, .ro, 0, 0, 31, false⟩, ⟨16, 8, .ro, 0, 0, 255, false⟩, ⟨24, 5, .ro, 0, 0, 31, false⟩]⟩,
  ⟨"TE_DBG_CTRL", 0x2000100, [(50, 0x10000)], [⟨0, 6, .rw, 0, 0, 63, false⟩, ⟨8, 1, .wo, 0, 0, 1, false⟩, ⟨9, 1, .wo, 0, 0, 1, false⟩, ⟨10, 1, .wo, 0, 0, 1, false⟩, ⟨11, 1, .rw, 0, 0, 1, false⟩, ⟨12, 1, .wo, 0, 0, 1, false⟩, ⟨13, 1, .wo, 0, 0, 1, false⟩]⟩,
  ⟨"TE_DBG_STAT", 0x2000104, [(50, 0x10000)], [⟨0, 2, .ro, 0, 0, 3, false⟩, ⟨2, 1, .w1c, 0, 0, 1, false⟩, ⟨3, 1, .ro, 0, 0, 1, false⟩, ⟨4, 1, .w1c, 0, 0, 1, false⟩, ⟨16, 5, .ro, 0, 0, 31, false⟩]⟩,
  ⟨"TE_DBG_SEL", 0x2000108, [(50, 0x10000)], [⟨0, 5, .rw, 0, 0, 31, false⟩, ⟨5, 3, .rw, 0, 0, 7, false⟩, ⟨8, 8, .rw, 0, 0, 255, false⟩]⟩,
  ⟨"TE_DBG_DATA", 0x200010C, [(50, 0x10000)], [⟨0, 32, .rw, 0, 0, 4294967295, false⟩]⟩,
  ⟨"TE_BRK_LO", 0x2000120, [(50, 0x10000), (4, 0x8)], [⟨0, 1, .rw, 0, 0, 1, false⟩, ⟨3, 29, .rw, 0, 0, 536870911, false⟩]⟩,
  ⟨"TE_BRK_HI", 0x2000124, [(50, 0x10000), (4, 0x8)], [⟨0, 16, .rw, 0, 0, 65535, false⟩]⟩,
  ⟨"RLZ_CFG", 0x3000000, [], [⟨0, 4, .rw, 0, 0, 12, false⟩]⟩,
  ⟨"RLZ_STATUS", 0x3000004, [], [⟨0, 7, .ro, 0, 0, 127, false⟩, ⟨8, 4, .ro, 0, 0, 15, false⟩, ⟨16, 1, .ro, 0, 0, 1, false⟩, ⟨17, 1, .ro, 0, 0, 1, false⟩, ⟨18, 1, .w1c, 0, 0, 1, false⟩, ⟨19, 1, .w1c, 0, 0, 1, false⟩, ⟨20, 1, .w1c, 0, 0, 1, false⟩]⟩,
  ⟨"RLZ_FLUSH", 0x3000008, [], [⟨0, 1, .wo, 0, 0, 1, false⟩, ⟨1, 1, .wo, 0, 0, 1, false⟩]⟩,
  ⟨"RLZ_HOLD_SIZE", 0x300000C, [], [⟨0, 24, .ro, 0, 0, 16777215, false⟩]⟩,
  ⟨"RLZ_SC_ID", 0x3001000, [(64, 0x40)], [⟨0, 6, .ro, 0, 0, 63, true⟩, ⟨8, 8, .ro, 255, 0, 255, false⟩, ⟨16, 1, .ro, 0, 0, 1, false⟩]⟩,
  ⟨"RLZ_PB_ID", 0x3003000, [(50, 0x40)], [⟨0, 6, .ro, 0, 0, 63, true⟩, ⟨8, 8, .ro, 255, 0, 255, false⟩, ⟨16, 1, .ro, 0, 0, 1, false⟩]⟩,
  ⟨"RLZ_SC_VC", 0x3001004, [(64, 0x40)], [⟨0, 2, .ro, 0, 0, 3, false⟩, ⟨2, 2, .ro, 0, 0, 3, false⟩, ⟨16, 10, .ro, 0, 0, 1023, false⟩, ⟨26, 6, .ro, 0, 0, 63, false⟩]⟩,
  ⟨"RLZ_PB_VC", 0x3003004, [(50, 0x40)], [⟨0, 2, .ro, 0, 0, 3, false⟩, ⟨2, 2, .ro, 0, 0, 3, false⟩, ⟨16, 10, .ro, 0, 0, 1023, false⟩, ⟨26, 6, .ro, 0, 0, 63, false⟩]⟩,
  ⟨"RLZ_SC_OCC", 0x3001008, [(64, 0x40)], [⟨0, 8, .ro, 0, 0, 255, false⟩, ⟨8, 8, .ro, 0, 0, 255, false⟩, ⟨16, 1, .w1c, 0, 0, 1, false⟩, ⟨17, 1, .wo, 0, 0, 1, false⟩]⟩,
  ⟨"RLZ_MV_DESC", 0x3008000, [(32, 0x100), (16, 0x4)], [⟨0, 32, .rw, 0, 0, 4294967295, false⟩]⟩,
  ⟨"RLZ_MV_SUBMIT", 0x3008040, [(32, 0x100)], [⟨0, 1, .wo, 0, 0, 1, false⟩]⟩,
  ⟨"RLZ_MV_STAT", 0x3008044, [(32, 0x100)], [⟨0, 6, .ro, 0, 0, 63, false⟩, ⟨8, 1, .w1c, 0, 0, 1, false⟩, ⟨9, 1, .w1c, 0, 0, 1, false⟩, ⟨10, 1, .w1c, 0, 0, 1, false⟩, ⟨12, 4, .ro, 0, 0, 15, false⟩]⟩,
  ⟨"DSP_TINT_LIM", 0x600000, [(8, 0x10), (4, 0x4)], [⟨0, 16, .rw, 0, 0, 65535, false⟩, ⟨16, 16, .rw, 65535, 0, 65535, false⟩]⟩,
  ⟨"DSP_TINT_EFF", 0x600100, [(8, 0x10), (4, 0x4)], [⟨0, 16, .ro, 0, 0, 65535, false⟩]⟩,
  ⟨"DSP_TINT_CAP", 0x600200, [(4, 0x4)], [⟨0, 16, .ro, 0, 0, 65535, false⟩]⟩]

/-- Part 2 of the map. -/
def regMap2 : List RegRow := [
  ⟨"DSP_TINT_STAT", 0x600210, [], [⟨0, 4, .w1c, 0, 0, 15, false⟩, ⟨4, 4, .ro, 0, 0, 15, false⟩, ⟨8, 1, .w1c, 0, 0, 1, false⟩]⟩,
  ⟨"DSP_TINT_HOST", 0x600214, [], [⟨0, 3, .rw, 0, 0, 6, false⟩]⟩,
  ⟨"NEAR_STATUS", 0xC00000, [], [⟨0, 4, .ro, 0, 0, 15, false⟩, ⟨4, 1, .w1c, 0, 0, 1, false⟩, ⟨8, 24, .ro, 0, 0, 16777215, false⟩]⟩,
  ⟨"NEAR_CTL_STAT", 0xC00100, [(12, 0x4)], [⟨0, 3, .ro, 0, 0, 7, false⟩, ⟨3, 1, .ro, 0, 0, 1, false⟩, ⟨8, 4, .ro, 15, 0, 15, false⟩]⟩,
  ⟨"FME_CFG", 0xE00000, [], [⟨0, 11, .rw, 336, 24, 2000, false⟩, ⟨16, 8, .rw, 200, 8, 255, false⟩]⟩,
  ⟨"FME_CFG2", 0xE00004, [], [⟨0, 8, .rw, 8, 1, 255, false⟩, ⟨8, 11, .rw, 168, 0, 2000, false⟩]⟩,
  ⟨"FME_PERSIST", 0xE00008, [], [⟨0, 1, .wo, 0, 0, 1, false⟩]⟩,
  ⟨"FME_PERSIST_STAT", 0xE0000C, [], [⟨0, 16, .ro, 0, 0, 65535, false⟩, ⟨16, 16, .ro, 0, 0, 65535, false⟩]⟩,
  ⟨"FME_STATUS", 0xE00010, [], [⟨0, 1, .ro, 0, 0, 1, false⟩, ⟨1, 1, .w1c, 0, 0, 1, false⟩, ⟨2, 1, .w1c, 0, 0, 1, false⟩]⟩,
  ⟨"FME_PORT_STAT", 0xE00100, [(12, 0x10)], [⟨0, 3, .ro, 0, 0, 7, false⟩, ⟨4, 3, .ro, 0, 0, 7, false⟩, ⟨7, 1, .w1c, 0, 0, 1, false⟩, ⟨8, 1, .w1c, 0, 0, 1, false⟩, ⟨9, 1, .w1c, 0, 0, 1, false⟩]⟩,
  ⟨"FME_PORT_POOL", 0xE00104, [(12, 0x10)], [⟨0, 24, .ro, 0, 0, 16777215, false⟩]⟩,
  ⟨"FME_PORT_WEAR", 0xE00108, [(12, 0x10)], [⟨0, 18, .ro, 0, 0, 262143, false⟩]⟩,
  ⟨"FME_PORT_CMD", 0xE0010C, [(12, 0x10)], [⟨0, 2, .wo, 0, 0, 3, false⟩]⟩,
  ⟨"DSP_ITEM_CFG", 0x600400, [], [⟨0, 16, .rw, 1, 1, 65535, false⟩, ⟨16, 8, .rw, 1, 1, 255, false⟩, ⟨24, 4, .rw, 1, 1, 15, false⟩, ⟨28, 1, .rw, 0, 0, 1, false⟩]⟩,
  ⟨"DSP_ITEM_STAT", 0x600404, [], [⟨0, 14, .ro, 0, 0, 16383, false⟩, ⟨14, 1, .w1c, 0, 0, 1, false⟩, ⟨15, 1, .w1c, 0, 0, 1, false⟩, ⟨16, 14, .ro, 0, 0, 16383, false⟩, ⟨30, 1, .w1c, 0, 0, 1, false⟩]⟩,
  ⟨"DSP_SQ_BASE_LO", 0x602000, [(64, 0x40)], [⟨12, 20, .rw, 0, 0, 1048575, false⟩]⟩,
  ⟨"DSP_SQ_BASE_HI", 0x602004, [(64, 0x40)], [⟨0, 32, .rw, 0, 0, 4294967295, false⟩]⟩,
  ⟨"DSP_CQ_BASE_LO", 0x602008, [(64, 0x40)], [⟨12, 20, .rw, 0, 0, 1048575, false⟩]⟩,
  ⟨"DSP_CQ_BASE_HI", 0x60200C, [(64, 0x40)], [⟨0, 32, .rw, 0, 0, 4294967295, false⟩]⟩,
  ⟨"DSP_RING_CFG", 0x602010, [(64, 0x40)], [⟨0, 5, .rw, 6, 6, 16, false⟩, ⟨8, 5, .rw, 6, 6, 16, false⟩, ⟨16, 1, .rw, 0, 0, 1, false⟩, ⟨17, 1, .rw, 0, 0, 1, false⟩]⟩,
  ⟨"DSP_SQ_TAIL", 0x602014, [(64, 0x40)], [⟨0, 16, .rw, 0, 0, 65535, false⟩]⟩,
  ⟨"DSP_SQ_HEAD", 0x602018, [(64, 0x40)], [⟨0, 16, .ro, 0, 0, 65535, false⟩]⟩]

/-- Part 3 of the map. -/
def regMap3 : List RegRow := [
  ⟨"DSP_CQ_TAIL", 0x60201C, [(64, 0x40)], [⟨0, 16, .ro, 0, 0, 65535, false⟩]⟩,
  ⟨"DSP_CQ_HEAD", 0x602020, [(64, 0x40)], [⟨0, 16, .rw, 0, 0, 65535, false⟩]⟩,
  ⟨"DSP_RING_STAT", 0x602024, [(64, 0x40)], [⟨0, 1, .w1c, 0, 0, 1, false⟩, ⟨1, 1, .w1c, 0, 0, 1, false⟩, ⟨2, 1, .w1c, 0, 0, 1, false⟩]⟩,
  ⟨"FAB_PORT_CTRL", 0x800000, [(16, 0x10000)], [⟨0, 1, .rw, 0, 0, 1, false⟩, ⟨1, 1, .wo, 0, 0, 1, false⟩, ⟨2, 2, .rw, 0, 0, 3, false⟩]⟩,
  ⟨"FAB_PORT_STAT", 0x800004, [(16, 0x10000)], [⟨0, 3, .ro, 0, 0, 7, false⟩, ⟨4, 4, .ro, 0, 0, 15, false⟩, ⟨8, 4, .ro, 0, 0, 15, false⟩, ⟨12, 1, .ro, 0, 0, 1, false⟩, ⟨13, 1, .ro, 0, 0, 1, false⟩, ⟨16, 1, .w1c, 0, 0, 1, false⟩, ⟨17, 1, .w1c, 0, 0, 1, false⟩, ⟨18, 1, .w1c, 0, 0, 1, false⟩, ⟨19, 1, .w1c, 0, 0, 1, false⟩]⟩,
  ⟨"FAB_PORT_PARTNER", 0x800008, [(16, 0x10000)], [⟨0, 16, .ro, 0, 0, 65535, false⟩, ⟨16, 4, .ro, 0, 0, 15, false⟩, ⟨20, 1, .ro, 0, 0, 1, false⟩]⟩,
  ⟨"FAB_FI_CTRL", 0x800100, [(16, 0x10000)], [⟨0, 2, .rw, 0, 0, 3, false⟩, ⟨2, 1, .rw, 0, 0, 1, false⟩, ⟨3, 5, .rw, 16, 1, 31, false⟩, ⟨8, 8, .rw, 0, 0, 255, false⟩, ⟨16, 7, .rw, 0, 0, 127, false⟩]⟩,
  ⟨"FAB_FI_SEED", 0x800104, [(16, 0x10000)], [⟨0, 32, .rw, 1, 0, 4294967295, false⟩]⟩,
  ⟨"FAB_FI_STAT", 0x800108, [(16, 0x10000)], [⟨0, 2, .ro, 0, 0, 3, false⟩]⟩,
  ⟨"FAB_TRACE_CTRL", 0x800200, [(16, 0x10000)], [⟨0, 1, .rw, 0, 0, 1, false⟩, ⟨1, 1, .rw, 0, 0, 1, false⟩]⟩,
  ⟨"FAB_TRACE_STAT", 0x800204, [(16, 0x10000)], [⟨0, 2, .ro, 0, 0, 3, false⟩, ⟨2, 9, .ro, 0, 0, 511, false⟩]⟩,
  ⟨"FAB_ID", 0x900000, [], [⟨0, 16, .ro, 0, 0, 65535, false⟩, ⟨16, 1, .ro, 0, 0, 1, false⟩, ⟨17, 1, .ro, 0, 0, 1, false⟩, ⟨18, 1, .ro, 0, 0, 1, false⟩, ⟨19, 1, .w1c, 0, 0, 1, false⟩]⟩,
  ⟨"FAB_CFG", 0x900004, [], [⟨0, 1, .rw, 0, 0, 1, false⟩, ⟨1, 4, .rw, 0, 0, 15, false⟩, ⟨5, 8, .rw, 1, 1, 255, false⟩]⟩,
  ⟨"FAB_JOIN_STAT", 0x900008, [], [⟨0, 2, .ro, 0, 0, 3, false⟩, ⟨8, 8, .ro, 0, 0, 255, false⟩, ⟨16, 1, .w1c, 0, 0, 1, false⟩, ⟨17, 1, .w1c, 0, 0, 1, false⟩, ⟨18, 1, .w1c, 0, 0, 1, false⟩]⟩,
  ⟨"FAB_ROUTE_GEN", 0x90000C, [], [⟨0, 32, .ro, 0, 0, 4294967295, false⟩]⟩,
  ⟨"FAB_CMD", 0x900010, [], [⟨0, 1, .wo, 0, 0, 1, false⟩, ⟨1, 1, .wo, 0, 0, 1, false⟩]⟩,
  ⟨"FAB_MGR_STAT", 0x900014, [], [⟨0, 13, .ro, 0, 0, 8191, false⟩, ⟨16, 5, .ro, 0, 0, 31, false⟩]⟩,
  ⟨"FAB_ROUTE_DEV", 0x901000, [(4096, 0x4)], [⟨0, 4, .ro, 0, 0, 15, false⟩, ⟨4, 4, .ro, 0, 0, 15, false⟩, ⟨8, 1, .ro, 0, 0, 1, false⟩, ⟨9, 1, .ro, 0, 0, 1, false⟩, ⟨16, 8, .ro, 0, 0, 255, false⟩]⟩,
  ⟨"FAB_ROUTE_DOM", 0x905000, [(16, 0x4)], [⟨0, 4, .ro, 0, 0, 15, false⟩, ⟨4, 4, .ro, 0, 0, 15, false⟩, ⟨8, 1, .ro, 0, 0, 1, false⟩, ⟨9, 1, .ro, 0, 0, 1, false⟩, ⟨16, 8, .ro, 0, 0, 255, false⟩]⟩,
  ⟨"ERR_CAUSE", 0x400000, [], [⟨0, 1, .w1c, 0, 0, 1, false⟩, ⟨1, 1, .w1c, 0, 0, 1, false⟩, ⟨2, 1, .w1c, 0, 0, 1, false⟩, ⟨3, 1, .w1c, 0, 0, 1, false⟩, ⟨4, 1, .w1c, 0, 0, 1, false⟩, ⟨5, 1, .w1c, 0, 0, 1, false⟩, ⟨6, 1, .w1c, 0, 0, 1, false⟩, ⟨7, 1, .w1c, 0, 0, 1, false⟩]⟩,
  ⟨"ERR_IEN", 0x400004, [], [⟨0, 8, .rw, 0, 0, 255, false⟩]⟩,
  ⟨"ERR_LAST0", 0x400040, [], [⟨0, 4, .ro, 0, 0, 15, false⟩, ⟨8, 10, .ro, 0, 0, 1023, false⟩]⟩]

/-- Part 4 of the map. -/
def regMap4 : List RegRow := [
  ⟨"ERR_LAST1", 0x400044, [], [⟨0, 32, .ro, 0, 0, 4294967295, false⟩]⟩,
  ⟨"ERR_BKT", 0x401000, [(515, 0x4)], [⟨0, 16, .ro, 0, 0, 65535, false⟩, ⟨16, 16, .ro, 0, 0, 65535, false⟩]⟩,
  ⟨"ERR_SCRUB_CTRL", 0x400080, [], [⟨0, 4, .rw, 0, 0, 15, false⟩]⟩,
  ⟨"ERR_SCRUB_LAP", 0x400090, [(4, 0x4)], [⟨0, 32, .ro, 0, 0, 4294967295, false⟩]⟩,
  ⟨"ERR_SCRUB_LIM", 0x4000A0, [], [⟨0, 32, .rw, 4096, 0, 4294967295, false⟩]⟩,
  ⟨"ERR_SCRUB_LIM", 0x4000A4, [], [⟨0, 32, .rw, 65536, 0, 4294967295, false⟩]⟩,
  ⟨"ERR_SCRUB_LIM", 0x4000A8, [], [⟨0, 32, .rw, 16384, 0, 4294967295, false⟩]⟩,
  ⟨"ERR_SCRUB_LIM", 0x4000AC, [], [⟨0, 32, .rw, 40000000, 0, 4294967295, false⟩]⟩,
  ⟨"REP_STATUS", 0x400200, [], [⟨0, 8, .ro, 0, 0, 255, false⟩, ⟨8, 2, .ro, 0, 0, 3, false⟩, ⟨10, 1, .w1c, 0, 0, 1, false⟩, ⟨11, 1, .ro, 0, 0, 1, false⟩, ⟨16, 16, .ro, 0, 0, 65535, false⟩]⟩,
  ⟨"REP_PEND_SEL", 0x400204, [], [⟨0, 8, .rw, 0, 0, 255, false⟩]⟩,
  ⟨"REP_PEND", 0x400208, [], [⟨0, 32, .ro, 0, 0, 4294967295, false⟩]⟩,
  ⟨"REP_CMD", 0x40020C, [], [⟨0, 1, .wo, 0, 0, 1, false⟩, ⟨1, 1, .wo, 0, 0, 1, false⟩, ⟨2, 1, .wo, 0, 0, 1, false⟩]⟩,
  ⟨"REP_WSEQ", 0x400210, [], [⟨0, 32, .rw, 0, 0, 4294967295, false⟩]⟩,
  ⟨"REP_REGION", 0x400300, [(48, 0x4)], [⟨0, 6, .ro, 0, 0, 63, false⟩, ⟨6, 1, .ro, 0, 0, 1, false⟩]⟩,
  ⟨"PWR_CTRL", 0x200000, [], [⟨0, 1, .rw, 0, 0, 1, false⟩, ⟨1, 1, .rw, 0, 0, 1, false⟩, ⟨2, 1, .rw, 0, 0, 1, false⟩]⟩,
  ⟨"PWR_CMD", 0x200004, [], [⟨0, 1, .wo, 0, 0, 1, false⟩, ⟨1, 1, .wo, 0, 0, 1, false⟩]⟩,
  ⟨"PWR_STATUS", 0x200008, [], [⟨0, 2, .ro, 0, 0, 3, false⟩, ⟨2, 3, .ro, 0, 0, 7, false⟩, ⟨16, 6, .ro, 0, 0, 63, false⟩]⟩,
  ⟨"PWR_GOV_CFG", 0x20000C, [], [⟨0, 12, .rw, 500, 50, 4000, false⟩, ⟨12, 12, .rw, 250, 25, 4000, false⟩, ⟨24, 8, .rw, 20, 1, 255, false⟩]⟩,
  ⟨"PWR_PHASE", 0x200010, [], [⟨0, 8, .rw, 0, 0, 255, false⟩]⟩,
  ⟨"PWR_INPUT", 0x200014, [], [⟨0, 12, .ro, 0, 0, 4095, false⟩, ⟨12, 10, .ro, 0, 0, 1023, false⟩]⟩,
  ⟨"PWR_RATING", 0x200018, [], [⟨0, 12, .ro, 1700, 0, 4095, false⟩]⟩,
  ⟨"PWR_CAUSE", 0x200020, [], [⟨0, 1, .w1c, 0, 0, 1, false⟩, ⟨1, 1, .w1c, 0, 0, 1, false⟩, ⟨2, 1, .w1c, 0, 0, 1, false⟩, ⟨3, 1, .w1c, 0, 0, 1, false⟩, ⟨4, 1, .w1c, 0, 0, 1, false⟩, ⟨5, 1, .w1c, 0, 0, 1, false⟩, ⟨6, 1, .w1c, 0, 0, 1, false⟩, ⟨7, 1, .w1c, 0, 0, 1, false⟩]⟩]

/-- Part 5 of the map. -/
def regMap5 : List RegRow := [
  ⟨"PWR_IEN", 0x200024, [], [⟨0, 8, .rw, 0, 0, 255, false⟩]⟩,
  ⟨"PWR_REGION", 0x200100, [(50, 0x4)], [⟨0, 3, .ro, 0, 0, 7, false⟩, ⟨3, 1, .ro, 0, 0, 1, false⟩, ⟨4, 8, .ro, 0, 0, 255, false⟩, ⟨12, 4, .ro, 0, 0, 15, false⟩, ⟨16, 4, .ro, 0, 0, 15, false⟩]⟩,
  ⟨"THM_CFG", 0x300000, [], [⟨0, 7, .rw, 15, 5, 100, false⟩, ⟨7, 3, .rw, 3, 0, 7, false⟩, ⟨10, 4, .rw, 1, 1, 15, false⟩, ⟨14, 5, .rw, 5, 1, 31, false⟩, ⟨19, 7, .rw, 70, 0, 110, false⟩]⟩,
  ⟨"THM_LIM_DX", 0x300004, [], [⟨0, 8, .rw, 95, 0, 95, false⟩, ⟨8, 8, .rw, 102, 0, 102, false⟩, ⟨16, 8, .ro, 112, 0, 255, false⟩]⟩,
  ⟨"THM_LIM_RZ", 0x300008, [], [⟨0, 8, .rw, 95, 0, 95, false⟩, ⟨8, 8, .rw, 100, 0, 100, false⟩, ⟨16, 8, .ro, 108, 0, 255, false⟩]⟩,
  ⟨"THM_STATUS", 0x30000C, [], [⟨0, 16, .ro, 0, 0, 65535, false⟩, ⟨16, 1, .ro, 0, 0, 1, false⟩, ⟨17, 4, .ro, 0, 0, 15, false⟩, ⟨21, 4, .ro, 0, 0, 15, false⟩, ⟨25, 6, .ro, 0, 0, 63, false⟩]⟩,
  ⟨"THM_CMD", 0x300018, [], [⟨0, 1, .wo, 0, 0, 1, false⟩]⟩,
  ⟨"THM_CAUSE", 0x300010, [], [⟨0, 1, .w1c, 0, 0, 1, false⟩, ⟨1, 1, .w1c, 0, 0, 1, false⟩, ⟨2, 1, .w1c, 0, 0, 1, false⟩, ⟨3, 1, .w1c, 0, 0, 1, false⟩, ⟨4, 1, .w1c, 0, 0, 1, false⟩, ⟨5, 1, .w1c, 0, 0, 1, false⟩, ⟨6, 1, .w1c, 0, 0, 1, false⟩, ⟨7, 1, .w1c, 0, 0, 1, false⟩]⟩,
  ⟨"THM_IEN", 0x300014, [], [⟨0, 8, .rw, 0, 0, 255, false⟩]⟩,
  ⟨"THM_TRIP0", 0x300020, [], [⟨0, 16, .ro, 0, 0, 65535, false⟩, ⟨16, 9, .ro, 0, 0, 511, false⟩, ⟨25, 3, .ro, 0, 0, 7, false⟩, ⟨28, 1, .ro, 0, 0, 1, false⟩]⟩,
  ⟨"THM_TRIP1", 0x300024, [], [⟨0, 32, .ro, 0, 0, 4294967295, false⟩]⟩,
  ⟨"THM_SENS", 0x301000, [(384, 0x4)], [⟨0, 16, .ro, 0, 0, 65535, false⟩, ⟨16, 1, .ro, 0, 0, 1, false⟩]⟩,
  ⟨"THM_RZ_EST0", 0x302000, [(64, 0x8)], [⟨0, 16, .ro, 0, 0, 65535, false⟩, ⟨16, 16, .ro, 0, 0, 65535, false⟩]⟩,
  ⟨"THM_RZ_EST1", 0x302004, [(64, 0x8)], [⟨0, 16, .ro, 0, 0, 65535, false⟩, ⟨16, 16, .ro, 0, 0, 65535, false⟩]⟩,
  ⟨"THM_REGION", 0x303000, [(50, 0x4)], [⟨0, 4, .ro, 0, 0, 15, false⟩, ⟨4, 4, .ro, 0, 0, 15, false⟩, ⟨8, 16, .ro, 0, 0, 65535, false⟩, ⟨24, 1, .ro, 0, 0, 1, false⟩]⟩,
  ⟨"BOOT_STEP", 0x100000, [], [⟨0, 4, .ro, 0, 0, 15, false⟩, ⟨4, 3, .ro, 0, 0, 7, false⟩, ⟨7, 1, .ro, 0, 0, 1, false⟩, ⟨8, 1, .ro, 0, 0, 1, false⟩, ⟨9, 1, .ro, 0, 0, 1, false⟩, ⟨16, 8, .ro, 0, 0, 255, false⟩]⟩,
  ⟨"BOOT_FAIL", 0x100004, [], [⟨0, 24, .ro, 0, 0, 16777215, false⟩]⟩,
  ⟨"BOOT_CTRL", 0x100008, [], [⟨0, 4, .rw, 15, 0, 15, false⟩, ⟨4, 1, .rw, 0, 0, 1, false⟩, ⟨5, 2, .rw, 0, 0, 2, false⟩]⟩,
  ⟨"BOOT_CMD", 0x10000C, [], [⟨0, 1, .wo, 0, 0, 1, false⟩, ⟨1, 1, .wo, 0, 0, 1, false⟩]⟩,
  ⟨"BOOT_IMG", 0x100010, [(2, 0x4)], [⟨0, 3, .ro, 0, 0, 7, false⟩, ⟨8, 7, .ro, 0, 0, 127, false⟩, ⟨16, 16, .ro, 0, 0, 65535, false⟩]⟩,
  ⟨"BOOT_FL_OFF", 0x100020, [], [⟨12, 15, .rw, 0, 0, 32767, false⟩]⟩,
  ⟨"BOOT_FL_CMD", 0x100024, [], [⟨0, 1, .wo, 0, 0, 1, false⟩, ⟨1, 1, .wo, 0, 0, 1, false⟩]⟩]

/-- Part 6 of the map. -/
def regMap6 : List RegRow := [
  ⟨"BOOT_FL_STAT", 0x100028, [], [⟨0, 1, .ro, 0, 0, 1, false⟩, ⟨1, 1, .w1c, 0, 0, 1, false⟩, ⟨2, 1, .w1c, 0, 0, 1, false⟩]⟩,
  ⟨"SEC_STAT", 0x108000, [], [⟨0, 1, .ro, 0, 0, 1, false⟩, ⟨1, 1, .ro, 0, 0, 1, false⟩, ⟨2, 1, .ro, 0, 0, 1, false⟩, ⟨4, 4, .ro, 0, 0, 15, false⟩, ⟨8, 4, .ro, 0, 0, 15, false⟩, ⟨12, 7, .ro, 0, 0, 127, false⟩]⟩,
  ⟨"SEC_CMD", 0x108004, [], [⟨0, 1, .wo, 0, 0, 1, false⟩, ⟨1, 1, .wo, 0, 0, 1, false⟩, ⟨2, 1, .wo, 0, 0, 1, false⟩, ⟨3, 1, .wo, 0, 0, 1, false⟩]⟩,
  ⟨"SEC_SERIAL_LO", 0x108008, [], [⟨0, 32, .ro, 0, 0, 4294967295, false⟩]⟩,
  ⟨"SEC_SERIAL_HI", 0x10800C, [], [⟨0, 32, .ro, 0, 0, 4294967295, false⟩]⟩,
  ⟨"SEC_RELAY_DST", 0x108300, [], [⟨0, 16, .rw, 0, 0, 65535, false⟩, ⟨16, 13, .rw, 0, 1, 4096, false⟩]⟩,
  ⟨"SEC_RELAY_CMD", 0x108304, [], [⟨0, 1, .wo, 0, 0, 1, false⟩]⟩,
  ⟨"SEC_RELAY_STAT", 0x108308, [], [⟨0, 2, .ro, 0, 0, 3, false⟩, ⟨4, 13, .ro, 0, 0, 8191, false⟩]⟩,
  ⟨"GLB_ID", 0x0, [], [⟨0, 16, .ro, 150, 0, 65535, false⟩, ⟨16, 16, .ro, 3162, 0, 65535, false⟩]⟩,
  ⟨"GLB_REV", 0x4, [], [⟨0, 8, .ro, 17, 0, 255, false⟩, ⟨8, 8, .ro, 2, 0, 255, false⟩, ⟨16, 1, .ro, 0, 0, 1, false⟩]⟩,
  ⟨"GLB_PCIID", 0x8, [], [⟨0, 16, .ro, 11354, 0, 65535, false⟩, ⟨16, 16, .ro, 55648, 0, 65535, false⟩]⟩,
  ⟨"GLB_MGCFW", 0xC, [], [⟨0, 32, .ro, 0, 0, 4294967295, false⟩]⟩,
  ⟨"GLB_TEFW", 0x10, [], [⟨0, 32, .ro, 0, 0, 4294967295, false⟩]⟩,
  ⟨"GLB_FAM0", 0x20, [], [⟨0, 8, .ro, 200, 0, 255, false⟩, ⟨8, 8, .ro, 0, 0, 255, false⟩, ⟨16, 6, .ro, 50, 0, 63, false⟩, ⟨22, 6, .ro, 0, 0, 63, false⟩, ⟨28, 4, .ro, 4, 0, 15, false⟩]⟩,
  ⟨"GLB_FAM1", 0x24, [], [⟨0, 8, .ro, 128, 0, 255, false⟩, ⟨8, 8, .ro, 128, 0, 255, false⟩, ⟨16, 6, .ro, 50, 0, 63, false⟩, ⟨22, 6, .ro, 0, 0, 63, false⟩]⟩,
  ⟨"GLB_FAM2", 0x28, [], [⟨0, 8, .ro, 64, 0, 255, false⟩, ⟨8, 6, .ro, 48, 0, 63, false⟩, ⟨14, 6, .ro, 32, 0, 63, false⟩, ⟨20, 8, .ro, 128, 0, 255, false⟩]⟩,
  ⟨"GLB_FAM3", 0x2C, [], [⟨0, 7, .ro, 64, 0, 127, false⟩, ⟨7, 7, .ro, 0, 0, 127, false⟩, ⟨14, 8, .ro, 34, 0, 255, false⟩, ⟨22, 6, .ro, 0, 0, 63, false⟩, ⟨28, 4, .ro, 8, 0, 15, false⟩]⟩,
  ⟨"GLB_FAM4", 0x30, [], [⟨0, 8, .ro, 128, 0, 255, false⟩, ⟨8, 9, .ro, 256, 0, 511, false⟩, ⟨17, 4, .ro, 12, 0, 15, false⟩, ⟨21, 5, .ro, 24, 0, 31, false⟩]⟩,
  ⟨"GLB_FAM5", 0x34, [], [⟨0, 5, .ro, 16, 0, 31, false⟩, ⟨5, 4, .ro, 12, 0, 15, false⟩, ⟨9, 3, .ro, 4, 0, 7, false⟩, ⟨12, 4, .ro, 0, 0, 15, false⟩, ⟨16, 14, .ro, 8192, 0, 16383, false⟩]⟩,
  ⟨"GLB_FAM6", 0x38, [], [⟨0, 12, .ro, 2500, 0, 4095, false⟩]⟩,
  ⟨"GLB_UPTIME_LO", 0x40, [], [⟨0, 32, .ro, 0, 0, 4294967295, false⟩]⟩,
  ⟨"GLB_UPTIME_HI", 0x44, [], [⟨0, 32, .ro, 0, 0, 4294967295, false⟩]⟩]

/-- Part 7 of the map. -/
def regMap7 : List RegRow := [
  ⟨"GLB_POWERON", 0x48, [], [⟨0, 32, .ro, 0, 0, 4294967295, false⟩]⟩,
  ⟨"GLB_SCRATCH", 0x50, [(4, 0x4)], [⟨0, 32, .rw, 0, 0, 4294967295, false⟩]⟩,
  ⟨"GLB_BAR2_BASE_LO", 0x60, [], [⟨30, 2, .rw, 0, 0, 3, false⟩]⟩,
  ⟨"GLB_BAR2_BASE_HI", 0x64, [], [⟨0, 16, .rw, 0, 0, 65535, false⟩]⟩,
  ⟨"GLB_HSTAT", 0x68, [], [⟨0, 3, .ro, 0, 0, 7, false⟩, ⟨3, 3, .ro, 0, 0, 7, false⟩, ⟨6, 1, .ro, 0, 0, 1, false⟩, ⟨7, 1, .ro, 0, 0, 1, false⟩, ⟨16, 1, .w1c, 0, 0, 1, false⟩, ⟨17, 1, .w1c, 0, 0, 1, false⟩]⟩,
  ⟨"GLB_BAR2_ERRADDR_LO", 0x70, [], [⟨0, 32, .ro, 0, 0, 4294967295, false⟩]⟩,
  ⟨"GLB_BAR2_ERRADDR_HI", 0x74, [], [⟨0, 16, .ro, 0, 0, 65535, false⟩, ⟨16, 1, .ro, 0, 0, 1, false⟩]⟩,
  ⟨"GLB_CAUSE", 0x80, [], [⟨0, 1, .w1c, 0, 0, 1, false⟩, ⟨1, 1, .ro, 0, 0, 1, false⟩, ⟨2, 1, .ro, 0, 0, 1, false⟩, ⟨3, 1, .ro, 0, 0, 1, false⟩, ⟨4, 1, .ro, 0, 0, 1, false⟩, ⟨5, 1, .ro, 0, 0, 1, false⟩, ⟨6, 1, .w1c, 0, 0, 1, false⟩, ⟨7, 1, .ro, 0, 0, 1, false⟩]⟩,
  ⟨"GLB_IEN", 0x84, [], [⟨0, 8, .rw, 0, 0, 255, false⟩]⟩,
  ⟨"ERR_BKT_CFG", 0x400010, [], [⟨0, 16, .rw, 16, 1, 65535, false⟩, ⟨16, 6, .rw, 30, 16, 44, false⟩]⟩,
  ⟨"ERR_BKT_CFG", 0x400014, [], [⟨0, 16, .rw, 16, 1, 65535, false⟩, ⟨16, 6, .rw, 30, 16, 44, false⟩]⟩,
  ⟨"ERR_BKT_CFG", 0x400018, [], [⟨0, 16, .rw, 32, 1, 65535, false⟩, ⟨16, 6, .rw, 30, 16, 44, false⟩]⟩,
  ⟨"ERR_BKT_CFG", 0x40001C, [], [⟨0, 16, .rw, 64, 1, 65535, false⟩, ⟨16, 6, .rw, 30, 16, 44, false⟩]⟩,
  ⟨"ERR_BKT_CFG", 0x400020, [], [⟨0, 16, .rw, 64, 1, 65535, false⟩, ⟨16, 6, .rw, 30, 16, 44, false⟩]⟩,
  ⟨"ERR_BKT_CFG", 0x400024, [], [⟨0, 16, .rw, 256, 1, 65535, false⟩, ⟨16, 6, .rw, 28, 16, 44, false⟩]⟩,
  ⟨"ERR_BKT_CFG", 0x400028, [], [⟨0, 16, .rw, 1024, 1, 65535, false⟩, ⟨16, 6, .rw, 28, 16, 44, false⟩]⟩,
  ⟨"ERR_BKT_CFG", 0x40002C, [], [⟨0, 16, .rw, 4, 1, 65535, false⟩, ⟨16, 6, .rw, 41, 16, 44, false⟩]⟩,
  ⟨"ERR_BKT_CFG", 0x400030, [], [⟨0, 16, .rw, 16, 1, 65535, false⟩, ⟨16, 6, .rw, 34, 16, 44, false⟩]⟩,
  ⟨"TA_CNT_BUSY_LO", 0x1000020, [(200, 0x4000)], [⟨0, 32, .ro, 0, 0, 4294967295, false⟩]⟩,
  ⟨"TA_CNT_BUSY_HI", 0x1000024, [(200, 0x4000)], [⟨0, 32, .ro, 0, 0, 4294967295, false⟩]⟩,
  ⟨"TA_CNT_OPWAIT_LO", 0x1000028, [(200, 0x4000)], [⟨0, 32, .ro, 0, 0, 4294967295, false⟩]⟩,
  ⟨"TA_CNT_OPWAIT_HI", 0x100002C, [(200, 0x4000)], [⟨0, 32, .ro, 0, 0, 4294967295, false⟩]⟩]

/-- Part 8 of the map. -/
def regMap8 : List RegRow := [
  ⟨"TA_CNT_EPIWAIT_LO", 0x1000030, [(200, 0x4000)], [⟨0, 32, .ro, 0, 0, 4294967295, false⟩]⟩,
  ⟨"TA_CNT_EPIWAIT_HI", 0x1000034, [(200, 0x4000)], [⟨0, 32, .ro, 0, 0, 4294967295, false⟩]⟩,
  ⟨"TA_CNT_TRIGWAIT_LO", 0x1000038, [(200, 0x4000)], [⟨0, 32, .ro, 0, 0, 4294967295, false⟩]⟩,
  ⟨"TA_CNT_TRIGWAIT_HI", 0x100003C, [(200, 0x4000)], [⟨0, 32, .ro, 0, 0, 4294967295, false⟩]⟩,
  ⟨"TA_CNT_PAUSE_LO", 0x1000040, [(200, 0x4000)], [⟨0, 32, .ro, 0, 0, 4294967295, false⟩]⟩,
  ⟨"TA_CNT_PAUSE_HI", 0x1000044, [(200, 0x4000)], [⟨0, 32, .ro, 0, 0, 4294967295, false⟩]⟩,
  ⟨"TA_CNT_RAMP_LO", 0x1000048, [(200, 0x4000)], [⟨0, 32, .ro, 0, 0, 4294967295, false⟩]⟩,
  ⟨"TA_CNT_RAMP_HI", 0x100004C, [(200, 0x4000)], [⟨0, 32, .ro, 0, 0, 4294967295, false⟩]⟩,
  ⟨"TE_CNT_ISSUE_LO", 0x2000040, [(50, 0x10000)], [⟨0, 32, .ro, 0, 0, 4294967295, false⟩]⟩,
  ⟨"TE_CNT_ISSUE_HI", 0x2000044, [(50, 0x10000)], [⟨0, 32, .ro, 0, 0, 4294967295, false⟩]⟩,
  ⟨"TE_CNT_NOREADY_LO", 0x2000048, [(50, 0x10000)], [⟨0, 32, .ro, 0, 0, 4294967295, false⟩]⟩,
  ⟨"TE_CNT_NOREADY_HI", 0x200004C, [(50, 0x10000)], [⟨0, 32, .ro, 0, 0, 4294967295, false⟩]⟩,
  ⟨"TE_CNT_PARTIAL_LO", 0x2000050, [(50, 0x10000)], [⟨0, 32, .ro, 0, 0, 4294967295, false⟩]⟩,
  ⟨"TE_CNT_PARTIAL_HI", 0x2000054, [(50, 0x10000)], [⟨0, 32, .ro, 0, 0, 4294967295, false⟩]⟩,
  ⟨"TE_CNT_STARVE_LO", 0x2000058, [(50, 0x10000)], [⟨0, 32, .ro, 0, 0, 4294967295, false⟩]⟩,
  ⟨"TE_CNT_STARVE_HI", 0x200005C, [(50, 0x10000)], [⟨0, 32, .ro, 0, 0, 4294967295, false⟩]⟩,
  ⟨"TE_CNT_PROMOTE_LO", 0x2000060, [(50, 0x10000)], [⟨0, 32, .ro, 0, 0, 4294967295, false⟩]⟩,
  ⟨"TE_CNT_PROMOTE_HI", 0x2000064, [(50, 0x10000)], [⟨0, 32, .ro, 0, 0, 4294967295, false⟩]⟩,
  ⟨"TE_CNT_BARWAIT_LO", 0x2000068, [(50, 0x10000)], [⟨0, 32, .ro, 0, 0, 4294967295, false⟩]⟩,
  ⟨"TE_CNT_BARWAIT_HI", 0x200006C, [(50, 0x10000)], [⟨0, 32, .ro, 0, 0, 4294967295, false⟩]⟩,
  ⟨"RLZ_SC_CNT_HIT_LO", 0x3001010, [(64, 0x40)], [⟨0, 32, .ro, 0, 0, 4294967295, false⟩]⟩,
  ⟨"RLZ_SC_CNT_HIT_HI", 0x3001014, [(64, 0x40)], [⟨0, 32, .ro, 0, 0, 4294967295, false⟩]⟩]

/-- Part 9 of the map. -/
def regMap9 : List RegRow := [
  ⟨"RLZ_SC_CNT_MISS_LO", 0x3001018, [(64, 0x40)], [⟨0, 32, .ro, 0, 0, 4294967295, false⟩]⟩,
  ⟨"RLZ_SC_CNT_MISS_HI", 0x300101C, [(64, 0x40)], [⟨0, 32, .ro, 0, 0, 4294967295, false⟩]⟩,
  ⟨"RLZ_SC_CNT_FULL_LO", 0x3001020, [(64, 0x40)], [⟨0, 32, .ro, 0, 0, 4294967295, false⟩]⟩,
  ⟨"RLZ_SC_CNT_FULL_HI", 0x3001024, [(64, 0x40)], [⟨0, 32, .ro, 0, 0, 4294967295, false⟩]⟩,
  ⟨"DSP_CNT_DONE_LO", 0x600410, [], [⟨0, 32, .ro, 0, 0, 4294967295, false⟩]⟩,
  ⟨"DSP_CNT_DONE_HI", 0x600414, [], [⟨0, 32, .ro, 0, 0, 4294967295, false⟩]⟩,
  ⟨"DSP_CNT_FAILED_LO", 0x600418, [], [⟨0, 32, .ro, 0, 0, 4294967295, false⟩]⟩,
  ⟨"DSP_CNT_FAILED_HI", 0x60041C, [], [⟨0, 32, .ro, 0, 0, 4294967295, false⟩]⟩,
  ⟨"DSP_CNT_SUPERSEDED_LO", 0x600420, [], [⟨0, 32, .ro, 0, 0, 4294967295, false⟩]⟩,
  ⟨"DSP_CNT_SUPERSEDED_HI", 0x600424, [], [⟨0, 32, .ro, 0, 0, 4294967295, false⟩]⟩,
  ⟨"DSP_CNT_ABANDONED_LO", 0x600428, [], [⟨0, 32, .ro, 0, 0, 4294967295, false⟩]⟩,
  ⟨"DSP_CNT_ABANDONED_HI", 0x60042C, [], [⟨0, 32, .ro, 0, 0, 4294967295, false⟩]⟩,
  ⟨"DSP_CNT_RESENT_LO", 0x600430, [], [⟨0, 32, .ro, 0, 0, 4294967295, false⟩]⟩,
  ⟨"DSP_CNT_RESENT_HI", 0x600434, [], [⟨0, 32, .ro, 0, 0, 4294967295, false⟩]⟩,
  ⟨"DSP_CNT_CRCDROP_LO", 0x600438, [], [⟨0, 32, .ro, 0, 0, 4294967295, false⟩]⟩,
  ⟨"DSP_CNT_CRCDROP_HI", 0x60043C, [], [⟨0, 32, .ro, 0, 0, 4294967295, false⟩]⟩,
  ⟨"DSP_TINT_CNT_STALL_LO", 0x600300, [(8, 0x8)], [⟨0, 32, .ro, 0, 0, 4294967295, false⟩]⟩,
  ⟨"DSP_TINT_CNT_STALL_HI", 0x600304, [(8, 0x8)], [⟨0, 32, .ro, 0, 0, 4294967295, false⟩]⟩,
  ⟨"FAB_CNT_FECCORR_LO", 0x800040, [(16, 0x10000)], [⟨0, 32, .ro, 0, 0, 4294967295, false⟩]⟩,
  ⟨"FAB_CNT_FECCORR_HI", 0x800044, [(16, 0x10000)], [⟨0, 32, .ro, 0, 0, 4294967295, false⟩]⟩,
  ⟨"FAB_CNT_FECUNC_LO", 0x800048, [(16, 0x10000)], [⟨0, 32, .ro, 0, 0, 4294967295, false⟩]⟩,
  ⟨"FAB_CNT_FECUNC_HI", 0x80004C, [(16, 0x10000)], [⟨0, 32, .ro, 0, 0, 4294967295, false⟩]⟩]

/-- Part 10 of the map. -/
def regMap10 : List RegRow := [
  ⟨"FAB_CNT_CRCERR_LO", 0x800050, [(16, 0x10000)], [⟨0, 32, .ro, 0, 0, 4294967295, false⟩]⟩,
  ⟨"FAB_CNT_CRCERR_HI", 0x800054, [(16, 0x10000)], [⟨0, 32, .ro, 0, 0, 4294967295, false⟩]⟩,
  ⟨"FAB_CNT_REPLAY_LO", 0x800058, [(16, 0x10000)], [⟨0, 32, .ro, 0, 0, 4294967295, false⟩]⟩,
  ⟨"FAB_CNT_REPLAY_HI", 0x80005C, [(16, 0x10000)], [⟨0, 32, .ro, 0, 0, 4294967295, false⟩]⟩,
  ⟨"FAB_CNT_CREDSTALL_LO", 0x800060, [(16, 0x10000)], [⟨0, 32, .ro, 0, 0, 4294967295, false⟩]⟩,
  ⟨"FAB_CNT_CREDSTALL_HI", 0x800064, [(16, 0x10000)], [⟨0, 32, .ro, 0, 0, 4294967295, false⟩]⟩,
  ⟨"FAB_CNT_TXBYTES_LO", 0x800068, [(16, 0x10000)], [⟨0, 32, .ro, 0, 0, 4294967295, false⟩]⟩,
  ⟨"FAB_CNT_TXBYTES_HI", 0x80006C, [(16, 0x10000)], [⟨0, 32, .ro, 0, 0, 4294967295, false⟩]⟩,
  ⟨"FAB_CNT_RXBYTES_LO", 0x800070, [(16, 0x10000)], [⟨0, 32, .ro, 0, 0, 4294967295, false⟩]⟩,
  ⟨"FAB_CNT_RXBYTES_HI", 0x800074, [(16, 0x10000)], [⟨0, 32, .ro, 0, 0, 4294967295, false⟩]⟩,
  ⟨"FAB_CNT_INJ_LO", 0x800110, [(16, 0x10000)], [⟨0, 32, .ro, 0, 0, 4294967295, false⟩]⟩,
  ⟨"FAB_CNT_INJ_HI", 0x800114, [(16, 0x10000)], [⟨0, 32, .ro, 0, 0, 4294967295, false⟩]⟩,
  ⟨"FAB_CNT_NOROUTE_LO", 0x900040, [], [⟨0, 32, .ro, 0, 0, 4294967295, false⟩]⟩,
  ⟨"FAB_CNT_NOROUTE_HI", 0x900044, [], [⟨0, 32, .ro, 0, 0, 4294967295, false⟩]⟩,
  ⟨"FAB_CNT_TTLDROP_LO", 0x900048, [], [⟨0, 32, .ro, 0, 0, 4294967295, false⟩]⟩,
  ⟨"FAB_CNT_TTLDROP_HI", 0x90004C, [], [⟨0, 32, .ro, 0, 0, 4294967295, false⟩]⟩,
  ⟨"PWR_CNT_HOLD_LO", 0x200040, [], [⟨0, 32, .ro, 0, 0, 4294967295, false⟩]⟩,
  ⟨"PWR_CNT_HOLD_HI", 0x200044, [], [⟨0, 32, .ro, 0, 0, 4294967295, false⟩]⟩,
  ⟨"PWR_CNT_FLOOR_LO", 0x200048, [], [⟨0, 32, .ro, 0, 0, 4294967295, false⟩]⟩,
  ⟨"PWR_CNT_FLOOR_HI", 0x20004C, [], [⟨0, 32, .ro, 0, 0, 4294967295, false⟩]⟩,
  ⟨"PWR_CNT_SHORT_LO", 0x200050, [], [⟨0, 32, .ro, 0, 0, 4294967295, false⟩]⟩,
  ⟨"PWR_CNT_SHORT_HI", 0x200054, [], [⟨0, 32, .ro, 0, 0, 4294967295, false⟩]⟩]

/-- Part 11 of the map. -/
def regMap11 : List RegRow := [
  ⟨"TE_TRAP_PC_LO", 0x2000020, [(50, 0x10000)], [⟨0, 32, .ro, 0, 0, 4294967295, false⟩]⟩,
  ⟨"TE_TRAP_PC_HI", 0x2000024, [(50, 0x10000)], [⟨0, 16, .ro, 0, 0, 65535, false⟩]⟩,
  ⟨"TE_TRAP_ADDR_LO", 0x2000028, [(50, 0x10000)], [⟨0, 32, .ro, 0, 0, 4294967295, false⟩]⟩,
  ⟨"TE_TRAP_ADDR_HI", 0x200002C, [(50, 0x10000)], [⟨0, 16, .ro, 0, 0, 65535, false⟩]⟩,
  ⟨"TE_TRAP_ITEM", 0x2000030, [(50, 0x10000)], [⟨0, 29, .ro, 0, 0, 536870911, false⟩]⟩,
  ⟨"FAB_TRACE_REC", 0x804000, [(16, 0x10000), (4096, 0x4)], [⟨0, 32, .ro, 0, 0, 4294967295, false⟩]⟩,
  ⟨"BOOT_FL_BUF", 0x101000, [(1024, 0x4)], [⟨0, 32, .rw, 0, 0, 4294967295, false⟩]⟩,
  ⟨"SEC_NONCE", 0x108010, [(8, 0x4)], [⟨0, 32, .ro, 0, 0, 4294967295, false⟩]⟩,
  ⟨"SEC_XDATA", 0x108040, [(16, 0x4)], [⟨0, 32, .rw, 0, 0, 4294967295, false⟩]⟩,
  ⟨"SEC_MEAS", 0x108100, [(8, 0x40), (16, 0x4)], [⟨0, 32, .ro, 0, 0, 4294967295, false⟩]⟩,
  ⟨"SEC_IDPUB", 0x109000, [(488, 0x4)], [⟨0, 32, .ro, 0, 0, 4294967295, false⟩]⟩,
  ⟨"SEC_RELAY_BUF", 0x10A000, [(1024, 0x4)], [⟨0, 32, .rw, 0, 0, 4294967295, false⟩]⟩,
  ⟨"SEC_TOKEN", 0x10C000, [(4096, 0x4)], [⟨0, 32, .rw, 0, 0, 4294967295, false⟩]⟩,
  ⟨"MSIX_ADDR_LO", 0x8000, [(128, 0x10)], [⟨0, 32, .rw, 0, 0, 4294967295, false⟩]⟩,
  ⟨"MSIX_ADDR_HI", 0x8004, [(128, 0x10)], [⟨0, 32, .rw, 0, 0, 4294967295, false⟩]⟩,
  ⟨"MSIX_DATA", 0x8008, [(128, 0x10)], [⟨0, 32, .rw, 0, 0, 4294967295, false⟩]⟩,
  ⟨"MSIX_CTRL", 0x800C, [(128, 0x10)], [⟨0, 1, .rw, 1, 0, 1, false⟩]⟩,
  ⟨"MSIX_PBA", 0x9000, [(4, 0x4)], [⟨0, 32, .ro, 0, 0, 4294967295, false⟩]⟩]

/-- The whole map. -/
def regMap : List RegRow :=
  regMap0 ++ regMap1 ++ regMap2 ++ regMap3 ++ regMap4 ++ regMap5 ++ regMap6 ++ regMap7 ++ regMap8 ++ regMap9 ++ regMap10 ++ regMap11

/-- The instance numbers of an offset relative to a register's first instance, when it names an instance exactly. -/
def instOf : List (Nat × Nat) → Nat → Option (List Nat)
  | [], off => if off = 0 then some [] else none
  | (c, st) :: t, off =>
    let i := off / st
    if i < c then (instOf t (off - i * st)).map (i :: ·) else none

/-- The register at a BAR0 offset, with its instance (R14: none where no chapter defines one). -/
def findReg : List RegRow → Nat → Option (RegRow × List Nat)
  | [], _ => none
  | r :: t, off =>
    if r.base ≤ off then
      match instOf r.dims (off - r.base) with
      | some is => some (r, is)
      | none => findReg t off
    else findReg t off

/-- The reset word of a register instance. -/
def RegRow.resetWord (r : RegRow) (is : List Nat) : Word :=
  BitVec.ofNat 32 ((r.fields.map (fun f => (if f.index then is.headD 0 else f.reset) * 2 ^ f.lo)).foldl (· + ·) 0)

/-- The reset word at a BAR0 offset; zero where nothing is defined (R14, R15). -/
def resetWord (off : Nat) : Word :=
  match findReg regMap off with
  | some (r, is) => r.resetWord is
  | none => 0

/-- What a write of data leaves in one field's bits (R9, R11, R12): hw marks the bits that hardware sets in the same cycle. -/
def Field.write (f : Field) (old data hw : Word) : Nat :=
  let o := fld old f.lo f.w
  let d := fld data f.lo f.w
  let h := fld hw f.lo f.w
  match f.ty with
  | .rw => if f.least ≤ d ∧ d ≤ f.most then d else o
  | .ro => o
  | .w1c => (o &&& (2 ^ f.w - 1 - d)) ||| h
  | .w1s => o ||| d
  | .wo => 0

/-- The word after a write (R9, R12): reserved bits stay zero. -/
def RegRow.write (r : RegRow) (old data hw : Word) : Word :=
  BitVec.ofNat 32 ((r.fields.map (fun f => f.write old data hw * 2 ^ f.lo)).foldl (· + ·) 0)

/-- Offset of TA_ID. -/
def Reg.TA_ID (n : Nat) : Nat := 0x1000000 + 0x4000 * n
/-- Offset of TA_CTRL. -/
def Reg.TA_CTRL (n : Nat) : Nat := 0x1000004 + 0x4000 * n
/-- Offset of TA_STATUS. -/
def Reg.TA_STATUS (n : Nat) : Nat := 0x1000008 + 0x4000 * n
/-- Offset of TA_QSTAT. -/
def Reg.TA_QSTAT (n : Nat) : Nat := 0x100000C + 0x4000 * n
/-- Offset of TA_CURSOR. -/
def Reg.TA_CURSOR (n : Nat) : Nat := 0x1000010 + 0x4000 * n
/-- Offset of TA_STOP. -/
def Reg.TA_STOP (n : Nat) : Nat := 0x1000014 + 0x4000 * n
/-- Offset of TA_DFLAGS. -/
def Reg.TA_DFLAGS (n : Nat) : Nat := 0x1000018 + 0x4000 * n
/-- Offset of TA_ACCV_CTRL. -/
def Reg.TA_ACCV_CTRL (n : Nat) : Nat := 0x1001000 + 0x4000 * n
/-- Offset of TA_ACCV_STATUS. -/
def Reg.TA_ACCV_STATUS (n : Nat) : Nat := 0x1001004 + 0x4000 * n
/-- Offset of TA_ACCV_SEL. -/
def Reg.TA_ACCV_SEL (n : Nat) : Nat := 0x1001008 + 0x4000 * n
/-- Offset of TA_ACCV_DATA. -/
def Reg.TA_ACCV_DATA (n : Nat) (i : Nat) : Nat := 0x1001010 + 0x4000 * n + 0x4 * i
/-- Offset of TA_ACCV_META. -/
def Reg.TA_ACCV_META (n : Nat) : Nat := 0x1001020 + 0x4000 * n
/-- Offset of TA_ACCV_COL. -/
def Reg.TA_ACCV_COL (n : Nat) : Nat := 0x1001024 + 0x4000 * n
/-- Offset of TA_ACCV_OWN. -/
def Reg.TA_ACCV_OWN (n : Nat) : Nat := 0x1001028 + 0x4000 * n
/-- Offset of TE_DRING_CFG. -/
def Reg.TE_DRING_CFG (n : Nat) (i : Nat) : Nat := 0x200F000 + 0x10000 * n + 0x10 * i
/-- Offset of TE_DRING_STAT. -/
def Reg.TE_DRING_STAT (n : Nat) (i : Nat) : Nat := 0x200F004 + 0x10000 * n + 0x10 * i
/-- Offset of DSP_TRIG_STAT. -/
def Reg.DSP_TRIG_STAT : Nat := 0x60C000
/-- Offset of TE_ID. -/
def Reg.TE_ID (n : Nat) : Nat := 0x2000000 + 0x10000 * n
/-- Offset of TE_CTRL. -/
def Reg.TE_CTRL (n : Nat) : Nat := 0x2000004 + 0x10000 * n
/-- Offset of TE_OCC. -/
def Reg.TE_OCC (n : Nat) : Nat := 0x2000008 + 0x10000 * n
/-- Offset of TE_TRAP_PEND. -/
def Reg.TE_TRAP_PEND (n : Nat) (i : Nat) : Nat := 0x2000010 + 0x10000 * n + 0x4 * i
/-- Offset of TE_TRAP_SEL. -/
def Reg.TE_TRAP_SEL (n : Nat) : Nat := 0x2000018 + 0x10000 * n
/-- Offset of TE_TRAP_INFO. -/
def Reg.TE_TRAP_INFO (n : Nat) : Nat := 0x200001C + 0x10000 * n
/-- Offset of TE_DBG_CTRL. -/
def Reg.TE_DBG_CTRL (n : Nat) : Nat := 0x2000100 + 0x10000 * n
/-- Offset of TE_DBG_STAT. -/
def Reg.TE_DBG_STAT (n : Nat) : Nat := 0x2000104 + 0x10000 * n
/-- Offset of TE_DBG_SEL. -/
def Reg.TE_DBG_SEL (n : Nat) : Nat := 0x2000108 + 0x10000 * n
/-- Offset of TE_DBG_DATA. -/
def Reg.TE_DBG_DATA (n : Nat) : Nat := 0x200010C + 0x10000 * n
/-- Offset of TE_BRK_LO. -/
def Reg.TE_BRK_LO (n : Nat) (i : Nat) : Nat := 0x2000120 + 0x10000 * n + 0x8 * i
/-- Offset of TE_BRK_HI. -/
def Reg.TE_BRK_HI (n : Nat) (i : Nat) : Nat := 0x2000124 + 0x10000 * n + 0x8 * i
/-- Offset of RLZ_CFG. -/
def Reg.RLZ_CFG : Nat := 0x3000000
/-- Offset of RLZ_STATUS. -/
def Reg.RLZ_STATUS : Nat := 0x3000004
/-- Offset of RLZ_FLUSH. -/
def Reg.RLZ_FLUSH : Nat := 0x3000008
/-- Offset of RLZ_HOLD_SIZE. -/
def Reg.RLZ_HOLD_SIZE : Nat := 0x300000C
/-- Offset of RLZ_SC_ID. -/
def Reg.RLZ_SC_ID (n : Nat) : Nat := 0x3001000 + 0x40 * n
/-- Offset of RLZ_PB_ID. -/
def Reg.RLZ_PB_ID (n : Nat) : Nat := 0x3003000 + 0x40 * n
/-- Offset of RLZ_SC_VC. -/
def Reg.RLZ_SC_VC (n : Nat) : Nat := 0x3001004 + 0x40 * n
/-- Offset of RLZ_PB_VC. -/
def Reg.RLZ_PB_VC (n : Nat) : Nat := 0x3003004 + 0x40 * n
/-- Offset of RLZ_SC_OCC. -/
def Reg.RLZ_SC_OCC (n : Nat) : Nat := 0x3001008 + 0x40 * n
/-- Offset of RLZ_MV_DESC. -/
def Reg.RLZ_MV_DESC (n : Nat) (i : Nat) : Nat := 0x3008000 + 0x100 * n + 0x4 * i
/-- Offset of RLZ_MV_SUBMIT. -/
def Reg.RLZ_MV_SUBMIT (n : Nat) : Nat := 0x3008040 + 0x100 * n
/-- Offset of RLZ_MV_STAT. -/
def Reg.RLZ_MV_STAT (n : Nat) : Nat := 0x3008044 + 0x100 * n
/-- Offset of DSP_TINT_LIM. -/
def Reg.DSP_TINT_LIM (n : Nat) (i : Nat) : Nat := 0x600000 + 0x10 * n + 0x4 * i
/-- Offset of DSP_TINT_EFF. -/
def Reg.DSP_TINT_EFF (n : Nat) (i : Nat) : Nat := 0x600100 + 0x10 * n + 0x4 * i
/-- Offset of DSP_TINT_CAP. -/
def Reg.DSP_TINT_CAP (n : Nat) : Nat := 0x600200 + 0x4 * n
/-- Offset of DSP_TINT_STAT. -/
def Reg.DSP_TINT_STAT : Nat := 0x600210
/-- Offset of DSP_TINT_HOST. -/
def Reg.DSP_TINT_HOST : Nat := 0x600214
/-- Offset of NEAR_STATUS. -/
def Reg.NEAR_STATUS : Nat := 0xC00000
/-- Offset of NEAR_CTL_STAT. -/
def Reg.NEAR_CTL_STAT (n : Nat) : Nat := 0xC00100 + 0x4 * n
/-- Offset of FME_CFG. -/
def Reg.FME_CFG : Nat := 0xE00000
/-- Offset of FME_CFG2. -/
def Reg.FME_CFG2 : Nat := 0xE00004
/-- Offset of FME_PERSIST. -/
def Reg.FME_PERSIST : Nat := 0xE00008
/-- Offset of FME_PERSIST_STAT. -/
def Reg.FME_PERSIST_STAT : Nat := 0xE0000C
/-- Offset of FME_STATUS. -/
def Reg.FME_STATUS : Nat := 0xE00010
/-- Offset of FME_PORT_STAT. -/
def Reg.FME_PORT_STAT (n : Nat) : Nat := 0xE00100 + 0x10 * n
/-- Offset of FME_PORT_POOL. -/
def Reg.FME_PORT_POOL (n : Nat) : Nat := 0xE00104 + 0x10 * n
/-- Offset of FME_PORT_WEAR. -/
def Reg.FME_PORT_WEAR (n : Nat) : Nat := 0xE00108 + 0x10 * n
/-- Offset of FME_PORT_CMD. -/
def Reg.FME_PORT_CMD (n : Nat) : Nat := 0xE0010C + 0x10 * n
/-- Offset of DSP_ITEM_CFG. -/
def Reg.DSP_ITEM_CFG : Nat := 0x600400
/-- Offset of DSP_ITEM_STAT. -/
def Reg.DSP_ITEM_STAT : Nat := 0x600404
/-- Offset of DSP_SQ_BASE_LO. -/
def Reg.DSP_SQ_BASE_LO (n : Nat) : Nat := 0x602000 + 0x40 * n
/-- Offset of DSP_SQ_BASE_HI. -/
def Reg.DSP_SQ_BASE_HI (n : Nat) : Nat := 0x602004 + 0x40 * n
/-- Offset of DSP_CQ_BASE_LO. -/
def Reg.DSP_CQ_BASE_LO (n : Nat) : Nat := 0x602008 + 0x40 * n
/-- Offset of DSP_CQ_BASE_HI. -/
def Reg.DSP_CQ_BASE_HI (n : Nat) : Nat := 0x60200C + 0x40 * n
/-- Offset of DSP_RING_CFG. -/
def Reg.DSP_RING_CFG (n : Nat) : Nat := 0x602010 + 0x40 * n
/-- Offset of DSP_SQ_TAIL. -/
def Reg.DSP_SQ_TAIL (n : Nat) : Nat := 0x602014 + 0x40 * n
/-- Offset of DSP_SQ_HEAD. -/
def Reg.DSP_SQ_HEAD (n : Nat) : Nat := 0x602018 + 0x40 * n
/-- Offset of DSP_CQ_TAIL. -/
def Reg.DSP_CQ_TAIL (n : Nat) : Nat := 0x60201C + 0x40 * n
/-- Offset of DSP_CQ_HEAD. -/
def Reg.DSP_CQ_HEAD (n : Nat) : Nat := 0x602020 + 0x40 * n
/-- Offset of DSP_RING_STAT. -/
def Reg.DSP_RING_STAT (n : Nat) : Nat := 0x602024 + 0x40 * n
/-- Offset of FAB_PORT_CTRL. -/
def Reg.FAB_PORT_CTRL (n : Nat) : Nat := 0x800000 + 0x10000 * n
/-- Offset of FAB_PORT_STAT. -/
def Reg.FAB_PORT_STAT (n : Nat) : Nat := 0x800004 + 0x10000 * n
/-- Offset of FAB_PORT_PARTNER. -/
def Reg.FAB_PORT_PARTNER (n : Nat) : Nat := 0x800008 + 0x10000 * n
/-- Offset of FAB_FI_CTRL. -/
def Reg.FAB_FI_CTRL (n : Nat) : Nat := 0x800100 + 0x10000 * n
/-- Offset of FAB_FI_SEED. -/
def Reg.FAB_FI_SEED (n : Nat) : Nat := 0x800104 + 0x10000 * n
/-- Offset of FAB_FI_STAT. -/
def Reg.FAB_FI_STAT (n : Nat) : Nat := 0x800108 + 0x10000 * n
/-- Offset of FAB_TRACE_CTRL. -/
def Reg.FAB_TRACE_CTRL (n : Nat) : Nat := 0x800200 + 0x10000 * n
/-- Offset of FAB_TRACE_STAT. -/
def Reg.FAB_TRACE_STAT (n : Nat) : Nat := 0x800204 + 0x10000 * n
/-- Offset of FAB_ID. -/
def Reg.FAB_ID : Nat := 0x900000
/-- Offset of FAB_CFG. -/
def Reg.FAB_CFG : Nat := 0x900004
/-- Offset of FAB_JOIN_STAT. -/
def Reg.FAB_JOIN_STAT : Nat := 0x900008
/-- Offset of FAB_ROUTE_GEN. -/
def Reg.FAB_ROUTE_GEN : Nat := 0x90000C
/-- Offset of FAB_CMD. -/
def Reg.FAB_CMD : Nat := 0x900010
/-- Offset of FAB_MGR_STAT. -/
def Reg.FAB_MGR_STAT : Nat := 0x900014
/-- Offset of FAB_ROUTE_DEV. -/
def Reg.FAB_ROUTE_DEV (n : Nat) : Nat := 0x901000 + 0x4 * n
/-- Offset of FAB_ROUTE_DOM. -/
def Reg.FAB_ROUTE_DOM (n : Nat) : Nat := 0x905000 + 0x4 * n
/-- Offset of ERR_CAUSE. -/
def Reg.ERR_CAUSE : Nat := 0x400000
/-- Offset of ERR_IEN. -/
def Reg.ERR_IEN : Nat := 0x400004
/-- Offset of ERR_LAST0. -/
def Reg.ERR_LAST0 : Nat := 0x400040
/-- Offset of ERR_LAST1. -/
def Reg.ERR_LAST1 : Nat := 0x400044
/-- Offset of ERR_BKT. -/
def Reg.ERR_BKT (n : Nat) : Nat := 0x401000 + 0x4 * n
/-- Offset of ERR_SCRUB_CTRL. -/
def Reg.ERR_SCRUB_CTRL : Nat := 0x400080
/-- Offset of ERR_SCRUB_LAP. -/
def Reg.ERR_SCRUB_LAP (n : Nat) : Nat := 0x400090 + 0x4 * n
/-- Offset of ERR_SCRUB_LIM. -/
def Reg.ERR_SCRUB_LIM (n : Nat) : Nat := 0x4000A0 + 0x4 * n
/-- Offset of REP_STATUS. -/
def Reg.REP_STATUS : Nat := 0x400200
/-- Offset of REP_PEND_SEL. -/
def Reg.REP_PEND_SEL : Nat := 0x400204
/-- Offset of REP_PEND. -/
def Reg.REP_PEND : Nat := 0x400208
/-- Offset of REP_CMD. -/
def Reg.REP_CMD : Nat := 0x40020C
/-- Offset of REP_WSEQ. -/
def Reg.REP_WSEQ : Nat := 0x400210
/-- Offset of REP_REGION. -/
def Reg.REP_REGION (n : Nat) : Nat := 0x400300 + 0x4 * n
/-- Offset of PWR_CTRL. -/
def Reg.PWR_CTRL : Nat := 0x200000
/-- Offset of PWR_CMD. -/
def Reg.PWR_CMD : Nat := 0x200004
/-- Offset of PWR_STATUS. -/
def Reg.PWR_STATUS : Nat := 0x200008
/-- Offset of PWR_GOV_CFG. -/
def Reg.PWR_GOV_CFG : Nat := 0x20000C
/-- Offset of PWR_PHASE. -/
def Reg.PWR_PHASE : Nat := 0x200010
/-- Offset of PWR_INPUT. -/
def Reg.PWR_INPUT : Nat := 0x200014
/-- Offset of PWR_RATING. -/
def Reg.PWR_RATING : Nat := 0x200018
/-- Offset of PWR_CAUSE. -/
def Reg.PWR_CAUSE : Nat := 0x200020
/-- Offset of PWR_IEN. -/
def Reg.PWR_IEN : Nat := 0x200024
/-- Offset of PWR_REGION. -/
def Reg.PWR_REGION (n : Nat) : Nat := 0x200100 + 0x4 * n
/-- Offset of THM_CFG. -/
def Reg.THM_CFG : Nat := 0x300000
/-- Offset of THM_LIM_DX. -/
def Reg.THM_LIM_DX : Nat := 0x300004
/-- Offset of THM_LIM_RZ. -/
def Reg.THM_LIM_RZ : Nat := 0x300008
/-- Offset of THM_STATUS. -/
def Reg.THM_STATUS : Nat := 0x30000C
/-- Offset of THM_CMD. -/
def Reg.THM_CMD : Nat := 0x300018
/-- Offset of THM_CAUSE. -/
def Reg.THM_CAUSE : Nat := 0x300010
/-- Offset of THM_IEN. -/
def Reg.THM_IEN : Nat := 0x300014
/-- Offset of THM_TRIP0. -/
def Reg.THM_TRIP0 : Nat := 0x300020
/-- Offset of THM_TRIP1. -/
def Reg.THM_TRIP1 : Nat := 0x300024
/-- Offset of THM_SENS. -/
def Reg.THM_SENS (n : Nat) : Nat := 0x301000 + 0x4 * n
/-- Offset of THM_RZ_EST0. -/
def Reg.THM_RZ_EST0 (n : Nat) : Nat := 0x302000 + 0x8 * n
/-- Offset of THM_RZ_EST1. -/
def Reg.THM_RZ_EST1 (n : Nat) : Nat := 0x302004 + 0x8 * n
/-- Offset of THM_REGION. -/
def Reg.THM_REGION (n : Nat) : Nat := 0x303000 + 0x4 * n
/-- Offset of BOOT_STEP. -/
def Reg.BOOT_STEP : Nat := 0x100000
/-- Offset of BOOT_FAIL. -/
def Reg.BOOT_FAIL : Nat := 0x100004
/-- Offset of BOOT_CTRL. -/
def Reg.BOOT_CTRL : Nat := 0x100008
/-- Offset of BOOT_CMD. -/
def Reg.BOOT_CMD : Nat := 0x10000C
/-- Offset of BOOT_IMG. -/
def Reg.BOOT_IMG (n : Nat) : Nat := 0x100010 + 0x4 * n
/-- Offset of BOOT_FL_OFF. -/
def Reg.BOOT_FL_OFF : Nat := 0x100020
/-- Offset of BOOT_FL_CMD. -/
def Reg.BOOT_FL_CMD : Nat := 0x100024
/-- Offset of BOOT_FL_STAT. -/
def Reg.BOOT_FL_STAT : Nat := 0x100028
/-- Offset of SEC_STAT. -/
def Reg.SEC_STAT : Nat := 0x108000
/-- Offset of SEC_CMD. -/
def Reg.SEC_CMD : Nat := 0x108004
/-- Offset of SEC_SERIAL_LO. -/
def Reg.SEC_SERIAL_LO : Nat := 0x108008
/-- Offset of SEC_SERIAL_HI. -/
def Reg.SEC_SERIAL_HI : Nat := 0x10800C
/-- Offset of SEC_RELAY_DST. -/
def Reg.SEC_RELAY_DST : Nat := 0x108300
/-- Offset of SEC_RELAY_CMD. -/
def Reg.SEC_RELAY_CMD : Nat := 0x108304
/-- Offset of SEC_RELAY_STAT. -/
def Reg.SEC_RELAY_STAT : Nat := 0x108308
/-- Offset of GLB_ID. -/
def Reg.GLB_ID : Nat := 0x0
/-- Offset of GLB_REV. -/
def Reg.GLB_REV : Nat := 0x4
/-- Offset of GLB_PCIID. -/
def Reg.GLB_PCIID : Nat := 0x8
/-- Offset of GLB_MGCFW. -/
def Reg.GLB_MGCFW : Nat := 0xC
/-- Offset of GLB_TEFW. -/
def Reg.GLB_TEFW : Nat := 0x10
/-- Offset of GLB_FAM0. -/
def Reg.GLB_FAM0 : Nat := 0x20
/-- Offset of GLB_FAM1. -/
def Reg.GLB_FAM1 : Nat := 0x24
/-- Offset of GLB_FAM2. -/
def Reg.GLB_FAM2 : Nat := 0x28
/-- Offset of GLB_FAM3. -/
def Reg.GLB_FAM3 : Nat := 0x2C
/-- Offset of GLB_FAM4. -/
def Reg.GLB_FAM4 : Nat := 0x30
/-- Offset of GLB_FAM5. -/
def Reg.GLB_FAM5 : Nat := 0x34
/-- Offset of GLB_FAM6. -/
def Reg.GLB_FAM6 : Nat := 0x38
/-- Offset of GLB_UPTIME_LO. -/
def Reg.GLB_UPTIME_LO : Nat := 0x40
/-- Offset of GLB_UPTIME_HI. -/
def Reg.GLB_UPTIME_HI : Nat := 0x44
/-- Offset of GLB_POWERON. -/
def Reg.GLB_POWERON : Nat := 0x48
/-- Offset of GLB_SCRATCH. -/
def Reg.GLB_SCRATCH (n : Nat) : Nat := 0x50 + 0x4 * n
/-- Offset of GLB_BAR2_BASE_LO. -/
def Reg.GLB_BAR2_BASE_LO : Nat := 0x60
/-- Offset of GLB_BAR2_BASE_HI. -/
def Reg.GLB_BAR2_BASE_HI : Nat := 0x64
/-- Offset of GLB_HSTAT. -/
def Reg.GLB_HSTAT : Nat := 0x68
/-- Offset of GLB_BAR2_ERRADDR_LO. -/
def Reg.GLB_BAR2_ERRADDR_LO : Nat := 0x70
/-- Offset of GLB_BAR2_ERRADDR_HI. -/
def Reg.GLB_BAR2_ERRADDR_HI : Nat := 0x74
/-- Offset of GLB_CAUSE. -/
def Reg.GLB_CAUSE : Nat := 0x80
/-- Offset of GLB_IEN. -/
def Reg.GLB_IEN : Nat := 0x84
/-- Offset of ERR_BKT_CFG. -/
def Reg.ERR_BKT_CFG (n : Nat) : Nat := 0x400010 + 0x4 * n
/-- Offset of TA_CNT_BUSY. -/
def Reg.TA_CNT_BUSY (n : Nat) : Nat := 0x1000020 + 0x4000 * n
/-- Offset of TA_CNT_OPWAIT. -/
def Reg.TA_CNT_OPWAIT (n : Nat) : Nat := 0x1000028 + 0x4000 * n
/-- Offset of TA_CNT_EPIWAIT. -/
def Reg.TA_CNT_EPIWAIT (n : Nat) : Nat := 0x1000030 + 0x4000 * n
/-- Offset of TA_CNT_TRIGWAIT. -/
def Reg.TA_CNT_TRIGWAIT (n : Nat) : Nat := 0x1000038 + 0x4000 * n
/-- Offset of TA_CNT_PAUSE. -/
def Reg.TA_CNT_PAUSE (n : Nat) : Nat := 0x1000040 + 0x4000 * n
/-- Offset of TA_CNT_RAMP. -/
def Reg.TA_CNT_RAMP (n : Nat) : Nat := 0x1000048 + 0x4000 * n
/-- Offset of TE_CNT_ISSUE. -/
def Reg.TE_CNT_ISSUE (n : Nat) : Nat := 0x2000040 + 0x10000 * n
/-- Offset of TE_CNT_NOREADY. -/
def Reg.TE_CNT_NOREADY (n : Nat) : Nat := 0x2000048 + 0x10000 * n
/-- Offset of TE_CNT_PARTIAL. -/
def Reg.TE_CNT_PARTIAL (n : Nat) : Nat := 0x2000050 + 0x10000 * n
/-- Offset of TE_CNT_STARVE. -/
def Reg.TE_CNT_STARVE (n : Nat) : Nat := 0x2000058 + 0x10000 * n
/-- Offset of TE_CNT_PROMOTE. -/
def Reg.TE_CNT_PROMOTE (n : Nat) : Nat := 0x2000060 + 0x10000 * n
/-- Offset of TE_CNT_BARWAIT. -/
def Reg.TE_CNT_BARWAIT (n : Nat) : Nat := 0x2000068 + 0x10000 * n
/-- Offset of RLZ_SC_CNT_HIT. -/
def Reg.RLZ_SC_CNT_HIT (n : Nat) : Nat := 0x3001010 + 0x40 * n
/-- Offset of RLZ_SC_CNT_MISS. -/
def Reg.RLZ_SC_CNT_MISS (n : Nat) : Nat := 0x3001018 + 0x40 * n
/-- Offset of RLZ_SC_CNT_FULL. -/
def Reg.RLZ_SC_CNT_FULL (n : Nat) : Nat := 0x3001020 + 0x40 * n
/-- Offset of DSP_CNT_DONE. -/
def Reg.DSP_CNT_DONE : Nat := 0x600410
/-- Offset of DSP_CNT_FAILED. -/
def Reg.DSP_CNT_FAILED : Nat := 0x600418
/-- Offset of DSP_CNT_SUPERSEDED. -/
def Reg.DSP_CNT_SUPERSEDED : Nat := 0x600420
/-- Offset of DSP_CNT_ABANDONED. -/
def Reg.DSP_CNT_ABANDONED : Nat := 0x600428
/-- Offset of DSP_CNT_RESENT. -/
def Reg.DSP_CNT_RESENT : Nat := 0x600430
/-- Offset of DSP_CNT_CRCDROP. -/
def Reg.DSP_CNT_CRCDROP : Nat := 0x600438
/-- Offset of DSP_TINT_CNT_STALL. -/
def Reg.DSP_TINT_CNT_STALL (n : Nat) : Nat := 0x600300 + 0x8 * n
/-- Offset of FAB_CNT_FECCORR. -/
def Reg.FAB_CNT_FECCORR (n : Nat) : Nat := 0x800040 + 0x10000 * n
/-- Offset of FAB_CNT_FECUNC. -/
def Reg.FAB_CNT_FECUNC (n : Nat) : Nat := 0x800048 + 0x10000 * n
/-- Offset of FAB_CNT_CRCERR. -/
def Reg.FAB_CNT_CRCERR (n : Nat) : Nat := 0x800050 + 0x10000 * n
/-- Offset of FAB_CNT_REPLAY. -/
def Reg.FAB_CNT_REPLAY (n : Nat) : Nat := 0x800058 + 0x10000 * n
/-- Offset of FAB_CNT_CREDSTALL. -/
def Reg.FAB_CNT_CREDSTALL (n : Nat) : Nat := 0x800060 + 0x10000 * n
/-- Offset of FAB_CNT_TXBYTES. -/
def Reg.FAB_CNT_TXBYTES (n : Nat) : Nat := 0x800068 + 0x10000 * n
/-- Offset of FAB_CNT_RXBYTES. -/
def Reg.FAB_CNT_RXBYTES (n : Nat) : Nat := 0x800070 + 0x10000 * n
/-- Offset of FAB_CNT_INJ. -/
def Reg.FAB_CNT_INJ (n : Nat) : Nat := 0x800110 + 0x10000 * n
/-- Offset of FAB_CNT_NOROUTE. -/
def Reg.FAB_CNT_NOROUTE : Nat := 0x900040
/-- Offset of FAB_CNT_TTLDROP. -/
def Reg.FAB_CNT_TTLDROP : Nat := 0x900048
/-- Offset of PWR_CNT_HOLD. -/
def Reg.PWR_CNT_HOLD : Nat := 0x200040
/-- Offset of PWR_CNT_FLOOR. -/
def Reg.PWR_CNT_FLOOR : Nat := 0x200048
/-- Offset of PWR_CNT_SHORT. -/
def Reg.PWR_CNT_SHORT : Nat := 0x200050
/-- Offset of TE_TRAP_PC_LO. -/
def Reg.TE_TRAP_PC_LO (n : Nat) : Nat := 0x2000020 + 0x10000 * n
/-- Offset of TE_TRAP_PC_HI. -/
def Reg.TE_TRAP_PC_HI (n : Nat) : Nat := 0x2000024 + 0x10000 * n
/-- Offset of TE_TRAP_ADDR_LO. -/
def Reg.TE_TRAP_ADDR_LO (n : Nat) : Nat := 0x2000028 + 0x10000 * n
/-- Offset of TE_TRAP_ADDR_HI. -/
def Reg.TE_TRAP_ADDR_HI (n : Nat) : Nat := 0x200002C + 0x10000 * n
/-- Offset of TE_TRAP_ITEM. -/
def Reg.TE_TRAP_ITEM (n : Nat) : Nat := 0x2000030 + 0x10000 * n
/-- Offset of FAB_TRACE_REC. -/
def Reg.FAB_TRACE_REC (n : Nat) (i : Nat) : Nat := 0x804000 + 0x10000 * n + 0x4 * i
/-- Offset of BOOT_FL_BUF. -/
def Reg.BOOT_FL_BUF (n : Nat) : Nat := 0x101000 + 0x4 * n
/-- Offset of SEC_NONCE. -/
def Reg.SEC_NONCE (n : Nat) : Nat := 0x108010 + 0x4 * n
/-- Offset of SEC_XDATA. -/
def Reg.SEC_XDATA (n : Nat) : Nat := 0x108040 + 0x4 * n
/-- Offset of SEC_MEAS. -/
def Reg.SEC_MEAS (n : Nat) (i : Nat) : Nat := 0x108100 + 0x40 * n + 0x4 * i
/-- Offset of SEC_IDPUB. -/
def Reg.SEC_IDPUB (n : Nat) : Nat := 0x109000 + 0x4 * n
/-- Offset of SEC_RELAY_BUF. -/
def Reg.SEC_RELAY_BUF (n : Nat) : Nat := 0x10A000 + 0x4 * n
/-- Offset of SEC_TOKEN. -/
def Reg.SEC_TOKEN (n : Nat) : Nat := 0x10C000 + 0x4 * n
/-- Offset of MSIX_ADDR_LO. -/
def Reg.MSIX_ADDR_LO (n : Nat) : Nat := 0x8000 + 0x10 * n
/-- Offset of MSIX_ADDR_HI. -/
def Reg.MSIX_ADDR_HI (n : Nat) : Nat := 0x8004 + 0x10 * n
/-- Offset of MSIX_DATA. -/
def Reg.MSIX_DATA (n : Nat) : Nat := 0x8008 + 0x10 * n
/-- Offset of MSIX_CTRL. -/
def Reg.MSIX_CTRL (n : Nat) : Nat := 0x800C + 0x10 * n
/-- Offset of MSIX_PBA. -/
def Reg.MSIX_PBA (n : Nat) : Nat := 0x9000 + 0x4 * n

end Sys2Proof.Machine
end

