-- ==== Sys2Proof/Machine/StateBoot.lean ====
section
/-! DEFINITION. The state of start-up, flash and security (chapter 15). -/

namespace Sys2Proof.Machine

/-- The image in force (R541, R546): its slot, header fields, and its section table as (type, offset, length, version). -/
structure ImageRec where
  slot : Fin 2
  flags : Byte
  svn : Nat
  farMin : Nat
  fabMin : Nat
  aclk : Nat
  sections : List (Nat × Nat × Nat × Nat)
  deriving DecidableEq, Repr

/-- A token being checked: its bytes, and the nonce that it must hold, if one was valid (R554 to R556, R558). -/
structure TokenCheck where
  bytes : List Byte
  nonce : Option (List Byte)
  deriving DecidableEq, Repr

/-- A flash operation in progress: the sector's offset, and the 4 KiB to program, none for an erase (R562). -/
structure FlashOp where
  sector : Nat
  data : Option (List Byte)
  deriving DecidableEq, Repr

/-- A record of a controller's training (R324): the identifiers of its devices, the junction temperature in degrees, the settings. -/
structure NearSaved where
  devices : BitVec 64
  temp : Int
  settings : BitVec 64
  deriving DecidableEq, Repr

/-- A record of a port's training (R397, R398): the partner's serial number and port, the settings. -/
structure FabSaved where
  serial : BitVec 64
  port : Fin 16
  settings : BitVec 64
  deriving DecidableEq, Repr

/-- Start-up, flash and security state. -/
structure BootSt where
  /-- Steps begun and steps completed: step k has begun when begun is above k, and completed when done is above k (R526). -/
  begun : Nat := 0
  done : Nat := 0
  /-- VDD_STBY has stayed present since a full path completed REPAIR (R534). -/
  stbyMerged : Bool := false
  /-- The next start takes the full path: the MGC begins it after a trip, or a trip met a start-up (R515, R534, R558). -/
  afterTrip : Bool := false
  image : Option ImageRec := none
  /-- Flash bytes by offset in the image slots (R537); an unlisted byte is erased, 0xFF. -/
  flash : Tbl Byte := []
  /-- The saved-training area (R537): records of controllers (R324) and of Avolmoth ports (R397, R398). -/
  savedNear : Tbl NearSaved := []
  savedFab : Tbl FabSaved := []
  /-- The flash operation in progress (R562). -/
  flashOp : Option FlashOp := none
  /-- Sectors whose program or erase was cut short by a reset or a loss of power (R558). -/
  cut : List Nat := []
  token : Option TokenCheck := none
  /-- A nonce is formed when the check of a token ends (R558). -/
  nonceDue : Bool := false
  /-- The device whose SPDM response the relay waits for (R553). -/
  relay : Option (BitVec 16) := none
  /-- The fused hash of the root public key, the thermometer of the minimum SVN and the device secret (R547). -/
  rootHash : List Byte := List.replicate 64 0
  svnFuse : BitVec 64 := 0
  secret : List Byte := List.replicate 32 0
  deriving DecidableEq, Repr

end Sys2Proof.Machine
end

