-- ==== Sys2Proof/Machine/StateEngine.lean ====
section
/-! DEFINITION. The state of a thread engine: groups, threads, blocks, traps, drain rings (chapters 5 to 7). -/

namespace Sys2Proof.Machine

/-- What a thread waits at: a group or block barrier, with the lane mask of the masked form (R202, R204). -/
structure BarWait where
  block : Bool
  num : Fin 8
  mask : Option Word
  deriving DecidableEq, Repr

/-- A thread (R194, R228). Vector registers that are not listed hold zero (R189). -/
structure Thread where
  v : Tbl Word := []
  p : BitVec 16 := 0
  stat : BitVec 5 := 0
  pc : Addr := 0
  exited : Bool := false
  bar : Option BarWait := none
  /-- Nap, in ACLK cycles (R197). -/
  nap : Option Nat := none
  /-- Group-issues since the thread last issued (R194). -/
  age : Nat := 0
  deriving DecidableEq, Repr

/-- A subset of ready threads at one program counter, as R195 picks it (R194). -/
structure Subset where
  pc : Addr
  lanes : List Nat
  starved : Bool
  deriving DecidableEq, Repr

/-- An instruction that stays in issue (R192, R246, R274): its word and subset, the slots that a ring load waits for by lane, fixed
when it issued, and whether it is the instruction of a step (R212). -/
structure InIssue where
  word : BitVec 64
  sub : Subset
  slots : List (Nat × Nat) := []
  step : Bool := false
  deriving DecidableEq, Repr

/-- Debugger state of a slot (R225). -/
inductive DbgState where
  | running | halting | halted
  deriving DecidableEq, Repr

/-- A group in its slot (R185 to R197, R211, R212, R256). -/
structure Group where
  threads : List Thread
  /-- u0 to u63; unlisted ones hold zero. -/
  u : Tbl Word
  launch : LaunchRec
  block : Nat
  gidx : Nat
  age : Nat
  promoted : Bool := false
  dbg : DbgState := .running
  /-- A step request waits: its instruction has not issued (R212). -/
  stepPend : Bool := false
  /-- The instruction that stays in issue (R192, R211, R274). -/
  inIssue : Option InIssue := none
  /-- An uncorrectable register error that the next instruction reads in a lane (R208, R443). -/
  regFault : Option (Fin 32) := none
  /-- The next issue steps over a breakpoint (R214). -/
  stepOver : Bool := false
  /-- Completions not yet awaited, by array of the region: the flags word of each (R256). -/
  done : List (List (BitVec 16)) := [[], [], [], []]
  /-- The item has ended: the group stops at its next issue boundary (R191). -/
  stopped : Bool := false
  deriving DecidableEq, Repr

/-- A block: the local store it was given, by offset (R187, R245); a byte it has not written reads a free value counted
from base (DESIGN CHOICE, log 16). -/
structure Block where
  launch : LaunchRec
  groups : Nat
  store : Tbl Byte := []
  base : Nat
  /-- The 8-byte words of its local store that hold an uncorrectable error, until they are wholly written (R443). -/
  bad : List Nat := []
  /-- The code of a trap that has halted the block: its item fails when the debugger resumes it (R207). -/
  trapped : Option Byte := none
  deriving DecidableEq, Repr

/-- A trap record (R221, R222). -/
structure TrapRec where
  code : Byte
  lane : Fin 32
  detail : Byte
  gidx : BitVec 5
  pc : Addr
  addr : Addr
  orig : BitVec 16
  item : BitVec 13
  deriving DecidableEq, Repr

/-- A drain ring (R152 to R155): delivered slots that are not released, oldest first, each of 128 words with the item that
drained it; slots reserved and not delivered; the completion FIFO (flags word, SEQ), oldest first, and its reserved entries.
released counts the slots that have left, which numbers them all; past keeps those that a ring load in issue may still name
(R246, R274); bad are 8-byte words of slots with an uncorrectable error (R443). -/
structure Ring where
  slots : List (ItemKey × List Word) := []
  reserved : Nat := 0
  fifo : List (ItemKey × BitVec 16 × BitVec 16) := []
  fifoRes : Nat := 0
  released : Nat := 0
  past : Tbl (List Word) := []
  bad : List (Nat × Nat) := []
  deriving DecidableEq, Repr

/-- A thread engine. -/
structure Engine where
  groups : Tbl Group := []
  blocks : Tbl Block := []
  nextBlock : Nat := 0
  nextAge : Nat := 0
  traps : Tbl TrapRec := []
  rings : Tbl Ring := []
  /-- Instruction cache: words by address (R185, R616). -/
  icache : Tbl (BitVec 64) := []
  /-- Launch records that the dispatcher holds for this engine, in issue order (R188). -/
  launchQ : List LaunchRec := []
  fenced : Bool := false
  deriving DecidableEq, Repr

end Sys2Proof.Machine
end

