-- ==== Sys2Proof/Machine/StateFabric.lean ====
section
/-! DEFINITION. The state of Avolmoth: ports and links, the router, and the manager (chapter 11). -/

namespace Sys2Proof.Machine

/-- A packet with its TTL, as the router handles it (R408). -/
structure Routed where
  pkt : Packet
  ttl : Nat
  deriving DecidableEq, Repr

/-- A packet that a port sends frame by frame (R404): its tint, type and TTL, whether its first frame has gone, and the bytes
still to send. -/
structure Sending where
  tint : Nat
  typ : Nat
  ttl : Nat
  started : Bool
  rest : List Byte
  deriving DecidableEq, Repr

/-- A packet that a port receives frame by frame: its bytes so far, and the units it takes by pool. -/
structure Receiving where
  ttl : Nat
  bytes : List Byte
  units : List (Nat × Nat)
  deriving DecidableEq, Repr

/-- A port (R393 to R405, R409, R414, R431). Pools are numbered as CPOOL numbers them (R400). -/
structure FabPort where
  /-- Good lanes of each direction as last trained (R395). -/
  txGood : BitVec 9 := 0
  rxGood : BitVec 9 := 0
  /-- The link has carried traffic since it last came up. -/
  live : Bool := false
  /-- An in-service retrain runs (R399). -/
  retraining : Bool := false
  /-- Training was refused while fault injection holds the generator (R433). -/
  refused : Bool := false
  /-- What the last HELLO told (R414, R436). -/
  hello : Option HelloMsg := none
  /-- SEQ of the next data frame sent and of the next one expected (R402). -/
  txSeq : Nat := 0
  rxSeq : Nat := 0
  /-- Replay memory, oldest first, and replays in a row without RSEQ advancing (R402). -/
  replay : List Frame := []
  replays : Nat := 0
  /-- A discard since the last accepted frame has been answered by NAK (R402). -/
  nakSent : Bool := false
  /-- An RSEQ, a NAK or freed credits wait for a frame (R405). -/
  due : Bool := false
  nakDue : Bool := false
  /-- By pool: credits spent, the last count of freed units seen, and as receiver the units freed and the units in use (R403). -/
  spent : Tbl Nat := []
  seen : Tbl Nat := []
  freed : Tbl Nat := []
  inUse : Tbl Nat := []
  /-- The pool that the next frame reports (R403). -/
  cpool : Nat := 0
  /-- Packets that wait to be sent, in order of arrival, the tint of 0 to 6 served last, and the packet being sent (R409). -/
  queue : List Routed := []
  lastTint : Nat := 6
  sending : Option Sending := none
  /-- The packet being received (R404). -/
  receiving : Option Receiving := none
  /-- The generator of fault injection, and the packet held for reordering (R430, R431). -/
  gen : Word := 0
  held : Option Routed := none
  deriving DecidableEq, Repr

/-- A packet that has arrived whole and waits in the receive buffer of a port, with the units it takes by pool. -/
structure Arrived where
  port : Fin 16
  pkt : Packet
  ttl : Nat
  units : List (Nat × Nat)
  deriving DecidableEq, Repr

/-- A member of the domain, as its manager knows it (R415, R416, R421, R422): its description, its index once it has accepted
it, the heartbeats missed in a row and whether it has answered the last one, the generation last sent and last acknowledged,
the sendings of its ROUTE_SET, and the entries last sent and last acknowledged. -/
structure Member where
  desc : ProbeReplyMsg
  index : Nat
  accepted : Bool
  missed : Nat := 0
  answered : Bool := true
  sentGen : Nat := 0
  ackGen : Nat := 0
  tries : Nat := 0
  entries : Tbl Nat := []
  acked : Tbl Nat := []
  deriving DecidableEq, Repr

/-- A LEFT that waits for its ACK (R422): the receiver, its PSEQ, what it names, the sendings, and the declaration it belongs
to. -/
structure LeftWait where
  member : BitVec 16
  pseq : Nat
  ids : List (BitVec 16)
  domain : Option (BitVec 4)
  tries : Nat
  group : Nat
  deriving DecidableEq, Repr

/-- A declaration that members have left: the LEFT that a domain manager passed on and has still to answer, and the restarted
devices whose ASSIGN waits (R422, R423). -/
structure LeftGroup where
  num : Nat
  origin : Option (BitVec 16 × BitVec 16)
  assign : List ProbeReplyMsg
  deriving DecidableEq, Repr

/-- A domain that a manager knows (R427, R428): its manager's serial number, its border links, and its heartbeats. -/
structure DomainRec where
  serial : BitVec 64
  links : List BorderLink
  missed : Nat := 0
  answered : Bool := true
  deriving DecidableEq, Repr

/-- Avolmoth state. -/
structure FabSt where
  ports : Tbl FabPort := []
  arrived : List Arrived := []
  /-- The serial number of the manager accepted, and whether a route set has been installed (R417, R418). -/
  mgr : Option (BitVec 64) := none
  routed : Bool := false
  /-- No heartbeat has come for 3 × HB_MS (R426). -/
  mgrLost : Bool := false
  /-- Route entries with an uncorrectable error, by index, the domain entries from 4,096 on: each is invalid until a ROUTE_SET writes it
  (R443). -/
  badRoutes : List Nat := []
  /-- PSEQ of the next CONTROL packet. -/
  pseq : Nat := 0
  /-- The manager's probe round (R415): the probe that waits for its reply, as partner serial number, path and sendings, those
  still to send, and the serial numbers described. -/
  probing : Option (BitVec 64 × List (Fin 16) × Nat) := none
  probes : List (BitVec 64 × List (Fin 16)) := []
  described : List (BitVec 64) := []
  /-- A round runs. -/
  round : Bool := false
  members : List Member := []
  /-- Indices given since the manager started, and serial numbers declared left (R416, R422, R425). -/
  given : List (BitVec 64 × Nat) := []
  gone : List (BitVec 64) := []
  leftWaits : List LeftWait := []
  leftGroups : List LeftGroup := []
  /-- The manager's own route entries as last computed (R419). -/
  routes : Tbl Nat := []
  /-- Domains by number, the border link toward each domain, and the border links last described (R427). -/
  domains : Tbl DomainRec := []
  toDomain : Tbl BorderLink := []
  border : List BorderLink := []
  deriving DecidableEq, Repr

end Sys2Proof.Machine
end

