-- ==== Sys2Proof/Machine/StateItems.lean ====
section
/-! DEFINITION. The state of item accounting, triggers, host rings and the host interface (chapters 5, 10 and 16). -/

namespace Sys2Proof.Machine

/-- Item states (R374). -/
inductive ItemState where
  | issued | accepted | running | done | failed | superseded | abandoned
  deriving DecidableEq, Repr

/-- The encoding of R374. -/
def ItemState.code : ItemState → Nat
  | .issued => 0 | .accepted => 1 | .running => 2 | .done => 3 | .failed => 4 | .superseded => 5 | .abandoned => 6

/-- An ITT entry (R373), with the task descriptor that it was accepted with and the persist that its end waits for (R346, R371). -/
structure IttEntry where
  key : ItemKey
  tint : BitVec 3
  state : ItemState
  code : Byte
  detail : BitVec 24
  flags : BitVec 10
  resends : BitVec 4
  srcPort : Fin 17
  task : TaskDesc
  persist : Option (BitVec 16)
  /-- Once its work is complete (R371): the inline output that its RESULT will carry. -/
  out : Option (List Byte)
  deriving DecidableEq, Repr

/-- An item of the origination table (R357, R377, R384): decided when its final completion entry only waits for room. -/
structure OrigEntry where
  lot : BitVec 16
  dst : BitVec 16
  state : ItemState
  cq : Fin 64
  cookie : BitVec 64
  timeout : BitVec 16
  tint : BitVec 3
  payload : List Byte
  decided : Bool
  /-- The lots issued since it was submitted, with their executing devices, and those whose RESULT has arrived (R366, R383). -/
  issued : List (BitVec 16 × BitVec 16)
  ended : List (BitVec 16)
  deriving DecidableEq, Repr

/-- A packet that its sender keeps until it is answered (R364), with the item that sent a DATA packet, its resends, the last
NACK, and whether that NACK came after the last sending. -/
structure SentPkt where
  pkt : Packet
  owner : Option ItemKey
  resends : Nat
  nack : Option (Byte × BitVec 24)
  retry : Bool
  deriving DecidableEq, Repr

/-- An entry of the trigger table (R163): EXPECT once armed. -/
structure TrigEntry where
  key : ItemKey
  tag : BitVec 16
  expect : Option (BitVec 16)
  count : Nat
  deriving DecidableEq, Repr

/-- The pre-scan of one product (R150, R260): total K, the engines whose block has not yet reported, the maxima
so far, and the anchor once every share has reported. -/
structure AnchorEntry where
  key : ItemKey
  t : Fin 16
  k : Word
  waiting : List (Fin 50)
  ex : Option Int
  ew : Option Int
  eb : Option Int
  anchor : Option Int
  deriving DecidableEq, Repr

/-- A completion entry that waits for room or an enabled ring (R387): its words but for P, and the item it ends. -/
structure HeldCompletion where
  ring : Fin 64
  words : BitVec 256
  final : Option (BitVec 13)
  deriving DecidableEq, Repr

/-- Item accounting. -/
structure ItemsSt where
  itt : List IttEntry := []
  orig : Tbl OrigEntry := []
  /-- Highest lot used, by item number (R358). -/
  lots : Tbl Nat := []
  /-- Recent-end list, oldest first (R366). -/
  recent : List ItemKey := []
  trig : List TrigEntry := []
  sent : List SentPkt := []
  /-- Next PSEQ by packet type and item (R360). -/
  pseq : List ((ItemKey × BitVec 4) × Nat) := []
  anchors : List AnchorEntry := []
  held : List HeldCompletion := []
  /-- Passes begun on each completion ring (R387): the phase is 1 on an even number. -/
  wraps : Tbl Nat := []
  /-- The submission ring served last (R385). -/
  lastRing : Fin 64 := 63
  /-- Descriptors the dispatcher holds for an array, in issue order (R83, R154). -/
  heldDesc : List (Fin 200 × Desc) := []
  /-- Mover descriptors the dispatcher holds. -/
  heldMover : List (Fin 24 × Desc) := []
  deriving DecidableEq, Repr

/-- The host function (R566 to R581). -/
structure HostSt where
  bme : Bool := false
  msixEn : Bool := false
  /-- The function's own mask (R581). -/
  fmask : Bool := false
  deriving DecidableEq, Repr

/-- A pending repair record (R448, R458): its word (R455) and the cause it will be logged with (R462). -/
structure PendRec where
  what : Word
  cause : Byte
  deriving DecidableEq, Repr

/-- An event log record (R539): TIME and CRC are left out, being time and a function of the rest (DESIGN CHOICE, log 12). -/
structure LogRec where
  seq : Word
  poweron : Word
  cls : Byte
  code : Byte
  detail : List Word
  deriving DecidableEq, Repr

/-- What the module answers to an SPDM request (R551). DESIGN CHOICE, log 29. -/
inductive SpdmAnswer where
  | version (major minor : Nat)
  | capabilities (meas chal pubKeyId : Bool)
  /-- ML-DSA-65 as the asymmetric algorithm, SHAKE256 with 64-byte output as the measurement hash. -/
  | algorithms (mlDsa65 shake256 : Bool)
  | challengeAuth (nonce signature : List Byte)
  /-- Measurements by SPDM index, 1 to 8. -/
  | measurements (ms : List (Nat × List Byte)) (nonce : List Byte) (signature : Option (List Byte))
  | unsupportedRequest (code : Byte)
  deriving DecidableEq, Repr

/-- What the module sends out (DESIGN CHOICE, log 8). -/
inductive Output where
  | packet (p : Packet)
  | port (q : Fin 16) (f : Frame)
  | portPacket (q : Fin 16) (p : Packet)
  | msix (vector : Fin 128)
  | hostWrite (addr : BitVec 64) (bytes : List Byte)
  | scData (master : Fin 273) (bytes : List Byte) (poisoned : Bool)
  | bar2Data (bytes : List Byte) (poisoned : Bool)
  | bar2Unsupported
  | smb (bytes : List Byte)
  | jtag (w : BitVec 72)
  /-- The sideband contacts as EXTEST drives them (R607). -/
  | contacts (w : BitVec 33)
  | spdm (via : SpdmPath) (answer : SpdmAnswer)
  /-- An SPDM request of the relay: a routed CONTROL packet with MSG 0x20, its PSEQ and its message (R553). -/
  | spdmRequest (dst pseq : BitVec 16) (body : List Byte)
  /-- A CONTROL packet (R410, R411): its path (none: routed by DST), MSG, GEN, PSEQ and the words of its body. -/
  | control (dst : BitVec 16) (path : List (Fin 16)) (msg : Byte) (gen : Word) (pseq : BitVec 16) (words : List Word)
  deriving DecidableEq, Repr

end Sys2Proof.Machine
end

