-- ==== Sys2Proof/Machine/StateNearFar.lean ====
section
/-! DEFINITION. The state of GDDR7 and of the far tier (chapter 9). -/

namespace Sys2Proof.Machine

/-- GDDR7: the first number of the free values that unwritten lines hold (R325, log 6), by physical controller the temperature
of the last calibration, and the controllers that wait to be retired (R29, R327, R447). -/
structure NearSt where
  base : Nat := 0
  calib : Tbl Int := []
  failing : List Nat := []
  deriving DecidableEq, Repr

/-- A physical granule's record (R332): free 0, mapped 1, retired at wear limit 2, retired defective 3. -/
structure PhysRec where
  wear : Nat := 0
  state : Fin 4 := 0
  stamp : Nat := 0
  deriving DecidableEq, Repr

/-- A 128-byte line with a bit for each byte that it holds, and its poison. -/
structure FarLine where
  mask : BitVec 128
  data : LineBits
  poison : Bool := false
  deriving DecidableEq, Repr

/-- The two tables of a port and its powered-hour count (R332, R338): a logical granule that is not listed is ZERO, a physical
granule that is not listed is free with no wear. -/
structure FarTables where
  fwd : Tbl Nat := []
  phys : Tbl PhysRec := []
  hours : Nat := 0
  deriving DecidableEq, Repr

/-- A journal record (R350): logical granule, type, physical granule and sequence number. -/
structure JournalRec where
  logical : Nat
  typ : Nat
  phys : Nat
  seq : Nat
  deriving DecidableEq, Repr

/-- The metadata header of an FM576 (R347, R350). -/
inductive FarHeader where
  | absent | foreign | valid
  deriving DecidableEq, Repr

/-- The FM576 behind a port (R349, R350): what it keeps without power. Media lines are numbered 512 × physical granule + line;
one that is not listed holds zeros. -/
structure Fm576 where
  header : FarHeader := .absent
  media : Tbl FarLine := []
  ckpt : FarTables := {}
  ckptSeq : Nat := 0
  journal : List JournalRec := []
  hours : Nat := 0
  readonly : Bool := false
  deriving DecidableEq, Repr

/-- A staging buffer (R334): its lines, those written since its commit began, and the order of its last write. -/
structure StageBuf where
  lines : Tbl FarLine := []
  since : List Nat := []
  last : Nat := 0
  deriving DecidableEq, Repr

/-- A commit in progress (R335, R341): its target, the image, the failures so far, whether COMMIT_GRANULE has completed, and
whether the old granule is to be retired as defective. -/
structure CommitRec where
  target : Nat
  image : Tbl FarLine
  fails : Nat := 0
  committed : Bool := false
  defective : Bool := false
  deriving DecidableEq, Repr

/-- A far port as the FME sees it. -/
structure FarPort where
  tables : FarTables := {}
  staging : Tbl StageBuf := []
  commits : Tbl CommitRec := []
  seq : Nat := 0
  /-- Logical granules that a mount's added age carries past REFRESH_H: refreshed first (R339). -/
  first : List Nat := []
  /-- Commits since the last levelling move (R337). -/
  sinceLevel : Nat := 1024
  /-- Width of the trained link, 0 with no link at 64 GT/s (R330, R348). -/
  width : Nat := 0
  deriving DecidableEq, Repr

/-- A persist requested and not complete (R345): its number, and the granules it waits for, each with the journal records
still to come. -/
structure PersistRec where
  seq : BitVec 16
  covers : List ((Nat × Nat) × Nat)
  isPartial : Bool := false
  deriving DecidableEq, Repr

/-- The far tier: the FM576 modules, the ports, the order of staging writes, the persists in request order, and the items that
have used each port's range (R347). -/
structure FarSt where
  modules : Tbl Fm576 := []
  ports : Tbl FarPort := []
  clock : Nat := 0
  persists : List PersistRec := []
  users : List (ItemKey × Nat) := []
  deriving DecidableEq, Repr

end Sys2Proof.Machine
end

