-- ==== Sys2Proof/Machine/StatePins.lean ====
section
/-! DEFINITION. The state of the module's rails and sideband pins, SMBus and JTAG (chapter 17). -/

namespace Sys2Proof.Machine

/-- Rails, pins, SMBus and JTAG. -/
structure PinsSt where
  /-- PWR_GOOD is high (R597). -/
  pwrGood : Bool := false
  /-- VDD_LOGIC and VDD_MEM are up (R513, R596). -/
  coreUp : Bool := false
  /-- The core rails are down after a trip, a device fault or R593, until the next start begins (R604). -/
  railsFault : Bool := false
  /-- A start waits for its POWER step: after a reset, a return of power, or R515. -/
  startDue : Bool := true
  /-- The start that waits is begun by a warm reset (R534, R598). -/
  warm : Bool := false
  /-- VDD_STBY is present (R593, R599). -/
  stby : Bool := true
  /-- Samples in a row with a blade outside 38 to 62 V (R593). -/
  outSamples : Nat := 0
  /-- The input left its range; a start waits until both blades read 40 to 60 V (R593). -/
  inputDue : Bool := false
  /-- PERST_N is high (R600). -/
  perst : Bool := true
  /-- FM_PERST_N of the far ports is high (R605). -/
  fmPerst : Bool := false
  /-- START_MODE selected SUPERVISED at the last POWER step (R525, R602). -/
  supervised : Bool := false
  /-- SMB_ADDR1 and SMB_ADDR0 as strapped (R602). -/
  smbAddr : BitVec 2 := 3
  /-- The code of the last SMBus READ or WRITE (R606). -/
  smbCode : BitVec 4 := 0
  /-- The JTAG instruction register (R607). -/
  jtagIr : Byte := 1
  /-- What EXTEST and PRELOAD have placed in the boundary scan cells (R607). -/
  boundary : BitVec 33 := 0
  /-- The REGACC data register as the next Capture-DR loads it (R608). -/
  regacc : BitVec 72 := 0
  /-- The bypass bit. -/
  bypass : Bool := false
  deriving DecidableEq, Repr

end Sys2Proof.Machine
end

