-- ==== Sys2Proof/Machine/StatePower.lean ====
section
/-! DEFINITION. The state of power delivery and of the governor (chapter 13). -/

namespace Sys2Proof.Machine

/-- What may need admission (R486). -/
inductive Starter where
  | array (n : Nat)
  | engine (e : Nat)
  deriving DecidableEq, Repr

/-- A region being staged on (R482 to R484): header steps closed, half rate, and the logical number it will take (none: its
own place from the REGIONS step). -/
structure StagingRec where
  region : Fin 50
  steps : Nat
  half : Bool
  logical : Option (Fin 48)
  deriving DecidableEq, Repr

/-- Deep idle (R494 to R496). -/
inductive DeepState where
  | none | entering | deep | resuming
  deriving DecidableEq, Repr

/-- Power state. Powers are in units of 0.01 W, currents in 0.1 A. -/
structure PowerSt where
  /-- Failed VDD_MEM phases of each slice (R480). -/
  sliceMemFail : Tbl Nat := []
  /-- Latest current sample by region (R478, R484). -/
  current : Tbl Nat := []
  staging : Option StagingRec := Option.none
  /-- Regions that wait to be staged, with the logical number each will take (R479, R482). -/
  toStage : List (Fin 50 × Option (Fin 48)) := []
  /-- Logical regions whose bank is being zeroed (R287, R496). -/
  zeroing : List Nat := []
  /-- The last samples of input power, newest first, at most 4 (R485). -/
  samples : List Nat := []
  /-- Estimates admitted in the tick (R486, R487). -/
  tickEst : Nat := 0
  /-- Allowance left in the tick (R486). -/
  allow : Nat := 0
  /-- What was left at the start of the tick of the allowances of this tick and of the previous 4, newest first (R486). -/
  unused : List Nat := []
  /-- Held starts, in the order requested (R486). -/
  held : List Starter := []
  /-- Admitted starts that have not begun (R486). -/
  granted : List Starter := []
  /-- Input-rating pause in sixteenths (R487). -/
  ratingPause : Nat := 0
  /-- The floor target (R488) and the ticks since the fall began (R489). -/
  floorTarget : Nat := 0
  floorTicks : Option Nat := Option.none
  /-- A ramp phase runs (R491). -/
  phaseWait : Bool := false
  /-- The mode move in progress: to efficiency mode (R492); and the arrays that have stopped for it, which resume with its end. -/
  move : Option Bool := Option.none
  paused : List Nat := []
  /-- VDD_LOGIC of the regions in mV, 0 before they are staged (R475, R492, R495). -/
  vdd : Nat := 0
  deep : DeepState := .none
  /-- Regions that deep idle has gated, with their logical numbers, to be staged again on resume (R495, R496). -/
  asleep : List (Fin 50 × Option (Fin 48)) := []
  /-- Far ports to bring back after deep idle: port, state and width (R495, R496). -/
  farBack : List (Nat × Nat × Nat) := []
  /-- WAKE was written during entry (R496). -/
  wakePend : Bool := false
  deriving DecidableEq, Repr

end Sys2Proof.Machine
end

