-- ==== Sys2Proof/Machine/StateRepair.lean ====
section
/-! DEFINITION. The state of repair (chapter 12): the fuse maps, the test results, the merged repair state and the field
repair log. -/

namespace Sys2Proof.Machine

/-- A record of the field repair log (R462): UPTIME and CRC are left out, being time and a function of the rest (DESIGN CHOICE, log 12). -/
structure RepRec where
  what : Word
  cause : Byte
  seq : Word
  poweron : Word
  wseq : Word
  deriving DecidableEq, Repr

/-- Repair state. -/
structure RepairSt where
  /-- The fuse maps as the FUSES step read them, up to the first end record (R454). -/
  dxFuse : List Word := []
  rzFuse : List Word := []
  /-- What the start-up tests found bad (R457). -/
  tests : List Word := []
  /-- The merged repair state kept on VDD_STBY (R461). -/
  merged : List Word := []
  /-- The repair log half in use, oldest first, without its header (R462, R463), and its generation. -/
  log : List RepRec := []
  gen : Word := 0
  /-- Records that wait for a compaction to end (R466). -/
  held : List RepRec := []
  /-- Laps already reported slow: scrubber kind and instance (R453). -/
  slow : List (Nat × Nat) := []
  deriving DecidableEq, Repr

end Sys2Proof.Machine
end

