-- ==== Sys2Proof/Machine/StateRilaz.lean ====
section
/-! DEFINITION. The state of Rilaz, the vertical channels, the movers and the tints (chapter 8). -/

namespace Sys2Proof.Machine

/-- Who submitted a mover descriptor (R295, R298): a DATA packet names its port. -/
inductive MoverSrc where
  | host
  | dispatcher
  | packet (port : Fin 17) (pkt : Packet)
  deriving DecidableEq, Repr

/-- A descriptor in a mover's queue: the requests issued for it so far, and whether its item has ended, so that it stops at its next
128-byte boundary (R299, R301). -/
structure MoverEntry where
  desc : Desc
  src : MoverSrc
  issued : Nat := 0
  ended : Bool := false
  deriving DecidableEq, Repr

/-- A host access to BAR2 that waits at the host stop (R300, R301, R571): the bytes of a write and whether they are poisoned, and the
requests issued for it so far. -/
structure Bar2Req where
  addr : Nat
  len : Nat
  data : Option (List Byte × Bool)
  issued : Nat := 0
  deriving DecidableEq, Repr

/-- A host access that waits at the host stop: to BAR2, or a BAR0 write behind one (R570): its offset, size, data and the bits that
hardware sets in the same cycle. -/
inductive HostReq where
  | bar2 (x : Bar2Req)
  | bar0 (off : Nat) (size : AccSize) (data : BitVec 64) (hw : Word)
  deriving DecidableEq, Repr

/-- A cached line of the SC (R279, R280): its way, a valid and a dirty bit for each byte, its bytes, and whether it is
marked poisoned (R443). -/
structure ScLine where
  way : Nat
  valid : BitVec 128 := 0
  dirty : BitVec 128 := 0
  data : LineBits := 0
  poison : Bool := false
  deriving DecidableEq, Repr

/-- The SC: cached lines by line number, replacement trees by slice and set, and miss entries by line number with the requests
that wait, in order of arrival (R278 to R282); the requests held at their ports in order of arrival, the tint that each slice
served last (R282, R289, R301, R302), and the host's accesses in order. -/
structure ScSt where
  lines : Tbl ScLine := []
  plru : Tbl (BitVec 16) := []
  misses : Tbl (List ScReq) := []
  held : List ScReq := []
  lastTint : Tbl Nat := []
  host : List HostReq := []
  deriving DecidableEq, Repr

/-- The vertical channels (R288 to R290, R449): the suspect wire and its strikes by group, the spares used by group, and the
replacements still to run by direction. A group is numbered 32 × (2 × channel + direction) + group, write being direction 1. -/
structure VcSt where
  strikes : Tbl (Nat × Nat) := []
  spares : Tbl Nat := []
  replacing : Tbl Nat := []
  deriving DecidableEq, Repr

/-- The tint controller (R301, R302, R305). By master, tint and resource (key 32 × master + 4 × tint + resource): the tokens in
the bucket at the start of the epoch less what the epoch has used (full, 4096, when not listed), what the epoch has drawn
beyond that, and the bytes charged in this epoch and in the last. By tint and resource (key 4 × tint + resource): the tints
under their guarantee, and the effective guarantees that the next boundary puts in force. -/
structure TintSt where
  tokens : Tbl Nat := []
  drawn : Tbl Nat := []
  charges : Tbl Nat := []
  last : Tbl Nat := []
  under : List Nat := []
  pendEff : Tbl Nat := []
  deriving DecidableEq, Repr

end Sys2Proof.Machine
end

