-- ==== Sys2Proof/Machine/StateThermal.lean ====
section
/-! DEFINITION. The state of thermal sensing (chapter 14) beside its registers. -/

namespace Sys2Proof.Machine

/-- Thermal state: what the decisions of a sample need of the samples before it, and the trips in a row. DESIGN CHOICE, log 28. -/
structure ThermalSt where
  /-- Readings of the sensors that work, newest sample first, at most 400 samples (R512). -/
  history : List (List (Option Int)) := []
  /-- Sample periods in a row without a conversion, by sensor (R507). -/
  notDone : Tbl Nat := []
  /-- A warn entry has been written and the die has not yet fallen below warn − HYST (R509). -/
  warnDx : Bool := false
  warnRz : Bool := false
  /-- Trips in a row (R514). -/
  row : Nat := 0
  /-- A trip has occurred since the last start began (R515). -/
  tripped : Bool := false
  /-- Fused by slice: the thermal resistance in 1/16 degree per W and the Darrax sensors over the footprint (R516, log 28). -/
  rth : Tbl Nat := []
  above : Tbl (List Nat) := []
  /-- The MGC is to begin a cold start 60 s after the trip (R515). -/
  autoDue : Bool := false
  deriving DecidableEq, Repr

end Sys2Proof.Machine
end

