-- ==== Sys2Proof/Machine/State.lean ====
section
/-! DEFINITION. The state of the block, the reasons it stops, and the state after reset. -/

namespace Sys2Proof.Machine

/-- Why the block stops with a fault. -/
inductive Fault where
  /-- Raised by GOVERNOR_TICK when a blade's voltage passes the absolute limit of R591: the module may be damaged, and no
  behaviour holds afterwards. Safe: nothing is claimed of such a run. -/
  | beyondAbsoluteLimits
  deriving DecidableEq, Repr

/-- Why a command is refused. -/
inductive Refusal where
  /-- Answered by exec's arm of a command that has no meaning yet. Safe: the run stops there. -/
  | notModelled (mnemonic : String)
  deriving DecidableEq, Repr

/-- The state of the block. -/
structure State where
  /-- Registers by BAR0 offset; an unlisted register holds its reset word. -/
  regs : Tbl Word := []
  arrays : Tbl ArraySt := []
  engines : Tbl Engine := []
  /-- Bytes of GDDR7, the hold window and the private banks by local address, in canonical form. -/
  mem : List Host.Cell := []
  /-- Poisoned 128-byte lines of GDDR7 and of the hold window and 32-byte words of the private banks, by local address. -/
  poison : List Nat := []
  sc : ScSt := {}
  vc : VcSt := {}
  tint : TintSt := {}
  near : NearSt := {}
  far : FarSt := {}
  /-- Mover queues by mover number, head first (R295). -/
  movers : Tbl (List MoverEntry) := []
  items : ItemsSt := {}
  host : HostSt := {}
  fab : FabSt := {}
  power : PowerSt := {}
  thermal : ThermalSt := {}
  boot : BootSt := {}
  pins : PinsSt := {}
  /-- ACLK_MHZ of the image in force (R475, R537). -/
  aclkMhz : Nat := 2500
  /-- The event log, oldest first (R539). -/
  evlog : List LogRec := []
  repair : RepairSt := {}
  /-- Pending repair records, oldest first (R448, R458). -/
  pend : List PendRec := []
  /-- The record word of the most recent error, by bucket index (R448). -/
  lastErr : Tbl Word := []
  outbox : List Output := []
  fresh : Nat := 0
  /-- Commands that wait, first in first out. -/
  pending : List Instr := []
  deriving DecidableEq, Repr

/-- The state after reset. -/
def State.reset : State := {}

end Sys2Proof.Machine
end

