-- ==== Sys2Proof/Machine/Ops.lean ====
section
/-! DEFINITION. The named operations over the state that every family uses: registers and their fields, counters, causes and
MSI-X vectors, the event log, outputs, free values, the arrays, engines and groups by number. -/

namespace Sys2Proof.Machine

/-- What a command answers. -/
abbrev Out := Host.Outcome State Fault Refusal

/-- The stored word of a register (R8, R15). -/
def regWord (s : State) (off : Nat) : Word := lookD s.regs off (resetWord off)

/-- Store a register's word; a word equal to the reset word is not listed. -/
def setRegWord (s : State) (off : Nat) (v : Word) : State :=
  { s with regs := putD (resetWord off) s.regs off v }

/-- A field of a stored register. -/
def regFld (s : State) (off lo w : Nat) : Nat := fld (regWord s off) lo w

/-- Hardware sets a field of a register. -/
def setRegFld (s : State) (off lo w v : Nat) : State := setRegWord s off (setFld (regWord s off) lo w v)

/-- A bit of a stored register. -/
def regBit (s : State) (off i : Nat) : Bool := bit (regWord s off) i

/-- Hardware sets a bit of a register. -/
def setRegBit (s : State) (off i : Nat) : State := setRegFld s off i 1 1

/-- Hardware clears a bit of a register. -/
def clrRegBit (s : State) (off i : Nat) : State := setRegFld s off i 1 0

/-- A 64-bit counter pair (R108). -/
def counter (s : State) (off : Nat) : Nat := (regWord s off).toNat + (regWord s (off + 4)).toNat * 2 ^ 32

/-- Set a counter pair; it wraps at 2^64 (R108). -/
def setCounter (s : State) (off v : Nat) : State :=
  setRegWord (setRegWord s off (BitVec.ofNat 32 v)) (off + 4) (BitVec.ofNat 32 (v >>> 32))

/-- Count k on a counter pair. -/
def addCounter (s : State) (off k : Nat) : State := if k = 0 then s else setCounter s off (counter s off + k)

/-- The module is in debug mode (R563). -/
def debugMode (s : State) : Bool := regBit s Reg.SEC_STAT 0

/-- A fresh free word (DESIGN CHOICE, log 7). -/
def freeWord (s : State) : Word × State := (Config.freeWord s.fresh, { s with fresh := s.fresh + 1 })

/-- A fresh free choice (DESIGN CHOICE, log 7). -/
def freeBool (s : State) : Bool × State := (Config.freeBool s.fresh, { s with fresh := s.fresh + 1 })

/-- Send something out (DESIGN CHOICE, log 8). -/
def emit (s : State) (o : Output) : State := { s with outbox := s.outbox ++ [o] }

/-- Append an event log record (R539). -/
def logEvent (s : State) (cls code : Nat) (detail : List Word) : State :=
  let seq := match s.evlog.getLast? with
    | some r => r.seq + 1
    | none => 0
  let l := s.evlog ++ [⟨seq, regWord s Reg.GLB_POWERON, BitVec.ofNat 8 cls, BitVec.ofNat 8 code, detail⟩]
  { s with evlog := l.drop (l.length - 131072) }

/-- The shared resources of R35. -/
inductive Shared where
  | patternGenerator | idleSlots | accReadPort | reorderTrace
  deriving DecidableEq, Repr

/-- The features that share them (R35). -/
inductive Feature where
  | linkTraining | faultInjection | pauseInsertion | rampFloor | scrubber | debugView | traceCapture | reorderInjection
  deriving DecidableEq, Repr

/-- A number for a resource in a conflict record (DESIGN CHOICE, log 18). -/
def Shared.num : Shared → Nat
  | .patternGenerator => 0 | .idleSlots => 1 | .accReadPort => 2 | .reorderTrace => 3

/-- A number for a feature in a conflict record (DESIGN CHOICE, log 18). -/
def Feature.num : Feature → Nat
  | .linkTraining => 0 | .faultInjection => 1 | .pauseInsertion => 2 | .rampFloor => 3 | .scrubber => 4 | .debugView => 5
  | .traceCapture => 6 | .reorderInjection => 7

/-- A refusal under R31 is recorded as a conflict event: the instance, the holder and the refused feature (R34). DESIGN CHOICE,
log 18: the layout, and that an array or a port is named by its physical number. -/
def logConflict (s : State) (r : Shared) (inst : Nat) (holder refused : Feature) : State :=
  logEvent s 2 r.num [BitVec.ofNat 32 inst, BitVec.ofNat 32 holder.num, BitVec.ofNat 32 refused.num]

/-- An array by physical number. -/
def arr (s : State) (n : Nat) : ArraySt := lookD s.arrays n {}

/-- Change an array. -/
def setArr (s : State) (n : Nat) (a : ArraySt) : State := { s with arrays := put s.arrays n a }

/-- An engine by physical number. -/
def eng (s : State) (e : Nat) : Engine := lookD s.engines e {}

/-- Change an engine. -/
def setEng (s : State) (e : Nat) (x : Engine) : State := { s with engines := put s.engines e x }

/-- The group in a slot. -/
def grp (s : State) (e sl : Nat) : Option Group := look (eng s e).groups sl

/-- Change the group in a slot. -/
def setGrp (s : State) (e sl : Nat) (g : Group) : State :=
  let x := eng s e
  setEng s e { x with groups := put x.groups sl g }

/-- A drain ring of an engine. -/
def ring (s : State) (e a : Nat) : Ring := lookD (eng s e).rings a {}

/-- Change a drain ring. -/
def setRing (s : State) (e a : Nat) (r : Ring) : State :=
  let x := eng s e
  setEng s e { x with rings := put x.rings a r }

/-- Slots of a drain ring (R152). -/
def ringSlots (s : State) (e a : Nat) : Nat := 8 * regFld s (Reg.TE_DRING_CFG e a) 8 6

/-- Free slots that no drain has reserved (R183). -/
def ringFree (s : State) (e a : Nat) : Nat := ringSlots s e a - ((ring s e a).slots.length + (ring s e a).reserved)

/-- The logical number of a physical array; none while it is not enabled (R18, R102). -/
def logicalArray (s : State) (n : Nat) : Option Nat :=
  if regBit s (Reg.TA_ID n) 16 then some (regFld s (Reg.TA_ID n) 8 8) else none

/-- The logical number of a physical engine or region (R18, R216). -/
def logicalEngine (s : State) (e : Nat) : Option Nat :=
  if regBit s (Reg.TE_ID e) 16 then some (regFld s (Reg.TE_ID e) 8 8) else none

/-- The physical region behind a logical number (R18, R473). -/
def physRegion (s : State) (r : Nat) : Option Nat :=
  if regBit s (Reg.REP_REGION r) 6 then some (regFld s (Reg.REP_REGION r) 0 6) else none

/-- The logical number that a trap, RESULT detail or launch reports for an engine: 0xFF when it is not enabled (R216). -/
def engineNumber (s : State) (e : Nat) : Nat := regFld s (Reg.TE_ID e) 8 8

/-- Bit g of GLB_CAUSE: the stored bit of a W1C cause, the source condition of the others (R590). -/
def causeBit (s : State) (g : Nat) : Bool :=
  let both (a b : Nat) : Bool := decide (regFld s a 0 8 &&& regFld s b 0 8 ≠ 0)
  match g with
  | 0 => regBit s Reg.GLB_CAUSE 0
  | 1 => both Reg.ERR_CAUSE Reg.ERR_IEN
  | 2 => both Reg.PWR_CAUSE Reg.PWR_IEN
  | 3 => both Reg.THM_CAUSE Reg.THM_IEN
  | 4 => (List.range 16).any (fun q => decide (regFld s (Reg.FAB_PORT_STAT q) 16 4 ≠ 0))
      || decide (regFld s Reg.FAB_JOIN_STAT 16 2 ≠ 0) || regBit s Reg.FAB_ID 19
  | 5 => (List.range 32).any (fun m => decide (regFld s (Reg.RLZ_MV_STAT m) 8 3 ≠ 0))
  | 6 => regBit s Reg.GLB_CAUSE 6
  | 7 => decide (regFld s Reg.GLB_HSTAT 16 2 ≠ 0)
  | _ => false

/-- A vector is triggered (R569, R581): held pending while it is masked or Bus Master Enable is 0, nothing while MSI-X
Enable is 0. PRESUMED, log 9. -/
def triggerVector (s : State) (v : Fin 128) : State :=
  if !s.host.msixEn then s
  else if regBit s (Reg.MSIX_CTRL v) 0 || s.host.fmask || !s.host.bme then setRegBit s (Reg.MSIX_PBA (v.val / 32)) (v.val % 32)
  else emit s (.msix v)

/-- Vector 64 + g (R579). -/
def causeVector (g : Fin 8) : Fin 128 := ⟨64 + g.val, by omega⟩

/-- What a change from s to t does to GLB_CAUSE bit g: on a move from 0 to 1 its vector is triggered where GLB_IEN bit g is 1
(R580); at 0 the vector's pending bit clears (R581). -/
def settleCause (g : Fin 8) (s t : State) : State :=
  if causeBit t g then
    if !causeBit s g && regBit t Reg.GLB_IEN g then triggerVector t (causeVector g) else t
  else clrRegBit t (Reg.MSIX_PBA 2) g

/-- Apply a change that may move GLB_CAUSE bit g. -/
def withCause (g : Fin 8) (f : State → State) (s : State) : State := settleCause g s (f s)

/-- Set a bit of ERR_CAUSE (R467). -/
def raiseErr (s : State) (i : Nat) : State := withCause 1 (fun s => setRegBit s Reg.ERR_CAUSE i) s

/-- Set a bit of PWR_CAUSE (R502). -/
def raisePwr (s : State) (i : Nat) : State := withCause 2 (fun s => setRegBit s Reg.PWR_CAUSE i) s

/-- Set a bit of THM_CAUSE (R521). -/
def raiseThm (s : State) (i : Nat) : State := withCause 3 (fun s => setRegBit s Reg.THM_CAUSE i) s

/-- Set an event bit of FAB_PORT_STAT (R435). -/
def raisePort (s : State) (q i : Nat) : State := withCause 4 (fun s => setRegBit s (Reg.FAB_PORT_STAT q) i) s

/-- Set GLB_CAUSE.BOOT (R590). -/
def raiseBoot (s : State) : State := withCause 0 (fun s => setRegBit s Reg.GLB_CAUSE 0) s

/-- Set a bit of GLB_HSTAT[17:16] (R588). -/
def raiseHost (s : State) (i : Nat) : State := withCause 7 (fun s => setRegBit s Reg.GLB_HSTAT i) s

end Sys2Proof.Machine
end

