-- ==== Sys2Proof/Machine/Errors.lean ====
section
/-! DEFINITION. Error detection and the leaky buckets (R443 to R448). -/

namespace Sys2Proof.Machine

/-- Bucket classes (R447). -/
inductive BktClass where
  | acc | te | dxc | sc | pb | vc | nearCe | nearUe | far
  deriving DecidableEq, Repr

/-- Number of a class (R447). -/
def BktClass.num : BktClass → Nat
  | .acc => 0 | .te => 1 | .dxc => 2 | .sc => 3 | .pb => 4 | .vc => 5 | .nearCe => 6 | .nearUe => 7 | .far => 8

/-- ERR_BKT index of the first instance of a class (R447). -/
def BktClass.first : BktClass → Nat
  | .acc => 0 | .te => 200 | .dxc => 250 | .sc => 251 | .pb => 315 | .vc => 365 | .nearCe => 479 | .nearUe => 491 | .far => 503

/-- The class of an ERR_BKT index (R447). -/
def bktClassOf (i : Nat) : BktClass :=
  if i < 200 then .acc else if i < 250 then .te else if i < 251 then .dxc else if i < 315 then .sc
  else if i < 365 then .pb else if i < 479 then .vc else if i < 491 then .nearCe else if i < 503 then .nearUe else .far

/-- KIND of a record word (R455). -/
def recKind (w : Word) : Nat := fld w 0 4

/-- UNIT of a record word (R455). -/
def recUnit (w : Word) : Nat := fld w 4 8

/-- A record word of a kind and unit with no detail (R455, R456). -/
def unitRecord (kind unit : Nat) : Word := BitVec.ofNat 32 (kind + unit * 16)

/-- A macro's repair record (R456): rows and columns of Darrax and of Rilaz. -/
def isMacroRec (w : Word) : Bool := decide (2 ≤ recKind w) && decide (recKind w ≤ 5)

/-- Macro of such a record. -/
def recMacro (w : Word) : Nat := fld w 24 8

/-- The part that a record names: a row or column without its spare (R456, R457). -/
def partOf (w : Word) : Word := if isMacroRec w then setFld w 12 2 0 else w

/-- Spares of a macro by kind (R456, R465). -/
def macroSpares (kind : Nat) : Nat :=
  match kind with
  | 2 => 4
  | 3 => 2
  | 4 => 8
  | _ => 4

/-- Two records use spares of the same kind of the same macro. -/
def sameSpares (a b : Word) : Bool :=
  isMacroRec a && decide (recKind a = recKind b) && decide (recUnit a = recUnit b) && decide (recMacro a = recMacro b)

/-- Records that use spares of the same macro as w. -/
def spareUsers (ps : List Word) (w : Word) : List Word := ps.filter (fun x => sameSpares x w)

/-- A new failure with the lowest free spare of its macro (R458, R459); without one it keeps spare 0, and its unit is bad. -/
def assignSpare (ps : List Word) (w : Word) : Word :=
  if isMacroRec w then
    let used := (spareUsers ps w).map (fun x => fld x 12 2)
    match (List.range (min 4 (macroSpares (recKind w)))).find? (fun i => !used.contains i) with
    | some i => setFld w 12 2 i
    | none => setFld w 12 2 0
  else w

/-- A part is bad from now on (R457, R461). -/
def markBad (s : State) (what : Word) : State :=
  if s.repair.merged.contains what then s
  else { s with repair := { s.repair with merged := s.repair.merged ++ [what] } }

/-- Enter a pending repair record, at most 255 at once, and set ERR_CAUSE.PEND (R448, R467, R472); the part is bad at once
(R458). -/
def enterPending (s : State) (what : Word) (cause : Byte) : State :=
  let s := markBad s what
  if 255 ≤ s.pend.length then s
  else raiseErr { s with pend := s.pend ++ [⟨what, cause⟩] } 7

/-- An overflow of a bucket (R446): COUNT to 0, one more overflow, BKT_OVF, an event; ACC, TE, SC and PB enter a pending
record of the row, with a spare of its macro if one is left, when OVF reaches 4 (R448, R458). -/
def overflowBucket (s : State) (c : BktClass) (i : Nat) : State :=
  let ovf := regFld s (Reg.ERR_BKT i) 16 16
  let s := setRegWord s (Reg.ERR_BKT i) (BitVec.ofNat 32 ((min (ovf + 1) 65535) * 2 ^ 16))
  let s := logEvent (raiseErr s 0) 3 (c.num) [BitVec.ofNat 32 i]
  if ovf + 1 = 4 then
    match c with
    | .acc | .te | .sc | .pb => enterPending s (assignSpare s.repair.merged (lookD s.lastErr i 0)) 2
    | _ => s
  else s

/-- Add to a bucket's count (R445, R446): whether it overflowed, and the state. -/
def addBucket (s : State) (c : BktClass) (inst k : Nat) : Bool × State :=
  let i := c.first + inst
  let n := regFld s (Reg.ERR_BKT i) 0 16 + k
  if regFld s (Reg.ERR_BKT_CFG c.num) 0 16 ≤ n then (true, overflowBucket s c i)
  else (false, setRegFld s (Reg.ERR_BKT i) 0 16 n)

/-- The record word of the row that an error names: KIND 0x2 for Darrax, 0x4 for Rilaz, the unit, and DETAIL [31:12] of the
location (R455, R456). -/
def rowRecord (c : BktClass) (inst : Nat) (loc : Word) : Word :=
  let (k, u) := match c with
    | .acc => (2, inst / 4)
    | .te => (2, inst)
    | .sc => (4, inst)
    | .pb => (4, 64 + inst)
    | _ => (2, 0x80)
  BitVec.ofNat 32 (k + u * 16 + (loc.toNat >>> 12) * 4096)

/-- A corrected error: one count, none in NEAR_UE (R445); the row is remembered (R448). -/
def correctedError (s : State) (c : BktClass) (inst : Nat) (loc : Word) : Bool × State :=
  let s := { s with lastErr := put s.lastErr (c.first + inst) (rowRecord c inst loc) }
  if c = .nearUe then (false, s) else addBucket s c inst 1

/-- An uncorrectable detection (R444, R445, R469): UE, ERR_LAST0 and ERR_LAST1, an event, 8 counts, 1 in NEAR_UE. -/
def uncorrectable (s : State) (c : BktClass) (inst : Nat) (loc : Word) : Bool × State :=
  let i := c.first + inst
  let s := { s with lastErr := put s.lastErr i (rowRecord c inst loc) }
  let s := setRegWord s Reg.ERR_LAST0 (BitVec.ofNat 32 (c.num + i * 256))
  let s := setRegWord s Reg.ERR_LAST1 loc
  let s := logEvent (raiseErr s 1) 3 c.num [BitVec.ofNat 32 i, loc]
  addBucket s c inst (if c = .nearUe then 1 else 8)

/-- One leak of a bucket (R445). -/
def leakBucket (s : State) (i : Nat) : State := setRegFld s (Reg.ERR_BKT i) 0 16 (regFld s (Reg.ERR_BKT i) 0 16 - 1)

end Sys2Proof.Machine
end

