-- ==== Sys2Proof/Machine/Packets.lean ====
section
/-! DEFINITION. Avolmoth packets: header fields, CRC, the packets that this device forms (R360 to R364). -/

namespace Sys2Proof.Machine

/-- One bit of a reflected CRC. -/
def crcBit (poly c : BitVec 32) : BitVec 32 := if c.getLsbD 0 then (c >>> 1) ^^^ poly else c >>> 1

/-- One byte of a reflected CRC. -/
def crcByte (poly c : BitVec 32) (b : Byte) : BitVec 32 :=
  (List.range 8).foldl (fun c _ => crcBit poly c) (c ^^^ b.setWidth 32)

/-- A reflected 32-bit CRC with initial value and final XOR of all ones. -/
def crc32 (poly : BitVec 32) (bs : List Byte) : Word := bs.foldl (crcByte poly) 0xFFFFFFFF#32 ^^^ 0xFFFFFFFF#32

/-- CRC-32C: 0x1EDC_6F41 reflected (R361). -/
def crc32c (bs : List Byte) : Word := crc32 0x82F63B78#32 bs

end Sys2Proof.Machine

namespace Sys2Proof

open Machine

/-- Field of a header word (R360). -/
def Packet.f (p : Packet) (word lo w : Nat) : Nat := fld p.hdr (32 * word + lo) w

/-- DST. -/
def Packet.dst (p : Packet) : BitVec 16 := p.hdr.extractLsb' 0 16
/-- SRC. -/
def Packet.src (p : Packet) : BitVec 16 := p.hdr.extractLsb' 16 16
/-- TYPE. -/
def Packet.typ (p : Packet) : BitVec 4 := p.hdr.extractLsb' 32 4
/-- TINT. -/
def Packet.tint (p : Packet) : BitVec 3 := p.hdr.extractLsb' 36 3
/-- PLEN, in 64-byte units. -/
def Packet.plen (p : Packet) : Nat := p.f 1 8 9
/-- ORIG, ITEM and LOT. -/
def Packet.key (p : Packet) : ItemKey := ⟨p.hdr.extractLsb' 64 16, p.hdr.extractLsb' 80 13, p.hdr.extractLsb' 96 16⟩
/-- PSEQ. -/
def Packet.pseq (p : Packet) : BitVec 16 := p.hdr.extractLsb' 112 16
/-- ADDR. -/
def Packet.addr (p : Packet) : Nat := p.f 4 0 48
/-- TAG. -/
def Packet.tag (p : Packet) : BitVec 16 := p.hdr.extractLsb' 192 16
/-- CODE. -/
def Packet.code (p : Packet) : Byte := p.hdr.extractLsb' 208 8
/-- ATYPE. -/
def Packet.atype (p : Packet) : BitVec 4 := p.hdr.extractLsb' 224 4
/-- ACKSEQ. -/
def Packet.ackseq (p : Packet) : BitVec 16 := p.hdr.extractLsb' 240 16
/-- STATE of a RESULT, ACTION of a LOT. -/
def Packet.state (p : Packet) : Nat := p.f 8 0 3
/-- FLAGS. -/
def Packet.flags (p : Packet) : BitVec 10 := p.hdr.extractLsb' 259 10
/-- DETAIL. -/
def Packet.detail (p : Packet) : BitVec 24 := p.hdr.extractLsb' 288 24
/-- CRC. -/
def Packet.crc (p : Packet) : Word := p.hdr.extractLsb' 480 32

/-- Word i of the payload. -/
def Packet.payWord (p : Packet) (i : Nat) : Nat := ofBytes ((p.payload.drop (4 * i)).take 4)

/-- A CONTROL packet in path mode (R410, R412). -/
def Packet.pathMode (p : Packet) : Bool := decide (p.typ = 6) && (p.payWord 0).testBit 8

/-- The payload that the CRC covers: forwarders rewrite HIDX and RPATH of a path-mode packet, which therefore count as zero
(DEDUCED, log 25). -/
def Packet.stable (p : Packet) : List Byte :=
  if p.pathMode then
    toBytes 4 (p.payWord 0 - nfld (p.payWord 0) 13 4 * 2 ^ 13) ++ (p.payload.drop 4).take 8 ++ List.replicate 8 0 ++ p.payload.drop 20
  else p.payload

/-- The CRC over header bytes 0 to 59 and the payload (R361). DEDUCED, log 25. -/
def Packet.crcOf (p : Packet) : Word := crc32c ((bvBytes p.hdr).take 60 ++ p.stable)

/-- The packet passes R361. DEDUCED, log 25. -/
def Packet.sound (p : Packet) : Bool := decide (p.crc = p.crcOf)

end Sys2Proof

namespace Sys2Proof.Machine

/-- The fields with which this device forms a packet (R360). -/
structure PktSpec where
  dst : Nat
  typ : Nat
  tint : Nat
  key : ItemKey
  pseq : Nat := 0
  addr : Nat := 0
  tag : Nat := 0
  code : Nat := 0
  atype : Nat := 0
  ackseq : Nat := 0
  state : Nat := 0
  flags : Nat := 0
  detail : Nat := 0
  payload : List Byte := []
  owner : Option ItemKey := none
  deriving DecidableEq, Repr

/-- This device's identifier (R440). -/
def ownId (s : State) : Nat := regFld s Reg.FAB_ID 0 16

/-- Pad a payload to a multiple of 64 bytes. -/
def pad64 (bs : List Byte) : List Byte := bs ++ List.replicate ((64 - bs.length % 64) % 64) 0

/-- Form a packet, its CRC included (R360, R361). -/
def mkPacket (s : State) (q : PktSpec) : Packet :=
  let pay := pad64 q.payload
  let w : List Nat := [
    q.dst % 2 ^ 16 + (ownId s) * 2 ^ 16,
    q.typ % 16 + (q.tint % 8) * 16 + (pay.length / 64 % 512) * 256,
    q.key.orig.toNat + q.key.item.toNat * 2 ^ 16,
    q.key.lot.toNat + (q.pseq % 2 ^ 16) * 2 ^ 16,
    q.addr % 2 ^ 32, q.addr / 2 ^ 32 % 2 ^ 16,
    q.tag % 2 ^ 16 + (q.code % 256) * 2 ^ 16,
    q.atype % 16 + (q.ackseq % 2 ^ 16) * 2 ^ 16,
    q.state % 8 + (q.flags % 1024) * 8,
    q.detail % 2 ^ 24]
  let h : BitVec 512 := BitVec.ofNat 512 (w.foldr (fun x acc => x + acc * 2 ^ 32) 0)
  let p : Packet := ⟨h, pay⟩
  ⟨setFld h 480 32 p.crcOf.toNat, pay⟩

/-- Packet types of R362. -/
def ptWork : Nat := 1
/-- DATA. -/
def ptData : Nat := 2
/-- RESULT. -/
def ptResult : Nat := 3
/-- ACK. -/
def ptAck : Nat := 4
/-- NACK. -/
def ptNack : Nat := 5
/-- CONTROL. -/
def ptControl : Nat := 6
/-- LOT. -/
def ptLot : Nat := 7

/-- The next PSEQ for an item, lot and type, counted from 0 (R360). -/
def nextPseq (s : State) (key : ItemKey) (typ : Nat) : Nat × State :=
  let k := (key, BitVec.ofNat 4 typ)
  let n := match s.items.pseq.find? (fun x => decide (x.1 = k)) with
    | some x => x.2
    | none => 0
  (n, { s with items := { s.items with pseq := (k, n + 1) :: s.items.pseq.filter (fun x => decide (x.1 ≠ k)) } })

/-- Send a WORK, DATA, RESULT or LOT packet, which the sender keeps until it is answered (R364). -/
def sendKept (s : State) (q : PktSpec) : State :=
  let (n, s) := nextPseq s q.key q.typ
  let p := mkPacket s { q with pseq := n }
  emit { s with items := { s.items with sent := s.items.sent ++ [⟨p, q.owner, 0, none, false⟩] } } (.packet p)

/-- Send an ACK or a NACK, which nobody answers (R360, R364). -/
def sendAnswer (s : State) (q : PktSpec) : State :=
  let (n, s) := nextPseq s q.key q.typ
  emit s (.packet (mkPacket s { q with pseq := n }))

/-- ACK of a packet (R364). -/
def sendAck (s : State) (p : Packet) : State :=
  sendAnswer s { dst := p.src.toNat, typ := ptAck, tint := 7, key := p.key, atype := p.typ.toNat, ackseq := p.pseq.toNat }

/-- NACK of a packet with a code and its detail (R364, R379). -/
def sendNack (s : State) (p : Packet) (code detail : Nat) : State :=
  let q : PktSpec := { dst := p.src.toNat, typ := ptNack, tint := 7, key := p.key, code := code, detail := detail }
  sendAnswer s { q with atype := p.typ.toNat, ackseq := p.pseq.toNat }

end Sys2Proof.Machine
end

