-- ==== Sys2Proof/Machine/ItemEnd.lean ====
section
/-! DEFINITION. How an item's work ends on this device (R115, R168, R191, R299, R375): the one operation that every failure
goes through. -/

namespace Sys2Proof.Machine

/-- ORIG, ITEM and LOT of a pass, preload or drain descriptor (words 13 and 14 of R79). -/
def descKey (d : Desc) : ItemKey := ⟨d.extractLsb' 416 16, d.extractLsb' 432 13, d.extractLsb' 448 16⟩

/-- SEQ of a descriptor (R79). -/
def descSeq (d : Desc) : Nat := fld d 464 16

/-- OP of a descriptor (R79). -/
def descOp (d : Desc) : Nat := fld d 0 4

/-- The format named by a 4-bit field of word 0. -/
def descFmt (d : Desc) (lo : Nat) : Option Fmt := Fmt.ofCode (fld d lo 4)

/-- CMODE of a pass (R79). -/
def descCmode (d : Desc) : Nat := fld d 12 3

/-- The ACLK cycles of one column slot (R67). -/
def slotLen (d : Desc) : Nat :=
  match descFmt d 4 with
  | some f => match f.rateClass with
    | some .sixteen => 4
    | some .fp32 => 16
    | some .eight => if descCmode d = 3 ∨ descCmode d = 4 then 2 else 1
    | _ => 1
  | none => 1

/-- The ramp length in cycles or column slots (R90, R103). -/
def rampLen (s : State) (n : Nat) : Nat :=
  match regFld s (Reg.TA_CTRL n) 0 2 with
  | 1 => 16
  | 2 => 64
  | _ => 32

/-- NCOL as a count (R79). -/
def descNcol (d : Desc) : Nat := fld d 49 8 + 1

/-- MT as a count (R79). -/
def descMt (d : Desc) : Nat := fld d 32 8 + 1

/-- EBASE (R79). -/
def descEbase (d : Desc) : Nat := fld d 64 8

/-- A drain with DEST = 0 (R135). -/
def descToRing (d : Desc) : Bool := decide (descOp d = 3) && !bit d 12

/-- ORIG, ITEM and LOT of a launch record (R187). -/
def launchKey (r : LaunchRec) : ItemKey := ⟨r.extractLsb' 160 16, r.extractLsb' 176 13, r.extractLsb' 192 16⟩

/-- ORIG, ITEM and LOT of a mover descriptor (words 14 and 15 of R296). -/
def moverKey (d : Desc) : ItemKey := ⟨d.extractLsb' 448 16, d.extractLsb' 480 13, d.extractLsb' 493 16⟩

/-- The column belongs to the item and lot. -/
def ColRec.ownedBy (c : ColRec) (k : ItemKey) : Bool :=
  c.owned && decide (c.orig = k.orig) && decide (c.item = k.item) && decide (c.lot = k.lot)

/-- Release the columns of an item and lot (R115): their records take the values of a free column (DESIGN CHOICE, log 45). -/
def releaseItem (a : ArraySt) (k : ItemKey) : ArraySt := { a with cols := a.cols.filter (fun (_, c) => !c.ownedBy k) }

/-- Give back what a drain with DEST = 0 has reserved in its ring and not delivered (R154, R168). -/
def unreserve (r : Ring) (d : Desc) (delivered : Nat) : Ring :=
  if descToRing d then { r with reserved := r.reserved - (descNcol d - delivered), fifoRes := r.fifoRes - 1 } else r

/-- The drains of an item that ends (R138, R140): one whose tile is poisoned stays in the drain unit to report POISON, if it has a
column left to read; any other is dropped. -/
def ArraySt.endDrains (a : ArraySt) (k : ItemKey) : List DrainRec :=
  let bad := a.cols.any (fun x => x.2.ownedBy k && x.2.poison)
  (a.drains.filter (fun r => bad || decide (descKey r.entry.desc ≠ k))).map (fun r =>
    if descKey r.entry.desc = k then
      { r with ended := true, flags := if r.next < descNcol r.entry.desc then r.flags ||| 16 else r.flags }
    else r)

/-- An item's end on one array (R92, R168, R181): its descriptors leave the queue, its reserved shadow is freed, its saved passes
and spilled tiles are dropped, its columns are released; len is the length of a ramp-down that starts. -/
def ArraySt.dropItem (a : ArraySt) (len : Nat) (k : ItemKey) : ArraySt :=
  let mine (e : QEntry) : Bool := decide (descKey e.desc = k)
  let a := match a.queue with
    | e :: _ => if a.streaming && mine e then { a with streaming := false, stopCol := none, ramp := .down len (slotLen e.desc) } else a
    | [] => a
  let q := a.queue.filter (fun e => !mine e)
  let a := releaseItem { a with drains := a.endDrains k } k
  let a := { a with queue := q, inflight := a.inflight.filter (fun e => !mine e) }
  let a := { a with saved := a.saved.filter (fun x => !mine x.entry), resumeHeld := a.resumeHeld.filter (fun e => !mine e) }
  let a := { a with spilled := a.spilled.filter (fun x => decide (x.1 ≠ k)), preload := a.preload.filter (fun e => !mine e) }
  let a := { a with lake := a.lake.filter (fun l => decide (l.tile.key ≠ k)) }
  match a.shadow with
  | some (_, id) => if q.any (fun e => e.id == id) then a else { a with shadow := none, loaded := 0 }
  | none => a

/-- An item's end on one drain ring (R168, R181). -/
def Ring.dropItem (r : Ring) (a : ArraySt) (k : ItemKey) : Ring :=
  let r := (a.queue.filter (fun e => decide (descKey e.desc = k))).foldl (fun r e => unreserve r e.desc 0) r
  let r := (a.drains.filter (fun x => !x.ended && decide (descKey x.entry.desc = k))).foldl (fun r x => unreserve r x.entry.desc x.next) r
  let gone := (r.slots.filter (fun x => decide (x.1 = k))).length
  { r with slots := r.slots.filter (fun x => decide (x.1 ≠ k)), fifo := r.fifo.filter (fun x => decide (x.1 ≠ k)), released := r.released + gone }

/-- An item's end on one engine (R191): its groups stop, the records held for it are dropped. -/
def Engine.dropItem (x : Engine) (arrs : Nat → ArraySt) (k : ItemKey) : Engine :=
  let gs := x.groups.map (fun (sl, g) => (sl, if launchKey g.launch = k then { g with stopped := true } else g))
  let rs := x.rings.map (fun (a, r) => (a, r.dropItem (arrs a) k))
  { x with groups := gs, launchQ := x.launchQ.filter (fun r => decide (launchKey r ≠ k)), rings := rs }

/-- Stop all work of an item and lot on this device (R115, R168, R191, R299): a running mover stops at its next boundary. -/
def endWork (s : State) (k : ItemKey) : State :=
  let engines := s.engines.map (fun (e, x) => (e, x.dropItem (fun a => arr s (4 * e + a)) k))
  let arrays := s.arrays.map (fun (n, a) => (n, a.dropItem (rampLen s n) k))
  let mine (e : MoverEntry) : Bool := decide (e.src = .dispatcher) && decide (moverKey e.desc = k)
  let movers := s.movers.map (fun (m, q) => (m, (match q with
    | [] => []
    | e :: t => (if mine e then { e with ended := true } else e) :: t.filter (fun e => !mine e))))
  let it := s.items
  let it := { it with heldDesc := it.heldDesc.filter (fun x => decide (descKey x.2 ≠ k)) }
  let it := { it with heldMover := it.heldMover.filter (fun x => decide (moverKey x.2 ≠ k)) }
  { s with engines := engines, arrays := arrays, movers := movers, items := it }

/-- The ITT entry of a key. -/
def ittOf (s : State) (k : ItemKey) : Option IttEntry := s.items.itt.find? (fun e => decide (e.key = k))

/-- Change the ITT entry of a key. -/
def setItt (s : State) (k : ItemKey) (f : IttEntry → IttEntry) : State :=
  { s with items := { s.items with itt := s.items.itt.map (fun e => if e.key = k then f e else e) } }

/-- An entry whose item has not ended (R374). -/
def IttEntry.live (e : IttEntry) : Bool := decide (e.state = .accepted) || decide (e.state = .running)

/-- Send the RESULT of an ended entry (R362, R371). -/
def sendResult (s : State) (e : IttEntry) (addr : Nat) (payload : List Byte) : State :=
  let q : PktSpec := { dst := e.key.orig.toNat, typ := ptResult, tint := e.tint.toNat, key := e.key, addr := addr, code := e.code.toNat }
  sendKept s { q with state := e.state.code, flags := e.flags.toNat, detail := e.detail.toNat, payload := payload }

/-- End a live item with a state, a code and its detail: its work stops and its RESULT is sent (R375). -/
def endItem (s : State) (k : ItemKey) (st : ItemState) (code detail : Nat) : State :=
  match ittOf s k with
  | some e =>
    if e.live then
      let f (e : IttEntry) : IttEntry := { e with state := st, code := BitVec.ofNat 8 code, detail := BitVec.ofNat 24 detail }
      sendResult (setItt (endWork s k) k f) (f e) 0 []
    else s
  | none => s

/-- Fail an item with a code of R379 (R375). A key that holds no live entry is not affected. -/
def failItem (s : State) (k : ItemKey) (code detail : Nat) : State := endItem s k .failed code detail

/-- Descriptor failure with its source (R379). -/
def descFail (s : State) (k : ItemKey) (source low : Nat) : State := failItem s k 1 (source * 2 ^ 16 + low % 2 ^ 16)

/-- Enter a key in the recent-end list, which holds the last 1,024 (R366). -/
def addRecent (s : State) (k : ItemKey) : State :=
  let l := s.items.recent ++ [k]
  { s with items := { s.items with recent := l.drop (l.length - 1024) } }

/-- The item leaves the ITT (R168, R373): its entry, its trigger entries and its anchors go, its key is remembered. -/
def leaveItt (s : State) (k : ItemKey) : State :=
  let it := s.items
  let it := { it with itt := it.itt.filter (fun e => decide (e.key ≠ k)), trig := it.trig.filter (fun t => decide (t.key ≠ k)) }
  addRecent { s with items := { it with anchors := it.anchors.filter (fun x => decide (x.key ≠ k)) } } k

/-- Flags of drains and programs gather in the ITT entry (R380). -/
def addFlags (s : State) (k : ItemKey) (fl : Nat) : State :=
  setItt s k (fun e => { e with flags := e.flags ||| BitVec.ofNat 10 fl })

/-- The trigger entry of a key and tag. -/
def trigOf (s : State) (k : ItemKey) (tag : Nat) : Option TrigEntry :=
  s.items.trig.find? (fun t => decide (t.key = k) && decide (t.tag.toNat = tag))

/-- The tag has fired (R166). -/
def tagFired (s : State) (k : ItemKey) (tag : Nat) : Bool :=
  match trigOf s k tag with
  | some t => match t.expect with
    | some x => decide (t.count = x.toNat)
    | none => false
  | none => false

/-- The trigger table is full (R163). -/
def trigFull (s : State) : Bool := decide (4096 ≤ s.items.trig.length)

/-- A live item fails with the trigger failure code (R167), and OVERRUN is set (R184). -/
def trigFail (s : State) (k : ItemKey) (tag : Nat) : State :=
  match ittOf s k with
  | some e => if e.live then failItem (setRegBit s Reg.DSP_TRIG_STAT 18) k 5 tag else s
  | none => s

/-- Change a trigger entry. -/
def setTrig (s : State) (k : ItemKey) (tag : Nat) (f : TrigEntry → TrigEntry) : State :=
  { s with items := { s.items with trig := s.items.trig.map (fun t => if t.key = k ∧ t.tag.toNat = tag then f t else t) } }

/-- Count once toward a tag that has an entry or for which the table has room (R165 to R167). -/
def countTag (s : State) (k : ItemKey) (tag : Nat) : State :=
  match trigOf s k tag with
  | some t =>
    match t.expect with
    | some x => if t.count + 1 > x.toNat then trigFail s k tag else setTrig s k tag (fun t => { t with count := t.count + 1 })
    | none => setTrig s k tag (fun t => { t with count := t.count + 1 })
  | none => { s with items := { s.items with trig := s.items.trig ++ [⟨k, BitVec.ofNat 16 tag, none, 1⟩] } }

/-- Arm a tag (R164): a second arming, or a count that is already beyond EXPECT, fails the item (R167). -/
def armTag (s : State) (k : ItemKey) (tag expect : Nat) : State :=
  match trigOf s k tag with
  | some t =>
    match t.expect with
    | some _ => trigFail s k tag
    | none =>
      if t.count > expect then trigFail s k tag
      else setTrig s k tag (fun t => { t with expect := some (BitVec.ofNat 16 expect) })
  | none => { s with items := { s.items with trig := s.items.trig ++ [⟨k, BitVec.ofNat 16 tag, some (BitVec.ofNat 16 expect), 0⟩] } }

end Sys2Proof.Machine
end

