-- ==== Sys2Proof/Machine/Memory.lean ====
section
/-! DEFINITION. The local address map and the bytes behind it: GDDR7, the hold window, the private banks and the far tier,
seen through the SC (R275 to R281, R284, R287, R321, R322, R325, R331, R334, R576). -/

namespace Sys2Proof.Machine

/-- The agents that reach local memory (R276): an engine's global and bank classes, an array's reads and drains by physical
number, a mover, the host. -/
inductive Master where
  | teGlobal | teBank (e : Nat) | arrayRead (n : Nat) | arrayDrain (n : Nat) | mover | host
  deriving DecidableEq, Repr

/-- First address of the hold window (R275). -/
def holdBase : Nat := 0x080000000000
/-- First address of the private banks (R275). -/
def pbBase : Nat := 0x084000000000
/-- Bytes of a private bank. -/
def pbSize : Nat := 0x800000
/-- First address of the far tier (R331). -/
def farBase : Nat := 0x010000000000
/-- Bytes of a far port's range. -/
def farSize : Nat := 0x008000000000

/-- Bytes of GDDR7 that software reaches (R322, R352). -/
def nearSize (s : State) : Nat := regFld s Reg.NEAR_STATUS 8 24 * 2 ^ 20
/-- Bytes of the hold window (R284, R309). -/
def holdSize (s : State) : Nat := regFld s Reg.RLZ_HOLD_SIZE 0 24 * 2 ^ 10

/-- First address of the private bank of a physical region (R275). -/
def bankBase (s : State) (e : Nat) : Nat := pbBase + engineNumber s e * pbSize

/-- What lies at an address. -/
inductive Place where
  | near | far (p : Nat) | hold | bank (r : Nat) | nothing
  deriving DecidableEq, Repr

/-- The range that an address lies in. -/
def placeOf (s : State) (a : Nat) : Place :=
  if a < nearSize s then .near
  else if farBase ≤ a ∧ a < farBase + 12 * farSize then .far ((a - farBase) / farSize)
  else if holdBase ≤ a ∧ a < holdBase + holdSize s then .hold
  else if pbBase ≤ a ∧ a < pbBase + 48 * pbSize then .bank ((a - pbBase) / pbSize)
  else .nothing

/-- State of a far port (R347, R356). -/
def farState (s : State) (p : Nat) : Nat := regFld s (Reg.FME_PORT_STAT p) 0 3

/-- The bank of logical region r is the bank of physical region e's region. -/
def ownBank (s : State) (e r : Nat) : Bool := decide (logicalEngine s e = some r)

/-- A master may read or write a place (R275, R276, R331, R342). -/
def mayReach (s : State) (m : Master) (write : Bool) (x : Place) : Bool :=
  match x with
  | .nothing => false
  | .near => match m with
    | .teBank _ => false
    | .arrayRead _ => false
    | _ => true
  | .far p => (decide (farState s p = 4) || (decide (farState s p = 5) && !write)) && (match m with
    | .teBank _ => false
    | .arrayRead _ => false
    | _ => true)
  | .hold => match m with
    | .teBank _ => false
    | _ => true
  | .bank r => (physRegion s r).isSome && (match m with
    | .teGlobal => false
    | .teBank e => ownBank s e r
    | .arrayRead n => ownBank s (n / 4) r
    | .arrayDrain n => ownBank s (n / 4) r
    | _ => true)

/-- The end of the range of a place. -/
def placeEnd (s : State) (x : Place) : Nat :=
  match x with
  | .nothing => 0
  | .near => nearSize s
  | .far p => farBase + (p + 1) * farSize
  | .hold => holdBase + holdSize s
  | .bank r => pbBase + (r + 1) * pbSize

/-- Every byte from a to b − 1 lies where the master may go; fuel bounds the ranges crossed. -/
def reachAll (s : State) (m : Master) (write : Bool) (b : Nat) : Nat → Nat → Bool
  | 0, _ => false
  | fuel + 1, a =>
    let x := placeOf s a
    mayReach s m write x && (decide (b ≤ placeEnd s x) || reachAll s m write b fuel (placeEnd s x))

/-- A master may read n bytes at a; an array drain writes them (R276). -/
def mapped (s : State) (m : Master) (a n : Nat) : Bool :=
  reachAll s m (match m with
    | .arrayDrain _ => true
    | _ => false) (a + n) 64 a

/-- A master may write n bytes at a (R276). -/
def mappedW (s : State) (m : Master) (a n : Nat) : Bool := reachAll s m true (a + n) 64 a

/-- Slices that are enabled (R278). -/
def sliceCount (s : State) : Nat := regFld s Reg.RLZ_STATUS 0 7

/-- The line number of a location (R278): the hold window counts from its own start. -/
def lineNumber (a : Nat) : Nat := if holdBase ≤ a then (a - holdBase) / 128 else a / 128

/-- The per-slice line index (R278). -/
def lineIndex (s : State) (l : Nat) : Nat := l / sliceCount s

/-- The logical slice of a line (R278). -/
def lineSlice (s : State) (l : Nat) : Nat :=
  let n := sliceCount s
  let j := l / n
  let g := (j ^^^ (j >>> 6) ^^^ (j >>> 12) ^^^ (j >>> 18) ^^^ (j >>> 24) ^^^ (j >>> 30)) % 64
  (l % n + g) % n

/-- The set of a line (R279). -/
def lineSet (s : State) (l : Nat) : Nat := lineIndex s l % 17408

/-- The physical slice with a logical number (R278, R310). -/
def physSlice (s : State) (k : Nat) : Option Nat :=
  (List.range 64).find? (fun i => regBit s (Reg.RLZ_SC_ID i) 16 && decide (regFld s (Reg.RLZ_SC_ID i) 8 8 = k))

/-- Replacement trees are kept by slice and set. -/
def setKey (s : State) (l : Nat) : Nat := lineSlice s l * 17408 + lineSet s l

/-- Hold ways in effect (R285, R308). -/
def holdNow (s : State) : Nat := regFld s Reg.RLZ_STATUS 8 4

/-- Steps of the replacement tree from the root over 16 ways: at each node, the way lies in the upper half (node 1 is the root,
its children 2n and 2n + 1). -/
def treePath (way : Nat) : List (Nat × Bool) :=
  [(1, decide (8 ≤ way)), (2 + way / 8, decide (4 ≤ way % 8)), (4 + way / 4, decide (2 ≤ way % 4)), (8 + way / 2, decide (1 ≤ way % 2))]

/-- Point the tree away from a way, or to it: a set bit names the upper half as next victim (R281). -/
def treeMark (t : BitVec 16) (way : Nat) (victim : Bool) : BitVec 16 :=
  (treePath way).foldl (fun t (n, hi) => setFld t n 1 (b2n (hi == victim))) t

/-- The victim among ways h to 15 (R279, R281): a half without such a way is passed over. -/
def treeVictim (t : BitVec 16) (h : Nat) : Nat :=
  let go (node lo half : Nat) : Nat := if lo + half ≤ h ∨ bit t node then lo + half else lo
  let a := go 1 0 8
  let b := go (2 + a / 8) a 4
  let c := go (4 + b / 4) b 2
  go (8 + c / 2) c 1

/-- Bytes lo to lo + k − 1 of a line as a mask. -/
def byteMask (lo k : Nat) : BitVec 128 := BitVec.ofNat 128 ((2 ^ k - 1) * 2 ^ lo)

/-- Byte i of a line. -/
def lineByte (d : LineBits) (i : Nat) : Byte := d.extractLsb' (8 * i) 8

/-- The bytes of new where the mask has a bit, else of old. -/
def mergeLine (mask : BitVec 128) (new old : LineBits) : LineBits :=
  (List.range 128).foldl (fun d i => if bit mask i then setFld d (8 * i) 8 (lineByte new i).toNat else d) old

/-- Put bytes into a line from byte lo. -/
def putBytes (d : LineBits) (lo : Nat) (bs : List Byte) : LineBits :=
  bs.zipIdx.foldl (fun d (b, i) => setFld d (8 * (lo + i)) 8 b.toNat) d

/-- What an unlisted byte of a memory reads as (R284, R287, R325, log 6): zero in the hold window and the banks, a free value
in GDDR7. -/
def unlistedByte (a : Nat) : Option Byte := if holdBase ≤ a then some 0 else none

/-- A stored byte; none for a GDDR7 byte of a line that was never written in full. DESIGN CHOICE, log 6. -/
def memByte (m : List Host.Cell) (a : Nat) : Option Byte :=
  match look m a with
  | some b => some b
  | none => unlistedByte a

/-- Store a byte; one that equals what an unlisted address reads as is not listed. -/
def setMemByte (m : List Host.Cell) (a : Nat) (b : Byte) : List Host.Cell :=
  if unlistedByte a = some b then del m a else put m a b

/-- Store bytes at consecutive addresses. -/
def setMemBytes (m : List Host.Cell) (a : Nat) : List Byte → List Host.Cell
  | [] => m
  | b :: t => setMemBytes (setMemByte m a b) (a + 1) t

/-- Addresses rise strictly and no entry equals what its address reads as when unlisted. -/
def Memory.wf (m : List Host.Cell) : Bool :=
  risingFrom 0 m && m.all (fun (a, b) => decide (unlistedByte a ≠ some b))

/-- A GDDR7 line that has been written in full since training (R325). -/
def lineWritten (s : State) (a : Nat) : Bool := (look s.mem (a / 128 * 128)).isSome

/-- A far port. -/
def farPort (s : State) (p : Nat) : FarPort := lookD s.far.ports p {}

/-- Change a far port. -/
def setFarPort (s : State) (p : Nat) (x : FarPort) : State := { s with far := { s.far with ports := put s.far.ports p x } }

/-- The FM576 behind a port. -/
def farModule (s : State) (p : Nat) : Fm576 := lookD s.far.modules p {}

/-- Change an FM576. -/
def setFarModule (s : State) (p : Nat) (x : Fm576) : State := { s with far := { s.far with modules := put s.far.modules p x } }

/-- A media line: zeros until written. -/
def mediaLine (x : Fm576) (i : Nat) : FarLine := lookD x.media i ⟨0, 0, false⟩

/-- Line l of logical granule g of a port, without its staging buffer (R334): from the media through the forward entry, or
zeros. -/
def mappedLine (s : State) (p g l : Nat) : FarLine :=
  match look (farPort s p).tables.fwd g with
  | some x => mediaLine (farModule s p) (512 * x + l)
  | none => ⟨0, 0, false⟩

/-- A far line as a read finds it (R334): staged bytes over the media's. -/
def farLine (s : State) (p g l : Nat) : LineBits × Bool :=
  let m := mappedLine s p g l
  match (look (farPort s p).staging g).bind (fun b => look b.lines l) with
  | some x => (mergeLine x.mask x.data m.data, x.poison || (m.poison && decide (x.mask ≠ BitVec.allOnes 128)))
  | none => (m.data, m.poison)

/-- Logical granule and line within it of a far offset (R332). -/
def farWhere (a : Nat) : Nat × Nat × Nat :=
  let o := a - farBase
  (o / farSize, o % farSize / 65536, o % 65536 / 128)

/-- The line at a 128-byte aligned address as the memory behind the SC holds it, and whether it is poisoned. DESIGN CHOICE, log 6. -/
def backLine (s : State) (a : Nat) : LineBits × Bool :=
  if farBase ≤ a then
    let (p, g, l) := farWhere a
    farLine s p g l
  else if lineWritten s a then
    (BitVec.ofNat 1024 (ofBytes (tab 128 (fun i => (memByte s.mem (a + i)).getD 0))), s.poison.contains a)
  else (BitVec.ofNat 1024 (ofBytes (tab 128 (fun i => Config.freeByte (s.near.base + a + i)))), Config.freeBool (s.near.base + a))

/-- One byte as every agent sees it (R277). -/
def readByte (s : State) (a : Nat) : Byte :=
  if holdBase ≤ a then (memByte s.mem a).getD 0
  else
    match look s.sc.lines (a / 128) with
    | some x => if bit x.valid (a % 128) then lineByte x.data (a % 128) else lineByte (backLine s (a / 128 * 128)).1 (a % 128)
    | none => lineByte (backLine s (a / 128 * 128)).1 (a % 128)

/-- n bytes from an address. DESIGN CHOICE, log 10. DESIGN CHOICE, log 24. -/
def readBytes (s : State) (a n : Nat) : List Byte := tab n (fun i => readByte s (a + i))

/-- Poison is kept by lines of 128 bytes, and in the private banks by words of 32 (R321, R443). -/
def poisonUnit (a : Nat) : Nat := if pbBase ≤ a then 32 else 128

/-- The part from byte lo to lo + k − 1 of the unit at u reads poisoned. -/
def unitPoisoned (s : State) (u lo k : Nat) : Bool :=
  if holdBase ≤ u then s.poison.contains u
  else
    match look s.sc.lines (u / 128) with
    | some x => x.poison || (decide (byteMask lo k &&& ~~~ x.valid ≠ 0) && (backLine s u).2)
    | none => (backLine s u).2

/-- The units that n bytes at a touch, each with the first byte and the count in it. -/
def unitsOf (a n : Nat) : List (Nat × Nat × Nat) :=
  if n = 0 then []
  else
    let w := poisonUnit a
    (List.range ((a + n - 1) / w - a / w + 1)).map (fun i =>
      let u := (a / w + i) * w
      let lo := max a u
      (u, lo - u, min (a + n) (u + w) - lo))

/-- Any of n bytes at a is poisoned (R321, R443). -/
def readPoison (s : State) (a n : Nat) : Bool := (unitsOf a n).any (fun (u, lo, k) => unitPoisoned s u lo k)

/-- Mark or unmark a unit of poison. -/
def setPoison (s : State) (u : Nat) (p : Bool) : State :=
  { s with poison := if p then insNat s.poison u else s.poison.filter (fun x => decide (x ≠ u)) }

end Sys2Proof.Machine
end

