-- ==== Sys2Proof/Machine/RegBase.lean ====
section
/-! DEFINITION. Which register blocks are live, and what an aligned write leaves in a register's fields (R9, R12, R14, R529,
R578). -/

namespace Sys2Proof.Machine

/-- The register block at a BAR0 offset is live (R529, R578); BOOT_CMD is served from the first step boundary (R567, log 31). -/
def blockLive (s : State) (off : Nat) : Bool :=
  if off = Reg.BOOT_CMD then s.pins.stby
  else if off < 0x600000 then decide (2 ≤ s.boot.done)
  else if off < 0x800000 then decide (9 ≤ s.boot.done)
  else if off < 0xC00000 then decide (12 ≤ s.boot.begun)
  else if off < 0xE00000 then decide (10 ≤ s.boot.begun)
  else if off < 0x1000000 then decide (11 ≤ s.boot.begun)
  else decide (9 ≤ s.boot.done)

/-- Store a written word: RW fields, W1C and W1S bits; hw marks the bits that hardware sets in the same cycle (R9, R11,
R12, R14). -/
def storeRegHw (s : State) (off : Nat) (v hw : Word) : State :=
  match findReg regMap off with
  | some (r, _) => setRegWord s off (r.write (regWord s off) v hw)
  | none => s

/-- Store a written word with no simultaneous hardware set. -/
def storeReg (s : State) (off : Nat) (v : Word) : State := storeRegHw s off v 0

/-- A write acts only while its block is live (R529). DEDUCED, log 14. -/
def whenLive (s : State) (off : Nat) (f : State → State) : State := if blockLive s off then f s else s

end Sys2Proof.Machine
end

