-- ==== Sys2Proof/Machine/Tints.lean ====
section
/-! DEFINITION. Tints: rated capacities, guarantees, token buckets and epochs (R300 to R305, R314 to R316). -/

namespace Sys2Proof.Machine

/-- Rated capacity of a resource in its unit (R304): 0 SCRD, 1 SCWR, 2 NEAR, 3 FAR. -/
def capOf (s : State) (r : Nat) : Nat :=
  let slices := (List.range 64).filter (fun i => regBit s (Reg.RLZ_SC_ID i) 16)
  let sumOf (lo full half : Nat) : Nat := (slices.map (fun i => match regFld s (Reg.RLZ_SC_VC i) lo 2 with
    | 0 => full
    | 3 => 0
    | _ => half)).foldl (· + ·) 0
  match r with
  | 0 => sumOf 0 512 256
  | 1 => sumOf 2 12288 6144 / 40
  | 2 => 310 * regFld s Reg.NEAR_STATUS 0 4
  | _ => ((List.range 12).map (fun p =>
      if farState s p = 4 ∨ farState s p = 5 then 75 * regFld s (Reg.FME_PORT_STAT p) 4 3 else 0)).foldl (· + ·) 0 / 10

/-- Programmed guarantee of a tint; tint 7's is that of R303. -/
def guarOf (s : State) (t r : Nat) : Nat :=
  if t = 7 then regFld s (Reg.DSP_TINT_CAP r) 0 16 / 100 else regFld s (Reg.DSP_TINT_LIM t r) 0 16

/-- Ceiling of a tint; tint 7's is that of R303. -/
def ceilOf (s : State) (t r : Nat) : Nat :=
  if t = 7 then regFld s (Reg.DSP_TINT_CAP r) 0 16 / 20 else regFld s (Reg.DSP_TINT_LIM t r) 16 16

/-- Recompute a resource's capacity and effective guarantees (R304, R305): they take effect at the next epoch boundary. -/
def recomputeTint (s : State) (r : Nat) : State :=
  let cap := capOf s r
  let s := setRegFld s (Reg.DSP_TINT_CAP r) 0 16 cap
  let lim := cap * 9 / 10
  let sum := ((List.range 8).map (fun t => guarOf s t r)).foldl (· + ·) 0
  let scaled := decide (lim < sum)
  let s := setRegFld s Reg.DSP_TINT_STAT (4 + r) 1 (b2n scaled)
  let s := if scaled then setRegBit s Reg.DSP_TINT_STAT r else s
  (List.range 8).foldl (fun s t =>
    let g := guarOf s t r
    { s with tint := { s.tint with pendEff := put s.tint.pendEff (4 * t + r) (if scaled then g * lim / sum else g) } }) s

/-- Recompute every resource. -/
def recomputeTints (s : State) : State := (List.range 4).foldl recomputeTint s

/-- Bytes that one unit carries in an epoch of 512 ns (R301, R304). -/
def epochBytes (r : Nat) : Nat := if r < 2 then 2048 else 512

/-- The ceiling binds (R314): not at 0xFFFF, nor at or above CAP. -/
def ceilBinds (s : State) (t r : Nat) : Bool :=
  decide (ceilOf s t r ≠ 0xFFFF) && decide (ceilOf s t r < regFld s (Reg.DSP_TINT_CAP r) 0 16)

/-- Key of a bucket. -/
def bucketKey (m t r : Nat) : Nat := 32 * m + 4 * t + r

/-- The number under which the requests of the far-memory engine are charged: it is no master port of R301 (R340, log 73). -/
def fmeMaster : Nat := 273

/-- Masters that charged a tint to a resource in the last epoch, at least 1 (R301). -/
def lastMasters (s : State) (t r : Nat) : Nat :=
  max 1 (s.tint.last.filter (fun (k, _) => decide (k % 32 = 4 * t + r) && decide (k / 32 < fmeMaster))).length

/-- Tokens that a master receives over the epoch (R301). -/
def epochShare (s : State) (m t r : Nat) : Nat :=
  let n := lastMasters s t r
  ceilOf s t r * epochBytes r / (if (look s.tint.last (bucketKey m t r)).isSome then n else n + 1)

/-- What a bucket holds at most (R301). -/
def bucketSize : Nat := 4096

/-- Tokens that a master may still use in the epoch. -/
def tokensLeft (s : State) (m t r : Nat) : Nat :=
  let k := bucketKey m t r
  lookD s.tint.tokens k bucketSize + (epochShare s m t r - lookD s.tint.drawn k 0)

/-- The bucket admits a request of n bytes. -/
def bucketAdmits (s : State) (m t r n : Nat) : Bool := !ceilBinds s t r || decide (n ≤ tokensLeft s m t r)

/-- Charge n bytes (R300): from the bucket first, then from what the epoch adds to it. -/
def chargeBucket (s : State) (m t n r : Nat) : State :=
  let k := bucketKey m t r
  let x := s.tint
  let held := lookD x.tokens k bucketSize
  let x := { x with charges := put x.charges k (lookD x.charges k 0 + n) }
  let x :=
    if !ceilBinds s t r then x
    else if n ≤ held then { x with tokens := putD bucketSize x.tokens k (held - n) }
    else { x with tokens := putD bucketSize x.tokens k 0, drawn := put x.drawn k (lookD x.drawn k 0 + (n - held)) }
  { s with tint := x }

/-- Charge n bytes of the far-memory engine's own traffic (R340): tint 7 to FAR, in no bucket (log 73). -/
def chargeFme (s : State) (n : Nat) : State :=
  let k := bucketKey fmeMaster 7 3
  { s with tint := { s.tint with charges := put s.tint.charges k (lookD s.tint.charges k 0 + n) } }

/-- The resources that a request at an address uses (R300): reads and aloads SCRD, others SCWR; GDDR7 also NEAR, the far tier
also FAR. -/
def resourcesOf (read : Bool) (a : Nat) : List Nat :=
  (if read then 0 else 1) :: (if a < farBase then [2] else if a < holdBase then [3] else [])

/-- An epoch boundary (R301, R302, R305): buckets take what the epoch still had for them, a tint is under its guarantee where its
charges stayed below it, and the guarantees last computed come into force. -/
def endEpoch (s : State) : State :=
  let x := s.tint
  let keys := (x.tokens.map (·.1) ++ x.drawn.map (·.1)).eraseDups
  let refill (b : Tbl Nat) (k : Nat) : Tbl Nat :=
    putD bucketSize b k (min bucketSize (tokensLeft s (k / 32) (k / 4 % 8) (k % 4)))
  let under := (List.range 32).filter (fun i =>
    let sum := ((x.charges.filter (fun (k, _) => decide (k % 32 = i))).map (·.2)).foldl (· + ·) 0
    decide (sum < regFld s (Reg.DSP_TINT_EFF (i / 4) (i % 4)) 0 16 * epochBytes (i % 4)))
  let tokens := keys.foldl refill x.tokens
  let s := { s with tint := { tokens := tokens, last := x.charges, under := under } }
  x.pendEff.foldl (fun s (i, v) => setRegFld s (Reg.DSP_TINT_EFF (i / 4) (i % 4)) 0 16 v) s

/-- A write of DSP_TINT_LIM (R303, R314): LIMIT_CLAMP is set where the written CEIL is raised (R316). -/
def writeTintLim (s : State) (t r : Nat) (v : Word) : State :=
  if t = 7 then s
  else
    let g := fld v 0 16
    let c := max g (max 1 (fld v 16 16))
    let s := setRegWord s (Reg.DSP_TINT_LIM t r) (BitVec.ofNat 32 (g + c * 2 ^ 16))
    recomputeTint (if fld v 16 16 < c then setRegBit s Reg.DSP_TINT_STAT 8 else s) r

/-- TINT_LIM_WRITE. -/
def execTintLimWrite (t : Fin 8) (r : Fin 4) (v : Word) (s : State) : Out :=
  .next (whenLive s (Reg.DSP_TINT_LIM t r) (fun s => writeTintLim s t r v))

end Sys2Proof.Machine
end

