-- ==== Sys2Proof/Machine/FarBase.lean ====
section
/-! DEFINITION. The pool, commits and journal of the far-memory engine (R332 to R343, R350). -/

namespace Sys2Proof.Machine

/-- Physical granules of an FM576 (R332). -/
def physGranules : Nat := 9437184

/-- A physical granule's record. -/
def physRec (t : FarTables) (x : Nat) : PhysRec := lookD t.phys x {}

/-- Age of a mapped granule (R338). -/
def granuleAge (t : FarTables) (x : Nat) : Nat := (t.hours % 2048 + 2048 - (physRec t x).stamp) % 2048

/-- Free physical granules (R333). -/
def poolSize (t : FarTables) : Nat := physGranules - (t.phys.filter (fun (_, r) => decide (r.state ≠ 0))).length

/-- The lowest number that the table does not list, from k on. -/
def lowestUnlisted : List Nat → Nat → Nat
  | [], k => k
  | x :: t, k => if x = k then lowestUnlisted t (k + 1) else if x < k then lowestUnlisted t k else k

/-- The free granules that can be told apart: those listed, and the lowest that has never been written. -/
def freeGranules (t : FarTables) : List (Nat × Nat) :=
  let fresh := lowestUnlisted (t.phys.map (·.1)) 0
  (t.phys.filter (fun (_, r) => decide (r.state = 0))).map (fun (x, r) => (x, r.wear)) ++ (if fresh < physGranules then [(fresh, 0)] else [])

/-- The free granule with the lowest WEAR (R335), ties to the lowest number. -/
def leastWorn (t : FarTables) : Option Nat :=
  ((freeGranules t).foldl (fun (m : Option (Nat × Nat)) y => match m with
    | some z => if y.2 < z.2 ∨ (y.2 = z.2 ∧ y.1 < z.1) then some y else some z
    | none => some y) none).map (·.1)

/-- The free granule with the highest WEAR (R337), ties to the lowest number, with its WEAR. -/
def mostWorn (t : FarTables) : Option (Nat × Nat) :=
  (freeGranules t).foldl (fun (m : Option (Nat × Nat)) y => match m with
    | some z => if z.2 < y.2 ∨ (y.2 = z.2 ∧ y.1 < z.1) then some y else some z
    | none => some y) none

/-- The mapped logical granule whose physical granule has the lowest WEAR (R337), with that WEAR. -/
def leastMapped (t : FarTables) : Option (Nat × Nat) :=
  (t.fwd.map (fun (g, x) => (g, (physRec t x).wear))).foldl (fun (m : Option (Nat × Nat)) y => match m with
    | some z => if y.2 < z.2 then some y else some z
    | none => some y) none

/-- Change a physical granule's record. -/
def setPhys (s : State) (p x : Nat) (f : PhysRec → PhysRec) : State :=
  let q := farPort s p
  setFarPort s p { q with tables := { q.tables with phys := put q.tables.phys x (f (physRec q.tables x)) } }

/-- Lines of a physical granule on the media. -/
def granuleLines (m : Fm576) (x : Nat) : Tbl FarLine :=
  (m.media.filter (fun (k, _) => decide (512 * x ≤ k) && decide (k < 512 * (x + 1)))).map (fun (k, l) => (k - 512 * x, l))

/-- The image of a commit (R335): the current media image under the staged lines. -/
def commitImage (s : State) (p g : Nat) : Tbl FarLine :=
  let old := match look (farPort s p).tables.fwd g with
    | some x => granuleLines (farModule s p) x
    | none => []
  match look (farPort s p).staging g with
  | none => old
  | some b => b.lines.foldl (fun t (l, _) =>
      let (d, q) := farLine s p g l
      put t l ⟨BitVec.allOnes 128, d, q⟩) old

/-- A port serves its range: MOUNTED or READONLY (R347). -/
def portServes (s : State) (p : Nat) : Bool := decide (farState s p = 4) || decide (farState s p = 5)

/-- The pool's thresholds (R342). -/
def checkPool (s : State) (p : Nat) : State :=
  let n := poolSize (farPort s p).tables
  let s := if n < 131072 ∧ regBit s (Reg.FME_PORT_STAT p) 8 = false then
      logEvent (setRegBit s (Reg.FME_PORT_STAT p) 8) 3 BktClass.far.num [BitVec.ofNat 32 (BktClass.far.first + p), BitVec.ofNat 32 n]
    else s
  if n < 4096 ∧ farState s p = 4 then
    setFarModule (setRegFld s (Reg.FME_PORT_STAT p) 0 3 5) p { farModule s p with readonly := true }
  else s

/-- Bytes that a commit moves over CXL.mem (R335): the image, and the mapped lines that are not wholly staged. -/
def commitBytes (s : State) (p g : Nat) : Nat :=
  let f := farPort s p
  let full := match look f.staging g with
    | some b => (b.lines.filter (fun (_, x) => decide (x.mask = BitVec.allOnes 128))).length
    | none => 0
  65536 + (if (look f.tables.fwd g).isSome then 128 * (512 - full) else 0)

/-- Begin a commit of a logical granule into a target (R335): lines that are written from now on wait for the next one. -/
def commitInto (s : State) (p g x : Nat) (defective : Bool) : State :=
  let image := commitImage s p g
  let s := setPhys s p x (fun r => { r with state := 1 })
  let f := farPort s p
  let staging := match look f.staging g with
    | some b => put f.staging g { b with since := [] }
    | none => f.staging
  checkPool (setFarPort s p { f with staging := staging, commits := put f.commits g { target := x, image := image, defective := defective } }) p

/-- Begin a commit into the least worn free granule, where the port serves, has one, and runs no commit of the granule. -/
def startCommit (s : State) (p g : Nat) (defective : Bool) : State :=
  let f := farPort s p
  if !portServes s p || (look f.commits g).isSome then s
  else match leastWorn f.tables with
    | some x => commitInto s p g x defective
    | none => s

/-- Begin the commit of a refresh (R338), which carries tint 7 (R340). -/
def startRefresh (s : State) (p g : Nat) : State :=
  let t := startCommit s p g false
  if (look (farPort s p).commits g).isNone && (look (farPort t p).commits g).isSome then chargeFme t (commitBytes s p g) else t

/-- A levelling move (R337, R340): at most one per 1,024 commits on the port, when the wear spread passes the threshold. -/
def levelWear (s : State) (p : Nat) : State :=
  let f := farPort s p
  match mostWorn f.tables, leastMapped f.tables with
  | some (x, hi), some (g, lo) =>
    if 1024 ≤ f.sinceLevel ∧ lo + regFld s Reg.FME_CFG2 0 8 * 1024 < hi ∧ (look f.commits g).isNone ∧ portServes s p then
      let s := chargeFme (commitInto s p g x false) (commitBytes s p g)
      setFarPort s p { farPort s p with sinceLevel := 0 }
    else s
  | _, _ => s

/-- Append a journal record (R350), a metadata write (R340): its 16 bytes are charged as 32 (R300). -/
def appendJournal (s : State) (p typ g x : Nat) : State :=
  let f := farPort s p
  let s := setFarPort s p { f with seq := f.seq + 1 }
  let m := farModule s p
  chargeFme (setFarModule s p { m with journal := m.journal ++ [⟨g, typ, x, f.seq + 1⟩] }) 32

/-- Write a checkpoint (R350): the port's tables of 68 MiB (R332), and an empty journal after it; it is a metadata write (R340). -/
def checkpoint (s : State) (p : Nat) : State :=
  let f := farPort s p
  chargeFme (setFarModule s p { farModule s p with ckpt := f.tables, ckptSeq := f.seq, journal := [] }) (68 * 2 ^ 20)

/-- One journal completion that a persist waited for has come. -/
def coverDone (r : PersistRec) (p g : Nat) : PersistRec :=
  { r with covers := (r.covers.map (fun (c, n) => (c, if c = (p, g) then n - 1 else n))).filter (fun (_, n) => decide (n ≠ 0)) }

/-- The wear limit (R336). -/
def wearLimit (s : State) : Nat := regFld s Reg.FME_CFG 16 8 * 1000

/-- The old physical granule leaves its mapping: free, retired at the wear limit, or retired as defective (R335, R336, R341). -/
def releaseGranule (s : State) (p g old : Nat) (defective : Bool) : State :=
  if defective then appendJournal (setPhys s p old (fun r => { r with state := 3 })) p 4 g old
  else if wearLimit s ≤ (physRec (farPort s p).tables old).wear then
    appendJournal (setPhys s p old (fun r => { r with state := 2 })) p 3 g old
  else setPhys s p old (fun r => { r with state := 0 })

/-- A COMMIT_GRANULE completes (R335, R336): the media hold the image, and the granule's WEAR and STAMP follow. -/
def granuleOk (s : State) (p g : Nat) : State :=
  let f := farPort s p
  match look f.commits g with
  | none => s
  | some c =>
    if c.committed then s
    else
      let m := farModule s p
      let kept := m.media.filter (fun (k, _) => !(decide (512 * c.target ≤ k) && decide (k < 512 * (c.target + 1))))
      let s := setFarModule s p { m with media := c.image.foldl (fun t (l, x) => put t (512 * c.target + l) x) kept }
      let s := setPhys s p c.target (fun r => ⟨r.wear + 1, 1, f.tables.hours % 2048⟩)
      let f := farPort s p
      setFarPort s p { f with commits := put f.commits g { c with committed := true }, sinceLevel := f.sinceLevel + 1 }

/-- A commit's journal record completes (R335); the wear that it leaves may call for a levelling move (R337). -/
def journalDone (s : State) (p g : Nat) : State :=
  let f := farPort s p
  match look f.commits g with
  | none => s
  | some c =>
    if !c.committed then s
    else
      let s := appendJournal s p 1 g c.target
      let old := look f.tables.fwd g
      let f := farPort s p
      let staging := match look f.staging g with
        | none => f.staging
        | some b =>
          let lines := b.lines.filter (fun (l, _) => b.since.contains l)
          if lines.isEmpty then del f.staging g else put f.staging g { b with lines := lines }
      let s := setFarPort s p { f with
        tables := { f.tables with fwd := put f.tables.fwd g c.target }, staging := staging, commits := del f.commits g,
        first := f.first.filter (fun x => decide (x ≠ g)) }
      let s := match old with
        | some x => releaseGranule s p g x c.defective
        | none => s
      let s := { s with far := { s.far with persists := s.far.persists.map (fun r => coverDone r p g) } }
      levelWear (checkPool (if 2 ^ 26 < (farModule s p).journal.length then checkpoint s p else s) p) p

/-- Commit one staged granule to the end, together with what was staged during a commit in progress. -/
def settleGranule (s : State) (p g : Nat) : State :=
  let once (s : State) : State := journalDone (granuleOk (startCommit s p g false) p g) p g
  let s := once s
  if (look (farPort s p).staging g).isSome then once s else s

/-- Staging buffers in use over all ports. -/
def stagedCount (s : State) : Nat := ((List.range 12).map (fun p => (farPort s p).staging.length)).foldl (· + ·) 0

/-- Buffers of the staging area (R334). -/
def stagingBuffers : Nat := 16384

/-- The buffer that has waited longest since its last write, of the ports that can commit (R335): its port and granule. -/
def oldestStaged (s : State) : Option (Nat × Nat) :=
  let can (p : Nat) : Bool := portServes s p && (leastWorn (farPort s p).tables).isSome
  let all := ((List.range 12).filter can).flatMap (fun p => (farPort s p).staging.map (fun (g, b) => (p, g, b.last)))
  (all.foldl (fun (m : Option (Nat × Nat × Nat)) y => match m with
    | some z => if y.2.2 < z.2.2 then some y else some z
    | none => some y) none).map (fun x => (x.1, x.2.1))

/-- Make room for the buffer of a granule (R334, R335): with the staging area full, the buffer that has waited longest is committed
to the end first, where one can be. DESIGN CHOICE, log 13. -/
def roomForBuffer (s : State) (p g : Nat) : State :=
  if (look (farPort s p).staging g).isSome || decide (stagedCount s < stagingBuffers) then s
  else match oldestStaged s with
    | some (q, h) => settleGranule s q h
    | none => s

end Sys2Proof.Machine
end

