-- ==== Sys2Proof/Machine/Lines.lean ====
section
/-! DEFINITION. The cached lines of the SC and the writes that every agent makes through them (R277 to R281, R321, R325, R334,
R347). -/

namespace Sys2Proof.Machine

/-- A line written back enters the staging buffer of its granule (R334). -/
def stageLine (s : State) (p g l : Nat) (x : FarLine) : State :=
  let f := farPort s p
  let b := lookD f.staging g {}
  let old := lookD b.lines l ⟨0, 0, false⟩
  let full := decide (x.mask = BitVec.allOnes 128)
  let new : FarLine := ⟨old.mask ||| x.mask, mergeLine x.mask x.data old.data, x.poison || (old.poison && !full)⟩
  let b := { b with lines := put b.lines l new, since := insNat b.since l, last := s.far.clock }
  let s := setFarPort s p { f with staging := put f.staging g b }
  { s with far := { s.far with clock := s.far.clock + 1 } }

/-- Store a GDDR7 line's dirty bytes (R280, R321, R325): a part of a line that was never written in full leaves it so. -/
def storeNear (s : State) (a : Nat) (x : ScLine) : State :=
  let bs (i : Nat) : Byte := lineByte x.data i
  if x.dirty = BitVec.allOnes 128 then setPoison { s with mem := setMemBytes s.mem a (tab 128 bs) } a x.poison
  else if lineWritten s a then
    let m := (List.range 128).foldl (fun m i => if bit x.dirty i then setMemByte m (a + i) (bs i) else m) s.mem
    let s := { s with mem := m }
    if x.poison then setPoison s a true else s
  else s

/-- Write a line's dirty bytes to the memory behind it (R280): a far port that is not mounted has lost the write (R347). -/
def writeBack (s : State) (ln : Nat) (x : ScLine) : State :=
  let a := ln * 128
  if x.dirty = 0 then s
  else if a < farBase then storeNear s a x
  else
    let (p, g, l) := farWhere a
    if 12 ≤ p then s
    else if farState s p = 4 ∨ farState s p = 5 then stageLine (roomForBuffer s p g) p g l ⟨x.dirty, x.data, x.poison⟩
    else setRegBit s (Reg.FME_PORT_STAT p) 7

/-- Write a cached line back and keep it clean. -/
def cleanLine (s : State) (ln : Nat) (x : ScLine) : State :=
  let s := writeBack s ln x
  { s with sc := { s.sc with lines := put s.sc.lines ln { x with dirty := 0 } } }

/-- Take a line out of the SC without writing it back. -/
def dropLine (s : State) (ln : Nat) : State := { s with sc := { s.sc with lines := del s.sc.lines ln } }

/-- Change the replacement tree of a line's set. -/
def markTree (s : State) (ln way : Nat) (victim : Bool) : State :=
  let k := setKey s ln
  { s with sc := { s.sc with plru := put s.sc.plru k (treeMark (lookD s.sc.plru k 0) way victim) } }

/-- Make room for a line in its set (R279 to R281): the lowest cacheable way that is free, or the victim's, written back. -/
def freeWay (s : State) (ln : Nat) : Nat × State :=
  let k := setKey s ln
  let here := s.sc.lines.filter (fun (i, _) => decide (setKey s i = k))
  let h := holdNow s
  match ((List.range 16).drop h).find? (fun w => !here.any (fun (_, x) => decide (x.way = w))) with
  | some w => (w, s)
  | none =>
    let w := treeVictim (lookD s.sc.plru k 0) h
    match here.find? (fun (_, x) => decide (x.way = w)) with
    | some (i, x) => (w, dropLine (writeBack s i x) i)
    | none => (w, s)

/-- The slice of a line allocates: the write direction of its channel is not lost (R291). -/
def sliceAllocates (s : State) (ln : Nat) : Bool :=
  match physSlice s (lineSlice s ln) with
  | some i => decide (regFld s (Reg.RLZ_SC_VC i) 2 2 ≠ 3)
  | none => true

/-- The line is present, if its slice allocates; it is allocated without reading memory when it is not (R280, R281). A streaming access to a line that is
there leaves the replacement order alone: of reads R281 says so, of writes it is a DESIGN CHOICE, log 73. -/
def ensureLine (s : State) (ln : Nat) (streaming : Bool) : State :=
  match look s.sc.lines ln with
  | some x => if streaming then s else markTree s ln x.way false
  | none =>
    if !sliceAllocates s ln then s
    else
      let (w, s) := freeWay s ln
      let s := { s with sc := { s.sc with lines := put s.sc.lines ln { way := w } } }
      markTree s ln w streaming

/-- Write bytes into a cached line (R280, R321): they are valid and dirty. Where the slice does not allocate they go to memory
(DESIGN CHOICE, log 73). -/
def scWrite (s : State) (ln lo : Nat) (bs : List Byte) (poison streaming : Bool) : State :=
  let s := ensureLine s ln streaming
  match look s.sc.lines ln with
  | none =>
    let m := byteMask lo bs.length
    writeBack s ln { way := 0, valid := m, dirty := m, data := putBytes 0 lo bs, poison := poison }
  | some x =>
    let m := byteMask lo bs.length
    let full := decide (bs.length = 128)
    let x := { x with valid := x.valid ||| m, dirty := x.dirty ||| m, data := putBytes x.data lo bs, poison := poison || (x.poison && !full) }
    { s with sc := { s.sc with lines := put s.sc.lines ln x } }

/-- Write bytes within one unit of poison. -/
def writeUnit (s : State) (u lo : Nat) (bs : List Byte) (poison streaming : Bool) : State :=
  if holdBase ≤ u then
    let s := { s with mem := setMemBytes s.mem (u + lo) bs }
    if poison then setPoison s u true
    else if bs.length = poisonUnit u then setPoison s u false
    else s
  else scWrite s (u / 128) lo bs poison streaming

/-- Write bytes at an address, unit by unit (R277). -/
def writeBytesHint (s : State) (a : Nat) (bs : List Byte) (poison streaming : Bool) : State :=
  (unitsOf a bs.length).foldl (fun s (u, lo, k) => writeUnit s u lo ((bs.drop (u + lo - a)).take k) poison streaming) s

/-- Write bytes at an address. DESIGN CHOICE, log 10. -/
def writeBytes (s : State) (a : Nat) (bs : List Byte) (poison : Bool) : State := writeBytesHint s a bs poison false

/-- Note that an item has used the range of a far port (R347). -/
def noteFar (s : State) (k : ItemKey) (a : Nat) : State :=
  if farBase ≤ a ∧ a < farBase + 12 * farSize then
    let x := (k, (a - farBase) / farSize)
    if s.far.users.contains x then s else { s with far := { s.far with users := s.far.users ++ [x] } }
  else s

end Sys2Proof.Machine
end

