-- ==== Sys2Proof/Machine/Far.lean ====
section
/-! DEFINITION. The far-memory engine: failures of a port, persists, mount (R341 to R350). -/

namespace Sys2Proof.Machine

/-- Items that have used a port's range fail (R347, R379). -/
def failUsers (s : State) (p : Nat) : State :=
  (s.far.users.filter (fun x => decide (x.2 = p))).foldl (fun s x => failItem s x.1 0x08 p) s

/-- The port holds writes that are not persisted. -/
def unpersisted (f : FarPort) : Bool := !f.staging.isEmpty

/-- A port stops serving (R341, R347): its staging buffers are discarded, persists no longer wait for it, and the items that used
it fail. -/
def stopPort (s : State) (p st width : Nat) : State :=
  let f := farPort s p
  let served := portServes s p
  let s := if served && unpersisted f then setRegBit s (Reg.FME_PORT_STAT p) 7 else s
  let s := setRegFld (setRegFld s (Reg.FME_PORT_STAT p) 0 3 st) (Reg.FME_PORT_STAT p) 4 3 width
  let s := setFarPort s p { width := width, sinceLevel := f.sinceLevel }
  let s := { s with far := { s.far with persists := s.far.persists.map (fun r => { r with covers := r.covers.filter (fun c => decide (c.1.1 ≠ p)) }) } }
  recomputeTint (if served then failUsers s p else s) 3

/-- A COMMIT_GRANULE completes, or reports a program failure (R336, R341). -/
def granuleDone (s : State) (p g : Nat) (ok : Bool) : State :=
  let f := farPort s p
  match look f.commits g with
  | none => s
  | some c =>
    if c.committed then s
    else if ok then granuleOk s p g
    else
      let s := appendJournal (setPhys s p c.target (fun r => { r with state := 3 })) p 4 g c.target
      if 3 ≤ c.fails + 1 then stopPort s p 6 (regFld s (Reg.FME_PORT_STAT p) 4 3)
      else match leastWorn (farPort s p).tables with
        | none => stopPort s p 6 (regFld s (Reg.FME_PORT_STAT p) 4 3)
        | some x =>
          let s := checkPool (setPhys s p x (fun r => { r with state := 1 })) p
          let f := farPort s p
          setFarPort s p { f with commits := put f.commits g { c with target := x, fails := c.fails + 1 } }

/-- What a persist requested now waits for (R345): the journal records of every staged granule. -/
def persistCovers (s : State) : List ((Nat × Nat) × Nat) :=
  ((List.range 12).map (fun p =>
    let f := farPort s p
    if portServes s p then f.staging.map (fun (g, b) =>
      ((p, g), if (look f.commits g).isSome && !b.since.isEmpty then 2 else 1))
    else [])).flatten

/-- Write back the dirty far-tier lines of the SC (R345). -/
def flushFar (s : State) : State := s.sc.lines.foldl (fun s (l, x) => if farBase ≤ l * 128 then cleanLine s l x else s) s

/-- Start a persist with the next sequence number (R345). -/
def startPersist (s : State) : State :=
  let s := flushFar s
  let n := regFld s Reg.FME_PERSIST_STAT 0 16 + 1
  let s := setRegFld s Reg.FME_PERSIST_STAT 0 16 n
  let s := setRegFld s Reg.FME_STATUS 0 1 1
  { s with far := { s.far with persists := s.far.persists ++ [⟨BitVec.ofNat 16 n, persistCovers s, false⟩] } }

/-- The oldest persist ends once nothing that it waits for is left (R345, R351): DONE_SEQ advances and the cause is raised. -/
def endPersist (s : State) : State :=
  match s.far.persists with
  | [] => s
  | r :: t =>
    if !r.covers.isEmpty then s
    else
      let s := { s with far := { s.far with persists := t } }
      let s := setRegFld s Reg.FME_PERSIST_STAT 16 16 r.seq.toNat
      let s := setRegFld s Reg.FME_STATUS 0 1 (b2n (!t.isEmpty))
      let s := if r.isPartial then setRegBit s Reg.FME_STATUS 1 else s
      withCause 6 (fun s => setRegBit s Reg.GLB_CAUSE 6) s

/-- A persist run to its end (R346): everything staged is committed and journalled, and the persists complete in order. -/
def syncFar (s : State) : State :=
  let s := startPersist s
  let s := (List.range 12).foldl (fun s p => (farPort s p).staging.foldl (fun s (g, _) => settleGranule s p g) s) s
  s.far.persists.foldl (fun s _ => endPersist s) s

/-- One journal record replayed (R347, R350): granules that it maps take the checkpoint's hour. -/
def replay (t : FarTables) (r : JournalRec) : FarTables :=
  let free (ps : Tbl PhysRec) (x : Nat) : Tbl PhysRec := match look ps x with
    | some q => if q.state = 1 then put ps x { q with state := 0 } else ps
    | none => ps
  let old := look t.fwd r.logical
  let freed := match old with
    | some x => free t.phys x
    | none => t.phys
  match r.typ with
  | 1 =>
    let q := lookD freed r.phys {}
    { t with fwd := put t.fwd r.logical r.phys, phys := put freed r.phys ⟨q.wear + 1, 1, t.hours % 2048⟩ }
  | 2 => { t with fwd := del t.fwd r.logical, phys := freed }
  | 3 => { t with phys := put t.phys r.phys { lookD t.phys r.phys {} with state := 2 } }
  | _ => { t with phys := put t.phys r.phys { lookD t.phys r.phys {} with state := 3 } }

/-- MOUNT_AGE_H is added to every mapped granule's age (R339), which stops at 2,047. -/
def ageTables (t : FarTables) (hours add : Nat) : FarTables :=
  let aged (r : PhysRec) : PhysRec :=
    let age := min 2047 ((hours + 2048 - r.stamp) % 2048 + add)
    if r.state = 1 then { r with stamp := (hours + 2048 - age) % 2048 } else r
  { t with hours := hours, phys := t.phys.map (fun (x, r) => (x, aged r)) }

/-- The tables that a mount builds from a module's metadata (R347): the checkpoint, the journal after it, the ages of R339. -/
def mountTables (s : State) (m : Fm576) : FarTables :=
  let t := (m.journal.filter (fun r => decide (m.ckptSeq < r.seq))).foldl replay m.ckpt
  ageTables t (m.hours % 2048) (regFld s Reg.FME_CFG2 8 11)

/-- The highest sequence number of a module's metadata. -/
def lastSeq (m : Fm576) : Nat := max m.ckptSeq (maxNat (m.journal.map (·.seq)))

/-- The logical granules whose age a mount carries to REFRESH_H or past it (R339): they are refreshed first. -/
def agedGranules (s : State) (t : FarTables) : List Nat :=
  (t.fwd.filter (fun (_, x) => decide (regFld s Reg.FME_CFG 0 11 ≤ granuleAge t x))).map (·.1)

/-- Mount a port whose link is up at a width (R347, R348): its header decides the state. -/
def mountPort (s : State) (p width : Nat) : State :=
  let m := farModule s p
  let st := match m.header with
    | .absent => 1
    | .foreign => 2
    | .valid => if m.readonly then 5 else 4
  let s := setRegFld (setRegFld s (Reg.FME_PORT_STAT p) 0 3 st) (Reg.FME_PORT_STAT p) 4 3 width
  let n := (farPort s p).sinceLevel
  let t := mountTables s m
  let s := setFarPort s p (if 4 ≤ st then { tables := t, first := agedGranules s t, seq := lastSeq m, width := width, sinceLevel := n }
    else { width := width, sinceLevel := n })
  recomputeTint (if 4 ≤ st then levelWear (checkPool s p) p else s) 3

/-- A port is trained and mounted as what it finds allows (R330, R347, R348). -/
def trainPort (s : State) (p : Nat) (x : FarFound) : State :=
  let w := x.width.toNat
  if !x.ready || !x.rate64 || !(w = 1 || w = 2 || w = 4) then stopPort s p 0 0
  else if !x.mediaOk then stopPort s p 6 w
  else mountPort s p w

/-- Take a port's lines out of the SC. -/
def dropFarLines (s : State) (p : Nat) : State :=
  { s with sc := { s.sc with lines := s.sc.lines.filter (fun (l, _) => !(decide (farBase + p * farSize ≤ l * 128) && decide (l * 128 < farBase + (p + 1) * farSize))) } }

end Sys2Proof.Machine
end

