-- ==== Sys2Proof/Machine/Cache.lean ====
section
/-! DEFINITION. Requests at the SC slices, miss entries, flushes and the hold window (R280 to R286, R300, R301, R306 to R312). -/

namespace Sys2Proof.Machine

/-- Physical slice of a line (R278). -/
def sliceOf (s : State) (l : Nat) : Nat := (physSlice s (lineSlice s l)).getD 0

/-- Key of a direction of a vertical channel (R288). -/
def dirKey (ch : Nat) (write : Bool) : Nat := 2 * ch + b2n write

/-- The vertical channel that a request at an address crosses (R288): channels 0 to 63 are those of the SC, 64 to 113 those of the
banks. -/
def channelOf (s : State) (a : Nat) : Nat :=
  if pbBase ≤ a then 64 + (physRegion s ((a - pbBase) / pbSize)).getD 0 else sliceOf s (lineNumber a)

/-- The direction that a request takes carries nothing while it replaces a wire (R289). -/
def channelHolds (s : State) (read : Bool) (a : Nat) : Bool :=
  decide (0 < lookD s.vc.replacing (dirKey (channelOf s a) (!read)) 0)

/-- State of a GDDR7 controller (R353). -/
def ctlState (s : State) (c : Nat) : Nat := regFld s (Reg.NEAR_CTL_STAT c) 0 3

/-- The physical controller of a GDDR7 line, and the line's number there (R323). -/
def nearPlace (s : State) (l : Nat) : Nat × Nat :=
  let n := regFld s Reg.NEAR_STATUS 0 4
  let m := l / n
  let h := (m ^^^ (m >>> 7) ^^^ (m >>> 14) ^^^ (m >>> 21)) % n
  let c := (l % n + h) % n
  (((List.range 12).find? (fun i => decide (regFld s (Reg.NEAR_CTL_STAT i) 8 4 = c))).getD 0, m)

/-- A recalibration holds the fetches of its controller (R327). -/
def nearHolds (s : State) (l : Nat) : Bool := decide (128 * l < farBase) && decide (ctlState s (nearPlace s l).1 = 3)

/-- Miss entries in use in the slice of a line. -/
def missCount (s : State) (l : Nat) : Nat :=
  (s.sc.misses.filter (fun (i, _) => decide (lineSlice s i = lineSlice s l))).length

/-- RLZ_SC_OCC shows the miss entries in use and the highest number since HIGH_CLR (R311). -/
def showMisses (s : State) (l : Nat) : State :=
  let off := Reg.RLZ_SC_OCC (sliceOf s l)
  let n := missCount s l
  setRegFld (setRegFld s off 0 8 n) off 8 8 (max n (regFld s off 8 8))

/-- Count a hit (R312). -/
def countHit (s : State) (l : Nat) : State := addCounter s (Reg.RLZ_SC_CNT_HIT (sliceOf s l)) 1

/-- Count a miss (R312). -/
def countMiss (s : State) (l : Nat) : State := addCounter s (Reg.RLZ_SC_CNT_MISS (sliceOf s l)) 1

/-- A request takes or joins the miss entry of its line (R282). -/
def joinMiss (s : State) (l : Nat) (q : ScReq) : State :=
  let m := s.sc.misses
  showMisses (countMiss { s with sc := { s.sc with misses := put m l (lookD m l [] ++ [q]) } } l) l

/-- A miss to this line finds an entry, or room for one (R282). -/
def missRoom (s : State) (l : Nat) : Bool := (look s.sc.misses l).isSome || decide (missCount s l < 128)

/-- A miss held for want of an entry sets FULL_STALL (R311) and counts the cycles that it waits (R282), a matter of time (free, log
12). -/
def holdMiss (s : State) (l : Nat) : State :=
  let (w, s) := freeWord s
  addCounter (setRegBit s (Reg.RLZ_SC_OCC (sliceOf s l)) 16) (Reg.RLZ_SC_CNT_FULL (sliceOf s l)) (w.toNat + 1)

/-- An operation reads: a read or an aload (R300). -/
def ScOp.isRead (o : Sys2Proof.ScOp) : Bool := match o with
  | .read => true
  | .aload => true
  | _ => false

/-- Answer a request with bytes. -/
def answerSc (s : State) (q : ScReq) (bs : List Byte) (p : Bool) : State := emit s (.scData q.master bs p)

/-- Serve a request on a location whose bytes are at hand, in the hold window or in a cached line (R251, R280). -/
def serveSc (s : State) (q : ScReq) : State :=
  let a := q.addr.toNat
  let n := q.len.val
  match q.op with
  | .read => answerSc s q (readBytes s a n) (readPoison s a n)
  | .aload => answerSc s q (readBytes s a n) (readPoison s a n)
  | .write d => writeBytesHint s a ((tab 128 (fun i => lineByte d i)).take n) false q.streaming
  | .atomicAdd v =>
    let old := readBytes s a n
    let new := toBytes n (ofBytes old + v.toNat)
    let p := readPoison s a n
    writeBytesHint (answerSc s q old p) a new p q.streaming

/-- Requests a slice can serve: within one line of GDDR7, of a mounted far port or of the hold window; an atomic on an aligned
word. -/
def scReaches (s : State) (q : ScReq) : Bool :=
  let a := q.addr.toNat
  let n := q.len.val
  let write := !ScOp.isRead q.op
  decide (0 < n) && decide (a % 128 + n ≤ 128) && decide (0 < sliceCount s) && (match q.op with
    | .read => true
    | .write _ => true
    | _ => decide (n = 4) && decide (a % 4 = 0)) && (match placeOf s a with
    | .near => true
    | .hold => true
    | .far p => mayReach s .host write (.far p)
    | _ => false)

/-- The buckets of every resource that a request uses hold its bytes, at least 32 (R300, R301). -/
def scAdmitted (s : State) (q : ScReq) : Bool :=
  (resourcesOf (ScOp.isRead q.op) q.addr.toNat).all (fun r => bucketAdmits s q.master q.tint.toNat r (max 32 q.len.val))

/-- Charge a request (R300). -/
def chargeSc (s : State) (q : ScReq) : State :=
  (resourcesOf (ScOp.isRead q.op) q.addr.toNat).foldl (fun s r => chargeBucket s q.master q.tint.toNat (max 32 q.len.val) r) s

/-- A request misses (R280): a read or an atomic needs bytes of a GDDR7 or far-tier line that are not valid. -/
def scMisses (s : State) (q : ScReq) : Bool :=
  let a := q.addr.toNat
  decide (a < holdBase) && (match q.op with
    | .write _ => false
    | _ => true) && (match look s.sc.lines (a / 128) with
    | some x => decide (byteMask (a % 128) q.len.val &&& ~~~x.valid ≠ 0)
    | none => true)

/-- A request can be issued: its buckets hold its bytes, its channel carries, and a miss finds an entry (R282, R289, R301). -/
def scMay (s : State) (q : ScReq) : Bool :=
  scAdmitted s q && !channelHolds s (ScOp.isRead q.op) q.addr.toNat && (!scMisses s q || missRoom s (q.addr.toNat / 128))

/-- A request is issued to its slice (R280 to R282, R300, R312). -/
def scIssue (s : State) (q : ScReq) : State :=
  let s := chargeSc s q
  let l := q.addr.toNat / 128
  if holdBase ≤ q.addr.toNat then serveSc (countHit s (lineNumber q.addr.toNat)) q
  else match look s.sc.lines l with
    | none => if scMisses s q then joinMiss s l q else serveSc s q
    | some x =>
      let s := countHit s l
      if scMisses s q then joinMiss s l q
      else
        let s := serveSc s q
        if ScOp.isRead q.op && !q.streaming then markTree s l x.way false else s

/-- The turn of a request at its slice (R302): tint 7, then tints under their guarantee for the resource, then the others; within
a class round-robin from the tint served last. -/
def scTurn (s : State) (q : ScReq) : Nat :=
  let t := q.tint.toNat
  let r := if ScOp.isRead q.op then 0 else 1
  let last := lookD s.sc.lastTint (lineSlice s (lineNumber q.addr.toNat)) 7
  (if t = 7 then 0 else if s.tint.under.contains (4 * t + r) then 1 else 2) * 8 + (t + 15 - last) % 8

/-- The request that is served next (R302): of those that can be issued to the slice of the first of them, the one whose turn it is,
within a tint in order of arrival. -/
def scNext (s : State) : Option ScReq :=
  let slice (q : ScReq) : Nat := lineSlice s (lineNumber q.addr.toNat)
  match s.sc.held.find? (scMay s) with
  | none => none
  | some q =>
    some ((s.sc.held.filter (fun x => scMay s x && decide (slice x = slice q))).foldl (fun m x => if scTurn s x < scTurn s m then x else m) q)

/-- Serve the requests held at the ports as far as they can be issued. -/
def serveHeld : Nat → State → State
  | 0, s => s
  | n + 1, s =>
    match scNext s with
    | none => s
    | some q =>
      let sc := s.sc
      let sc := { sc with held := dropFirst (fun x => decide (x = q)) sc.held }
      let sc := { sc with lastTint := put sc.lastTint (lineSlice s (lineNumber q.addr.toNat)) q.tint.toNat }
      serveHeld n (scIssue { s with sc := sc } q)

/-- A media read that returns poison is an uncorrectable error of its port (R443, R444, R469) and moves its granule (R341): the
readable lines are copied, the others written as poisoned, and the old granule is to be retired as defective. -/
def movePoisoned (s : State) (l : Nat) : State :=
  if l * 128 < farBase then s
  else
    let (p, g, k) := farWhere (l * 128)
    let staged := match (look (farPort s p).staging g).bind (fun b => look b.lines k) with
      | some x => decide (x.mask = BitVec.allOnes 128)
      | none => false
    if (mappedLine s p g k).poison && !staged then
      startCommit (uncorrectable s .far p (BitVec.ofNat 32 (512 * g + k))).2 p g true
    else s

/-- A line's bytes come from memory and are merged under the valid ones (R280). -/
def fetchLine (s : State) (l : Nat) (streaming : Bool) : State :=
  let (d, p) := backLine s (l * 128)
  let s := ensureLine (movePoisoned s l) l streaming
  match look s.sc.lines l with
  | none => s
  | some x =>
    let part := decide (x.valid ≠ BitVec.allOnes 128)
    let x := { x with valid := BitVec.allOnes 128, data := mergeLine x.valid x.data d, poison := x.poison || (p && part) }
    { s with sc := { s.sc with lines := put s.sc.lines l x } }

/-- A miss takes or joins the entry of its line (R282, R312). -/
def openMiss (s : State) (l : Nat) : State :=
  showMisses (countMiss { s with sc := { s.sc with misses := put s.sc.misses l (lookD s.sc.misses l []) } } l) l

/-- The fetch of a miss that no other request waits for: a streaming read of a line that is not there does not allocate it
(R281). -/
def fetchMiss (s : State) (l : Nat) (streaming : Bool) : State :=
  let s := match look s.sc.misses l with
    | some [] => showMisses { s with sc := { s.sc with misses := del s.sc.misses l } } l
    | _ => s
  if streaming && (look s.sc.lines l).isNone then movePoisoned s l else fetchLine s l streaming

/-- The line's bytes come from memory and are merged under the valid ones (R280); the requests of its entry are served in the
order they came. A line that only streaming reads asked for is not allocated (R281). -/
def fillMiss (s : State) (l : Nat) : State :=
  match look s.sc.misses l with
  | none => s
  | some qs =>
    let s := showMisses { s with sc := { s.sc with misses := del s.sc.misses l } } l
    let keep := (look s.sc.lines l).isSome || qs.any (fun q => !(q.streaming && ScOp.isRead q.op))
    if !keep then movePoisoned (qs.foldl serveSc s) l
    else qs.foldl serveSc (fetchLine s l (qs.all (fun q => q.streaming)))

/-- Write back every dirty cached line (R283). -/
def flushAll (s : State) : State := s.sc.lines.foldl (fun s (l, x) => cleanLine s l x) s

/-- Write back and invalidate every cached line (R283). -/
def flushInvalidate (s : State) : State :=
  let s := flushAll s
  { s with sc := { s.sc with lines := [] } }

/-- A write of RLZ_FLUSH (R283, R309): FLUSH_BUSY reads 1 until the write-backs are acknowledged. -/
def writeFlush (s : State) (v : Word) : State :=
  let s := if bit v 1 then flushInvalidate s else if bit v 0 then flushAll s else s
  if bit v 0 || bit v 1 then setRegBit s Reg.RLZ_STATUS 16 else s

/-- FLUSH_REQ. DEDUCED, log 14. -/
def execFlushReq (v : Word) (s : State) : Out := .next (whenLive s Reg.RLZ_FLUSH (fun s => writeFlush s (v ||| 1#32)))

/-- FLUSH_INVAL. -/
def execFlushInval (v : Word) (s : State) : Out := .next (whenLive s Reg.RLZ_FLUSH (fun s => writeFlush s (v ||| 2#32)))

/-- FLUSH_DONE: the last write-back is acknowledged. -/
def execFlushDone (s : State) : Out := .next (clrRegBit s Reg.RLZ_STATUS 16)

/-- Size of the hold window in KiB for a number of ways (R284). -/
def holdKib (s : State) (h : Nat) : Nat := sliceCount s * h * 2176

/-- Put a number of hold ways in effect (R285): cached lines in ways that the window takes are written back and leave; lines
beyond a smaller window are discarded, and what a larger one adds reads zero. -/
def applyHold (s : State) (h : Nat) : State :=
  let s := s.sc.lines.foldl (fun s (l, x) => if x.way < h then dropLine (writeBack s l x) l else s) s
  let size := holdKib s h * 1024
  let lost (a : Nat) : Bool := decide (holdBase + size ≤ a) && decide (a < pbBase)
  let s := { s with mem := s.mem.filter (fun x => !lost x.1), poison := s.poison.filter (fun a => !lost a) }
  setRegFld (setRegFld s Reg.RLZ_STATUS 8 4 h) Reg.RLZ_HOLD_SIZE 0 24 (holdKib s h)

/-- A write of RLZ_CFG (R284, R285, R307). -/
def writeHoldWays (s : State) (v : Word) : State :=
  if !s.items.itt.isEmpty then setRegBit s Reg.RLZ_STATUS 18
  else
    let s := storeReg s Reg.RLZ_CFG v
    if regFld s Reg.RLZ_CFG 0 4 = holdNow s then s else setRegBit s Reg.RLZ_STATUS 17

/-- HOLD_WAYS_WRITE. -/
def execHoldWaysWrite (v : Word) (s : State) : Out := .next (whenLive s Reg.RLZ_CFG (fun s => writeHoldWays s v))

/-- HOLD_CHANGE_COMPLETE: the change that runs takes effect. -/
def execHoldChangeComplete (s : State) : Out :=
  .next (if regBit s Reg.RLZ_STATUS 17 then clrRegBit (applyHold s (regFld s Reg.RLZ_CFG 0 4)) Reg.RLZ_STATUS 17 else s)

/-- A write of RLZ_SC_OCC (R311): after HIGH_CLR, HIGH follows OUTST again. -/
def writeScOcc (s : State) (i : Nat) (v : Word) : State :=
  let off := Reg.RLZ_SC_OCC i
  let s := storeReg s off v
  if bit v 17 then setRegFld s off 8 8 (regFld s off 0 8) else s

/-- SC_HIGH_CLR. -/
def execScHighClr (sl : Fin 64) (v : Word) (s : State) : Out :=
  .next (whenLive s (Reg.RLZ_SC_OCC sl) (fun s => writeScOcc s sl (v ||| BitVec.ofNat 32 (2 ^ 17))))

end Sys2Proof.Machine
end

