-- ==== Sys2Proof/Machine/Traffic.lean ====
section
/-! DEFINITION. The requests that the master ports make (R280 to R282, R289, R300, R301, R312): each carries a tint, is charged to
the resources it uses, and is held at its port while a bucket lacks tokens, its slice has no miss entry free, its channel replaces a
wire, or its GDDR7 controller recalibrates. -/

namespace Sys2Proof.Machine

/-- A master port with the tint and the streaming hint of its requests (R281, R300, R301). -/
structure Port where
  master : Nat
  tint : Nat
  streaming : Bool := false
  deriving DecidableEq, Repr

/-- One request: of n bytes at a, within one line of 128 bytes; read: a read or an aload; atomic: an atomic that is no aload (R300). -/
structure LineReq where
  read : Bool
  addr : Nat
  len : Nat
  atomic : Bool := false
  deriving DecidableEq, Repr

/-- The requests of an access to n bytes at a: one for each line that it touches (DESIGN CHOICE, log 73). -/
def reqsOf (read : Bool) (a n : Nat) : List LineReq :=
  if n = 0 then []
  else (List.range ((a + n - 1) / 128 - a / 128 + 1)).map (fun i =>
    let u := (a / 128 + i) * 128
    let lo := max a u
    ⟨read, lo, min (a + n) (u + 128) - lo, false⟩)

/-- The resources of a request at an address (R300); the traffic of the private banks is not regulated (chapter 8, before R300). -/
def portResources (r : LineReq) : List Nat := if pbBase ≤ r.addr then [] else resourcesOf r.read r.addr

/-- The buckets of a request hold its bytes, at least 32 (R300, R301). -/
def portAdmits (s : State) (p : Port) (r : LineReq) : Bool :=
  (portResources r).all (fun x => bucketAdmits s p.master p.tint x (max 32 r.len))

/-- Charge a request (R300). -/
def chargePort (s : State) (p : Port) (r : LineReq) : State :=
  (portResources r).foldl (fun s x => chargeBucket s p.master p.tint (max 32 r.len) x) s

/-- A cached line lacks bytes that a read or an atomic needs (R280). -/
def lineMisses (s : State) (r : LineReq) : Bool :=
  (r.read || r.atomic) && decide (r.addr < holdBase) && (match look s.sc.lines (r.addr / 128) with
    | some x => decide (byteMask (r.addr % 128) r.len &&& ~~~x.valid ≠ 0)
    | none => true)

/-- What a request does at its slice (R280, R281, R312): a hit is counted and orders the set, a miss takes its entry for as long as
the fetch lasts; a write allocates when its bytes are stored. -/
def touchSc (s : State) (p : Port) (r : LineReq) : State :=
  if pbBase ≤ r.addr ∨ sliceCount s = 0 then s
  else if holdBase ≤ r.addr then countHit s (lineNumber r.addr)
  else
    let l := r.addr / 128
    let t := match look s.sc.lines l with
      | some x => if r.read && !p.streaming then markTree (countHit s l) l x.way false else countHit s l
      | none => s
    if lineMisses s r then fetchMiss (openMiss t l) l p.streaming else t

/-- A master held for tokens (R301): its tint's stall count rises, by how much is a matter of time (free, log 12). -/
def stallTint (s : State) (t : Nat) : State :=
  let (w, s) := freeWord s
  addCounter s (Reg.DSP_TINT_CNT_STALL t) (w.toNat + 1)

/-- A master issues one request: whether it was issued. -/
def issueReq (s : State) (p : Port) (r : LineReq) : Bool × State :=
  if !portAdmits s p r then (false, stallTint s p.tint)
  else if channelHolds s r.read r.addr || (lineMisses s r && nearHolds s (r.addr / 128)) then (false, s)
  else if lineMisses s r && !missRoom s (r.addr / 128) then (false, holdMiss s (r.addr / 128))
  else (true, touchSc (chargePort s p r) p r)

/-- A master issues requests in order until one is held: how many were issued. -/
def issueReqs (s : State) (p : Port) : List LineReq → Nat × State
  | [] => (0, s)
  | r :: t =>
    match issueReq s p r with
    | (false, s') => (0, s')
    | (true, s') =>
      let (k, u) := issueReqs s' p t
      (k + 1, u)

/-- A master issues all of its requests, or is held with none of them made: then only what the hold itself counts is left. -/
def issueAll (s : State) (p : Port) (rs : List LineReq) : Bool × State :=
  match rs.find? (fun r => !portAdmits s p r || channelHolds s r.read r.addr || (lineMisses s r && (nearHolds s (r.addr / 128) || !missRoom s (r.addr / 128)))) with
  | some r => (false, (issueReq s p r).2)
  | none =>
    let (k, t) := issueReqs s p rs
    (decide (k = rs.length), if k = rs.length then t else s)

/-- The host stop's port (R300, R316). -/
def hostPort (s : State) : Port := { master := 272, tint := regFld s Reg.DSP_TINT_HOST 0 3 }

/-- What a BAR2 access does once all of its requests are issued (R571 to R573). -/
def endBar2 (s : State) (x : Bar2Req) : State :=
  match x.data with
  | none => emit s (.bar2Data (readBytes s x.addr x.len) (readPoison s x.addr x.len))
  | some (bs, p) => writeBytes s x.addr bs p

/-- Serve the host's BAR2 accesses in order, until one is held at the host stop or a BAR0 write is due (R300, R301, R570). -/
def serveHost : Nat → State → State
  | 0, s => s
  | n + 1, s =>
    match s.sc.host with
    | .bar2 x :: t =>
      let rs := (reqsOf x.data.isNone x.addr x.len).drop x.issued
      let (k, s) := issueReqs s (hostPort s) rs
      if k = rs.length then serveHost n (endBar2 { s with sc := { s.sc with host := t } } x)
      else { s with sc := { s.sc with host := .bar2 { x with issued := x.issued + k } :: t } }
    | _ => s

/-- Serve what waits at the ports: the requests of SC_REQUEST, then the host's accesses. -/
def servePorts (s : State) : State :=
  let s := serveHeld s.sc.held.length s
  serveHost s.sc.host.length s

/-- What the hold of a request counts: the stall of its tint (R301), or FULL_STALL and the wait for a miss entry (R282, R311). -/
def countHold (s : State) (q : ScReq) : State :=
  if !scAdmitted s q then stallTint s q.tint.toNat
  else if channelHolds s (ScOp.isRead q.op) q.addr.toNat then s
  else holdMiss s (q.addr.toNat / 128)

/-- A request finds its line in its slice: in the hold window, or as a cached line. -/
def scPresent (s : State) (q : ScReq) : Bool := decide (holdBase ≤ q.addr.toNat) || (look s.sc.lines (q.addr.toNat / 128)).isSome

/-- What the SC code finds in the line that a request reads from its slice (R443, R444): a corrected error is counted; an uncorrectable
one poisons a hold-window line or a dirty line, and a clean cached line is invalidated, to be fetched again. -/
def checkSc (s : State) (q : ScReq) : ReadCheck → State
  | .clean => s
  | .corrected loc => if scPresent s q then (correctedError s .sc (sliceOf s (lineNumber q.addr.toNat)) loc).2 else s
  | .uncorrectable loc =>
    if !scPresent s q then s
    else
      let l := q.addr.toNat / 128
      let s := (uncorrectable s .sc (sliceOf s (lineNumber q.addr.toNat)) loc).2
      match look s.sc.lines l with
      | some x => if x.dirty = 0 then dropLine s l else { s with sc := { s.sc with lines := put s.sc.lines l { x with poison := true } } }
      | none => setPoison s (128 * l) true

/-- Bytes of a GDDR7 line that a read finds wrong without detecting it are open (R320). -/
def spoilLine (s : State) (a : Nat) (bad : List (Fin 132)) : State :=
  let n := s.fresh
  let hit (i : Nat) : Bool := bad.any (fun b => decide (b.val = i))
  if lineWritten s a then
    let m := (List.range 128).foldl (fun m i => if hit i then setMemByte m (a + i) (Config.freeByte (n + i)) else m) s.mem
    { s with mem := m, fresh := n + 128 }
  else s

/-- The check of a GDDR7 line that a fetch reads (R320, R321, R445), where the bytes bad of its 132 are in error: one is corrected and
counted; two or three are detected, and so are four or more whenever the syndrome reveals them (open). A line with a detected error
reads poisoned until it is wholly rewritten. -/
def checkNear (s : State) (l : Nat) (bad : List (Fin 132)) : State :=
  let (c, m) := nearPlace s l
  let loc := BitVec.ofNat 32 m
  let n := bad.eraseDups.length
  if farBase ≤ 128 * l ∨ n = 0 then s
  else if n = 1 then (correctedError s .nearCe c loc).2
  else
    let (seen, t) := freeBool s
    if n < 4 ∨ seen = true then
      let t := (uncorrectable t .nearUe c loc).2
      if lineWritten t (128 * l) then setPoison t (128 * l) true else t
    else spoilLine t (128 * l) bad

/-- The port of an engine's requests for a block (R187, R245, R300, R301): its master is 192 and its logical number. -/
def enginePort (s : State) (e : Nat) (r : LaunchRec) (streaming : Bool) : Port :=
  { master := 192 + engineNumber s e, tint := fld r 189 3, streaming := streaming }

end Sys2Proof.Machine
end

