-- ==== Sys2Proof/Machine/ArrayBase.lean ====
section
/-! DEFINITION. The arrays' shared operations: descriptor checks, the pass queue, operand reads, accumulation, completion
reports, poison, stop and resume (chapters 3 and 4). -/

namespace Sys2Proof.Machine

/-- CLEAR of a pass (R79). -/
def descClear (d : Desc) : Bool := bit d 15
/-- XSRC of a pass (R79). -/
def descXsrc (d : Desc) : Nat := fld d 16 2
/-- LAST (R79, R131, R135). -/
def descLast (d : Desc) : Bool := bit d 18
/-- TRIG. -/
def descTrig (d : Desc) : Bool := bit d 19
/-- KT as a count. -/
def descKt (d : Desc) : Nat := fld d 40 9 + 1
/-- ANCHOR, a signed field of ten bits. -/
def descAnchor (d : Desc) : BitVec 10 := d.extractLsb' 72 10
/-- ASRC. -/
def descAsrc (d : Desc) : Bool := bit d 82
/-- TAG. -/
def descTag (d : Desc) : Nat := fld d 96 16
/-- XADDR, PADDR or DADDR of words 4 and 5. -/
def descAddr (d : Desc) : Nat := fld d 128 48
/-- XPITCH, PPITCH or DPITCH. -/
def descPitch (d : Desc) : Nat := fld d 192 32
/-- WADDR. -/
def descWaddr (d : Desc) : Nat := fld d 224 48
/-- XSADDR. -/
def descXsaddr (d : Desc) : Nat := fld d 288 48
/-- WSADDR. -/
def descWsaddr (d : Desc) : Nat := fld d 352 48
/-- START. -/
def descStart (d : Desc) : Nat := fld d 480 9
/-- TINT. -/
def descTint (d : Desc) : BitVec 3 := d.extractLsb' 445 3

/-- The mode a pass or preload accumulates in, 1 for ANW (R49, R116, R119, R131). -/
def descAnw (d : Desc) : Bool :=
  if descOp d = 2 then bit d 8
  else decide (descCmode d = 0) && (match descFmt d 4 with
    | some f => decide (f.rateClass ≠ some .eight)
    | none => false)

/-- A pass with CLEAR = 1 or a preload with ADD = 0 claims its columns (R114). -/
def descClaims (d : Desc) : Bool := (decide (descOp d = 1) && descClear d) || (decide (descOp d = 2) && !bit d 11)

/-- Elements of one segment (R66). -/
def Fmt.segElems (f : Fmt) : Nat := if f.narrow then 64 else 32

/-- Bytes of one field of a skewed line (R72). -/
def Fmt.fieldBytes (f : Fmt) : Nat := f.rowBytes f.segElems

/-- Bytes of a skewed line (R72). -/
def Fmt.lineBytes (f : Fmt) : Nat := 4 * f.fieldBytes

/-- The lowest word that a list of checks finds at fault. -/
def firstBad (l : List (Nat × Bool)) : Option Nat :=
  (l.filter (·.2)).foldl (fun m (w, _) => match m with | some x => some (min x w) | none => some w) none

/-- Every row of a tile can be read by array n (R76). -/
def rowsMapped (s : State) (n addr pitch rows len : Nat) : Bool :=
  (List.range rows).all (fun i => mapped s (.arrayRead n) (addr + i * pitch) len)

/-- The entry check of a pass (R80): the lowest word at fault. -/
def checkPass (s : State) (n : Nat) (d : Desc) : Option Nat :=
  let sh := (arr s n).lake
  let spilled := (arr s n).spilled.any (fun x => decide (x.1 = descKey d))
  let trig := descTrig d && decide (descTag d = 0)
  match descFmt d 4, descFmt d 8 with
  | some xf, some wf =>
    let cls := xf.rateClass
    let fmtBad := decide (cls = none) || decide (cls ≠ wf.rateClass)
    let modeBad := decide (6 ≤ descCmode d) || (decide (descCmode d ≠ 0) && !(decide (xf = .int8) && decide (wf = .int8)))
    let narrow := decide (cls = some .narrow)
    let kmax := if narrow then 256 else 128
    let own := match sh with
      | some l => decide (l.tile.key = descKey d)
      | none => spilled
    let word0 := fmtBad || modeBad || decide (descXsrc d = 3) || (decide (descXsrc d = 2) && !own)
      || (decide (descXsrc d = 0) && (match sh with | some l => !l.claimed | none => false))
    let loads := decide (descXsrc d = 0)
    let xBad := loads && (decide (descAddr d % 64 ≠ 0) || !rowsMapped s n (descAddr d) (descPitch d) (descMt d) (xf.rowBytes (descKt d)))
    let wBad := decide (descWaddr d % 64 ≠ 0) || !mapped s (.arrayRead n) (descWaddr d) ((descNcol d + 3) * wf.lineBytes)
    let xsBad := loads && narrow && (decide (descXsaddr d % 64 ≠ 0) || !mapped s (.arrayRead n) (descXsaddr d) (8 * descMt d))
    let wsBad := narrow && (decide (descWsaddr d % 64 ≠ 0) || !mapped s (.arrayRead n) (descWsaddr d) (8 * (descNcol d + 3)))
    let anchorBad := descAnw d && descClear d && descAsrc d && decide (fld d 76 6 ≠ 0)
    firstBad [(0, word0), (1, decide (128 < descMt d) || decide (kmax < descKt d)),
      (2, decide (256 < descEbase d + descNcol d) || anchorBad), (3, trig), (4, xBad),
      (6, loads && decide (descPitch d % 64 ≠ 0)), (7, wBad), (9, xsBad), (11, wsBad), (15, decide (descNcol d ≤ descStart d))]
  | _, _ => some 0

/-- The entry check of a preload (R80, R131). -/
def checkPreload (s : State) (n : Nat) (d : Desc) : Option Nat :=
  match descFmt d 4 with
  | some f =>
    let shape := fld d 9 2
    let reads := decide (shape ≠ 3)
    let addrBad := reads && (decide (descAddr d % 64 ≠ 0) || !(match shape with
      | 0 => rowsMapped s n (descAddr d) (descPitch d) (descMt d) (f.rowBytes (descNcol d))
      | 1 => mapped s (.arrayRead n) (descAddr d) (f.rowBytes (descNcol d))
      | _ => mapped s (.arrayRead n) (descAddr d) (f.rowBytes (descMt d))))
    let anchorBad := bit d 8 && !bit d 11 && descAsrc d && decide (fld d 76 6 ≠ 0)
    firstBad [(0, !f.drainable), (1, decide (128 < descMt d)), (2, decide (256 < descEbase d + descNcol d) || anchorBad),
      (3, descTrig d && decide (descTag d = 0)), (4, addrBad), (6, reads && decide (descPitch d % 64 ≠ 0))]
  | none => some 0

/-- The entry check of a drain (R80, R135). -/
def checkDrain (s : State) (n : Nat) (d : Desc) : Option Nat :=
  match descFmt d 4 with
  | some f =>
    let dest := bit d 12
    let rows := (List.range (descMt d)).all (fun i => mapped s (.arrayDrain n) (descAddr d + i * descPitch d) (f.rowBytes (descNcol d)))
    firstBad [(0, !f.drainable || decide (fld d 8 2 = 3)), (1, decide (128 < descMt d)), (2, decide (256 < descEbase d + descNcol d)),
      (3, descTrig d && decide (descTag d = 0)), (4, dest && (decide (descAddr d % 64 ≠ 0) || !rows)),
      (6, dest && decide (descPitch d % 64 ≠ 0))]
  | none => some 0

/-- The entry check of any descriptor (R80). -/
def checkDesc (s : State) (n : Nat) (d : Desc) : Option Nat :=
  match descOp d with
  | 1 => checkPass s n d
  | 2 => checkPreload s n d
  | 3 => checkDrain s n d
  | _ => some 0

/-- What became of a descriptor given to an array (R80, R83, R154). -/
inductive Issued where
  | queued | full | ringHeld | refused
  deriving DecidableEq, Repr

/-- A pass with XSRC = 0b10 whose lake tile a stop has spilled is taken from the spilled copy (R174). -/
def unspill (a : ArraySt) (d : Desc) : Desc :=
  if descOp d = 1 ∧ descXsrc d = 2 ∧ a.lake = none then
    match a.spilled.find? (fun x => decide (x.1 = descKey d)) with
    | some (_, xa, xs, pitch) =>
      setFld (setFld (setFld (setFld d 16 2 0) 128 48 xa.toNat) 288 48 xs.toNat) 192 32 pitch
    | none => d
  else d

/-- Columns that two descriptors both name. -/
def sharedCols (d e : Desc) : Bool :=
  decide (descEbase d < descEbase e + descNcol e) && decide (descEbase e < descEbase d + descNcol d)

/-- Every column that a descriptor names satisfies p. -/
def allCols (a : ArraySt) (d : Desc) (p : ColRec → Bool) : Bool :=
  (List.range (descNcol d)).all (fun j => p (lookD a.cols (descEbase d + j) {}))

/-- The ownership check of R114: the descriptor may use its columns. -/
def ownsColumns (a : ArraySt) (d : Desc) : Bool :=
  let k := descKey d
  if descClaims d then allCols a d (fun c => !c.owned || c.ownedBy k)
  else allCols a d (fun c => c.ownedBy k && (decide (descOp d = 3) || decide (c.anw = descAnw d)))

/-- The check of R615 for a pass that keeps the active tile. -/
def keepsActive (a : ArraySt) (d : Desc) : Bool :=
  match a.active with
  | some t => decide (t.key = descKey d) && decide (t.fmt.toNat = fld d 4 4) && decide (descMt d ≤ t.mt) && decide (descKt d ≤ t.kt)
  | none => false

/-- The checks that a descriptor meets when it reaches the head of the queue: ownership (R114), the active tile that it keeps
(R615), and for a drain that it names no column of a stopped pass (R140). -/
def headOk (a : ArraySt) (d : Desc) : Bool :=
  ownsColumns a d && (decide (descOp d ≠ 1) || decide (descXsrc d ≠ 1) || keepsActive a d)
    && !(decide (descOp d = 3) && a.saved.any (fun x => sharedCols d x.entry.desc))

/-- A descriptor is refused at the queue head (R114, R140, R615): it leaves the queue and its item fails with source 2. -/
def refuseHead (s : State) (n : Nat) (e : QEntry) : State :=
  let a := arr s n
  let s := setArr s n { a with queue := a.queue.filter (fun x => x.id != e.id) }
  let s := if descToRing e.desc then
      let r := ring s (n / 4) (n % 4)
      setRing s (n / 4) (n % 4) (unreserve r e.desc 0)
    else s
  descFail s (descKey e.desc) 2 (descSeq e.desc)

/-- A descriptor that has reached the head is checked there, once; one that is refused gives way to the next (R114, R140, R615).
Fuel bounds the refusals. -/
def settleHead (s : State) (n : Nat) : Nat → State
  | 0 => s
  | fuel + 1 =>
    let a := arr s n
    match a.queue with
    | [] => s
    | e :: q =>
      if a.streaming || e.checked then s
      else if headOk a e.desc then setArr s n { a with queue := { e with checked := true } :: q }
      else settleHead (refuseHead s n e) n fuel

/-- The descriptor at the head is settled; the queue holds at most 16, and with a resumed pass that takes a freed place 17. -/
def settle (s : State) (n : Nat) : State := settleHead s n 17

/-- TA_QSTAT.HIGH follows the occupancy (R105). -/
def noteHigh (s : State) (n : Nat) : State :=
  let occ := (arr s n).queue.length
  if regFld s (Reg.TA_QSTAT n) 8 5 < occ then setRegFld s (Reg.TA_QSTAT n) 8 5 occ else s

/-- Put a descriptor at the end of a pass queue; at the head of an empty one it is checked there. -/
def enqueue (s : State) (n : Nat) (d : Desc) (who : Issuer) : State :=
  let a := arr s n
  let lake := if descOp d = 1 ∧ descXsrc d = 2 then a.lake.map (fun l => { l with claimed := true }) else a.lake
  let e : QEntry := { id := a.nextId, desc := unspill a d, issuer := who }
  settle (noteHigh (setArr s n { a with queue := a.queue ++ [e], nextId := a.nextId + 1, lake := lake }) n) n

/-- TA_QSTAT.FULL_STALL (R83, R105). -/
def fullStall (s : State) (n : Nat) : State := setRegBit s (Reg.TA_QSTAT n) 16

/-- Where a resumed pass enters the queue, of which the spec says only that it is issued again: at the head, behind a pass that
streams (DESIGN CHOICE, log 20). -/
def putFirst (a : ArraySt) (e : QEntry) : List QEntry :=
  match a.queue with
  | h :: t => if a.streaming then h :: e :: t else e :: h :: t
  | [] => [e]

/-- A resumed pass takes its place once the queue has one free (R81, R83). -/
def admitResumed (s : State) (n : Nat) : State :=
  let a := arr s n
  match a.resumeHeld with
  | some e => if a.queue.length < 16 then noteHigh (setArr s n { a with resumeHeld := none, queue := putFirst a e }) n else s
  | none => s

/-- The saved pass that a descriptor issues again: it is the same in every bit but XSRC (R96). -/
def savedOf (a : ArraySt) (d : Desc) : Option SavedPass :=
  a.saved.find? (fun x => decide (setFld x.entry.desc 16 2 0 = setFld d 16 2 0))

/-- A stopped pass is issued again (R96, R98): with XSRC = 0b01 when the tile that was active when it stopped still is, with 0b00
otherwise, and under the checks of R80. The array goes on; the issuer is held while the queue is full (R83). -/
def reissue (s : State) (n : Nat) (x : SavedPass) : State :=
  let a := arr s n
  let keep := a.active.isSome && decide (a.tileNo = x.tile)
  let e := { x.entry with desc := setFld x.entry.desc 16 2 (if keep then 1 else 0), resumed := true, checked := false }
  let a := { a with saved := a.saved.filter (fun y => y.entry.id != x.entry.id), halted := false, resumePending := false }
  let s := setArr s n a
  match checkDesc s n e.desc with
  | some w => descFail s (descKey e.desc) 1 w
  | none =>
    if 16 ≤ a.queue.length then fullStall (setArr s n { a with resumeHeld := some e }) n
    else settle (noteHigh (setArr s n { a with queue := putFirst a e }) n) n

/-- An issuer gives a descriptor to an array (R80, R83, R96, R154, R171): refused with a failure of its item, held by a full queue
or for ring room, entered, or taken as a saved pass that is issued again. -/
def issueDesc (s : State) (n : Nat) (d : Desc) (who : Issuer) : Issued × State :=
  let a := arr s n
  if a.fenced then (.refused, descFail s (descKey d) 1 0)
  else match savedOf a d with
    | some x => if a.resumeHeld.isSome then (.full, fullStall s n) else (.queued, reissue s n x)
    | none =>
      if 16 ≤ a.queue.length then (.full, fullStall s n)
      else match checkDesc s n (unspill a d) with
        | some w => (.refused, descFail s (descKey d) 1 w)
        | none =>
          if descToRing d then
            let e := n / 4
            let k := n % 4
            let r := ring s e k
            if ringSlots s e k < descNcol d then (.refused, descFail s (descKey d) 3 (descSeq d))
            else if ringFree s e k < descNcol d ∨ 16 ≤ r.fifo.length + r.fifoRes then
              (.ringHeld, setRegBit s (Reg.TE_DRING_STAT e k) 25)
            else (.queued, enqueue (setRing s e k { r with reserved := r.reserved + descNcol d, fifoRes := r.fifoRes + 1 }) n d who)
          else (.queued, enqueue s n d who)

/-- The stationary elements of row i as exact values (R44, R65). -/
def Tile.row (t : Tile) (f : Fmt) (i kt : Nat) : List Val :=
  let r := t.codes.getD i []
  let sc := t.scales.getD i []
  tab kt (fun k => scaledVal f (r.getD k 0).toNat (sc.getD (k / 32) 0))

/-- Element k of column j of the streamed operand, from the skewed lines (R71 to R74): its code and its scale. -/
def wElem (s : State) (d : Desc) (f : Fmt) (j k : Nat) : Nat × Byte :=
  let g := k / f.segElems
  let m := k % f.segElems
  let field := readBytes s (descWaddr d + (j + g) * f.lineBytes + g * f.fieldBytes) f.fieldBytes
  let sc := if f.narrow then (readBytes s (descWsaddr d + 8 * (j + g) + 2 * g + m / 32) 1).getD 0 0 else 0
  (f.element field m, sc)

/-- Column j of a pass reads poisoned data (R97): of the skewed lines those fields that hold the column below KT, and their scales.
A poisoned byte beyond KT in such a field faults the pass too, one of a padding field does not: R73 has padding ignored (DESIGN
CHOICE, log 74). -/
def wPoisoned (s : State) (d : Desc) (f : Fmt) (j : Nat) : Bool :=
  (List.range 4).any (fun g => decide (g * f.segElems < descKt d) &&
    (readPoison s (descWaddr d + (j + g) * f.lineBytes + g * f.fieldBytes) f.fieldBytes
      || (f.narrow && readPoison s (descWsaddr d + 8 * (j + g) + 2 * g) 2)))

/-- The port of an array's requests for a descriptor (R79, R300, R301): its master is its logical number. -/
def arrayPort (s : State) (n : Nat) (d : Desc) : Port := { master := (logicalArray s n).getD 255, tint := (descTint d).toNat }

/-- The requests of the feeder for columns j0 to j1 − 1: skewed lines j0 to j1 + 2 and their scales (R71, R74, R85). -/
def feedReqs (d : Desc) (f : Fmt) (j0 j1 : Nat) : List LineReq :=
  (((List.range (j1 + 3)).drop j0).map (fun c =>
    reqsOf true (descWaddr d + c * f.lineBytes) f.lineBytes ++ (if f.narrow then reqsOf true (descWsaddr d + 8 * c) 8 else []))).flatten

/-- The feeder issues the requests that columns up to j1 − 1 of the streaming pass still need (R78, R301): whether all are issued. -/
def feedTo (s : State) (n : Nat) (d : Desc) (j1 : Nat) : Bool × State :=
  match descFmt d 8 with
  | none => (true, s)
  | some f =>
    let rs := (feedReqs d f (descStart d) j1).drop (arr s n).fed
    let (k, t) := issueReqs s (arrayPort s n d) rs
    (decide (k = rs.length), setArr t n { arr t n with fed := (arr t n).fed + k })

/-- The load port issues requests, from where it stood (R78, R134, R301): whether all are issued. -/
def loadThrough (s : State) (n : Nat) (d : Desc) (all : List LineReq) : Bool × State :=
  let rs := all.drop (arr s n).loaded
  let (k, t) := issueReqs s (arrayPort s n d) rs
  (decide (k = rs.length), setArr t n { arr t n with loaded := (arr t n).loaded + k })

/-- One column of a pass enters its entries (R69, R79, R87). -/
def accumulateColumn (s : State) (d : Desc) (t : Tile) (xf wf : Fmt) (a : ArraySt) (j : Nat) : ArraySt :=
  let kt := descKt d
  let e := descEbase d + j
  let c := lookD a.cols e {}
  let ws := tab kt (fun k => wElem s d wf j k)
  let wv := ws.map (fun (x, sc) => scaledVal wf x sc)
  let wi := ws.map (fun (x, _) => sext 8 x)
  let rows := (List.range (descMt d)).foldl (fun en i =>
    let xv := t.row xf i kt
    let xi := tab kt (fun k => sext 8 ((t.codes.getD i []).getD k 0).toNat)
    put en (256 * i + e) (combineRow (descCmode d) c (xv.zip wv) (xi.zip wi) (lookD en (256 * i + e) {}))) a.entries
  { a with entries := rows, cols := put a.cols e { c with prod := true } }

/-- Columns j0 to j1 − 1 of the streaming pass enter the accumulators. -/
def accumulate (s : State) (n : Nat) (d : Desc) (j0 j1 : Nat) : State :=
  match (arr s n).active, descFmt d 4, descFmt d 8 with
  | some t, some xf, some wf =>
    setArr s n (((List.range j1).drop j0).foldl (fun a j => accumulateColumn s d t xf wf a j) (arr s n))
  | _, _, _ => s

/-- Every entry that the columns touch passes the check of stage 10 (R129). -/
def entriesSound (a : ArraySt) (d : Desc) (j0 j1 : Nat) : Bool :=
  ((List.range j1).drop j0).all (fun j => (List.range (descMt d)).all (fun i =>
    (lookD a.entries (256 * i + (descEbase d + j)) {}).sound))

/-- One ramp-up cycle (R91): the credit after it and whether it issues. -/
def rampStep (l c e : Nat) : Nat × Bool :=
  let e := e + (8 * c / l + 1)
  if 8 ≤ e then (e - 8, true) else (e, false)

/-- Run the ramp until k columns have issued or the ramp is over (R90, R91): cycle, credit, idle slots; fuel bounds it. -/
def rampRun (l : Nat) : Nat → Nat → Nat → Nat → Nat → Nat × Nat × Nat
  | 0, c, e, _, lost => (c, e, lost)
  | fuel + 1, c, e, k, lost =>
    if k = 0 ∨ l ≤ c then (c, e, lost)
    else
      let (e', go) := rampStep l c e
      if go then rampRun l fuel (c + 1) e' (k - 1) lost else rampRun l fuel (c + 1) e' k (lost + 1)

/-- Run the pause pattern of R91 taken in sixteenths until k columns have issued (R478, R511): at level w each slot adds w to the
credit and is removed where it reaches 16. The credit, and the slots removed; fuel bounds it. -/
def pauseRun (w : Nat) : Nat → Nat → Nat → Nat → Nat × Nat
  | 0, c, _, gone => (c, gone)
  | fuel + 1, c, k, gone =>
    if k = 0 then (c, gone)
    else if 16 ≤ c + w then pauseRun w fuel (c + w - 16) k (gone + 1)
    else pauseRun w fuel (c + w) (k - 1) gone

/-- Count on an array counter unless TA_CTRL.CNT_FREEZE holds it (R103, R108). -/
def countArray (s : State) (n off k : Nat) : State := if regBit s (Reg.TA_CTRL n) 2 then s else addCounter s off k

/-- k columns issue: the busy, pause and ramp counters and the ramp state follow (R90, R91, R108, R511). The pause pattern runs over
the slots that the ramp leaves (DESIGN CHOICE, log 74). -/
def issueColumns (s : State) (n : Nat) (d : Desc) (k : Nat) : State :=
  let s := countArray s n (Reg.TA_CNT_BUSY n) (k * slotLen d)
  let a := arr s n
  let (pc, gone) := if a.pause = 0 then (a.pauseCredit, 0) else pauseRun a.pause (16 * k + 16) a.pauseCredit k 0
  let s := countArray (setArr s n { a with pauseCredit := pc }) n (Reg.TA_CNT_PAUSE n) (gone * slotLen d)
  match a.ramp with
  | .up l c e =>
    let (c', e', lost) := rampRun l l c e k 0
    let s := countArray s n (Reg.TA_CNT_RAMP n) (lost * slotLen d)
    setArr s n { arr s n with ramp := if l ≤ c' then .none else .up l c' e' }
  | _ => s

/-- The pause level that an array of region p must apply (R478, R487, R511): the largest of the three. -/
def pauseWanted (s : State) (p : Nat) : Nat :=
  max (regFld s (Reg.THM_REGION p) 0 4) (max (regFld s (Reg.PWR_REGION p) 16 4) s.power.ratingPause)

/-- An array asks for pause insertion (R35, R497, R511, R517): the floor, where it holds the idle slots, refuses it, which is seen in
TA_STATUS, THM_CAUSE and the event log; it asks again at its next pass boundary. At level 0 it holds them no longer. -/
def takePause (s : State) (n : Nat) : State :=
  let w := pauseWanted s (n / 4)
  let a := arr s n
  if w = 0 then setArr s n { a with pause := 0, idleHold := if a.idleHold = .pause then .none else a.idleHold }
  else if a.idleHold = .floor then
    logConflict (raiseThm (setRegBit s (Reg.TA_STATUS n) 5) 6) .idleSlots n .rampFloor .pauseInsertion
  else setArr s n { a with pause := w, idleHold := .pause }

/-- The pause level of region p was w and may have changed (R497, R511): an idle array asks as the feature starts and lets go as it
ends; any other follows at its next pass boundary. -/
def pauseMoved (s : State) (p w : Nat) : State :=
  if decide (pauseWanted s p = 0) = decide (w = 0) then s
  else (List.range 4).foldl (fun s i =>
    let a := arr s (4 * p + i)
    if a.streaming || a.fenced || !regBit s (Reg.TA_ID (4 * p + i)) 16 then s else takePause s (4 * p + i)) s

/-- A change of what makes region p's pause level (R478, R511). -/
def movePause (s : State) (p : Nat) (f : State → State) : State := pauseMoved (f s) p (pauseWanted s p)

/-- A ramp-down of an array ends before its time (R93): it has filled some of its slots, how many is a matter of time (free, log
12). -/
def cutRamp (s : State) (n : Nat) : State :=
  match (arr s n).ramp with
  | .down l len =>
    let (w, s) := freeWord s
    countArray (setArr s n { arr s n with ramp := .none }) n (Reg.TA_CNT_RAMP n) (w.toNat % (7 * l / 16 + 1) * len)
  | _ => s

/-- The array falls idle behind a pass: ramp-down starts (R90, R92), and the pass boundary takes the pause level (R511). -/
def rampDown (s : State) (n : Nat) (d : Desc) : State :=
  let a := arr s n
  if a.streaming then s else takePause (setArr s n { a with ramp := .down (rampLen s n) (slotLen d) }) n

/-- The logical number of an array that a RESULT reports (R379). -/
def arrayDetail (s : State) (n : Nat) : Nat := regFld s (Reg.TA_ID n) 8 8

/-- Poison every column of an item and lot on an array (R129), with TA_STATUS.POISONED (R104). -/
def poisonItem (s : State) (n : Nat) (k : ItemKey) : State :=
  let a := arr s n
  let cols := a.cols.map (fun (i, c) => (i, if c.ownedBy k then { c with poison := true } else c))
  setRegBit (setArr s n { a with cols := cols }) (Reg.TA_STATUS n) 3

/-- A fault of the work of an item on an array (R92, R97, R129, R134): its columns are poisoned, no cursor is saved, its passes
here are discarded, and the item fails with the poisoned-tile code. -/
def passFault (s : State) (n : Nat) (k : ItemKey) : State :=
  let s := poisonItem s n k
  let a := arr s n
  let mine (e : QEntry) : Bool := decide (descKey e.desc = k)
  let head := match a.queue with
    | e :: _ => a.streaming && mine e
    | [] => false
  let len := match a.queue with
    | e :: _ => slotLen e.desc
    | [] => 1
  let a := { a with queue := a.queue.filter (fun e => !(mine e && decide (descOp e.desc = 1))) }
  let a := { a with inflight := a.inflight.filter (fun e => !mine e), saved := a.saved.filter (fun x => !mine x.entry) }
  let a := if head then { a with streaming := false, stopCol := none, ramp := .down (rampLen s n) len } else a
  settle (failItem (setArr s n a) k 2 (arrayDetail s n)) n

/-- The first of columns j0 to j1 − 1 that a fault meets (R97, R129): poisoned data, or an entry that fails the check of stage 10. -/
def faultColumn (s : State) (a : ArraySt) (d : Desc) (wf : Fmt) (j0 j1 : Nat) : Option Nat :=
  ((List.range j1).drop j0).find? (fun j => wPoisoned s d wf j || !entriesSound a d j (j + 1))

/-- Columns up to j1 − 1 of the streaming pass issue and enter the accumulators; poison or a bad entry faults the pass once the
columns up to it have issued. -/
def runColumns (s : State) (n : Nat) (d : Desc) (j1 : Nat) : State :=
  let j0 := descStart d
  let a := arr s n
  match a.active, descFmt d 8 with
  | some t, some wf =>
    if t.bad then passFault (issueColumns s n d 1) n (descKey d)
    else match faultColumn s a d wf j0 j1 with
      | some j => passFault (accumulate (issueColumns s n d (j + 1 - j0)) n d j0 j) n (descKey d)
      | none => accumulate (issueColumns s n d (j1 - j0)) n d j0 j1
  | _, _ => s

/-- A completed descriptor with LAST = 1 is reported to its issuer: a group's completion count rises, up to 65,535 (R84, R256). -/
def reportDone (s : State) (n : Nat) (e : QEntry) (flags : BitVec 16) : State :=
  match e.issuer with
  | .dispatcher => s
  | .group sl born =>
    if descLast e.desc then
      match grp s (n / 4) sl with
      | some g =>
        let f (l : List (BitVec 16)) := if l.length < 65535 then l ++ [flags] else l
        if g.age = born ∧ launchKey g.launch = descKey e.desc then setGrp s (n / 4) sl { g with done := modAt g.done (n % 4) f } else s
      | none => s
    else s

/-- The streaming pass issues its last column and leaves the queue, where every line that it needs has been read (R81, R86, R301):
whether it has. The next descriptor is at the head and is checked there. -/
def retire (s : State) (n : Nat) : Bool × State :=
  let a := arr s n
  match a.queue with
  | e :: _ =>
    if a.streaming then
      match feedTo s n e.desc (descNcol e.desc) with
      | (false, t) => (false, t)
      | (true, t) =>
        let t := runColumns t n e.desc (descNcol e.desc)
        let a := arr t n
        (true, match a.queue with
          | e' :: q =>
            if a.streaming ∧ e'.id = e.id then
              settle (admitResumed (setArr t n { a with queue := q, streaming := false, inflight := a.inflight ++ [e] }) n) n
            else t
          | [] => t)
    else (true, s)
  | [] => (true, s)

/-- The oldest pass in flight writes its last row sum and is reported (R84, R85). -/
def completeInflight (s : State) (n : Nat) : State :=
  let a := arr s n
  match a.inflight with
  | e :: q => reportDone (setArr s n { a with inflight := q }) n e 0
  | [] => s

/-- Every pass in flight completes, oldest first. -/
def completeAll (s : State) (n : Nat) : State :=
  (arr s n).inflight.foldl (fun s _ => completeInflight s n) s

/-- Set TA_STATUS.STOP_DONE and let none of the queued descriptors start (R95, R98). DEDUCED, log 20. -/
def finishStop (s : State) (n : Nat) : State :=
  let a := arr s n
  setRegBit (setArr s n { a with stopping := false, stopCol := none, halted := true, haltId := a.nextId }) (Reg.TA_STATUS n) 4

/-- The stop holds a queued descriptor (R98). DEDUCED, log 20. -/
def heldByStop (a : ArraySt) (e : QEntry) : Bool := a.halted && decide (e.id < a.haltId)

/-- Resume a stopped array (R96, R98): the pass stopped last is issued again, or the pass that stayed at the head goes on. -/
def resumeArray (s : State) (n : Nat) : State :=
  let a := arr s n
  if a.stopping then setArr s n { a with resumePending := true }
  else match a.saved.getLast? with
    | some x => if a.resumeHeld.isSome then s else reissue s n x
    | none => setArr s n { a with halted := false, resumePending := false }

/-- The bank offset of the spill area that the item's fusion block names (R158, R368). -/
def spillOffset (s : State) (k : ItemKey) : Nat :=
  match ittOf s k with
  | some e => fld e.task (32 * 42) 23
  | none => 0

/-- Write a lake tile to a spill area in the layout of R75 (R174). -/
def spillTile (s : State) (base pitch : Nat) (t : Tile) : State :=
  match Fmt.ofCode t.fmt.toNat with
  | none => s
  | some f =>
    let s := (List.range t.mt).foldl (fun s i =>
      writeBytes s (base + i * pitch) (f.pack ((t.codes.getD i []).map BitVec.toNat)) t.bad) s
    if f.narrow then (List.range t.mt).foldl (fun s i => writeBytes s (base + 0x8000 + 8 * i) (t.scales.getD i []) t.bad) s else s

/-- The descriptor that loads a spilled tile (R174). -/
def spilledDesc (d : Desc) (at_ pitch : Nat) : Desc :=
  setFld (setFld (setFld (setFld d 16 2 0) 128 48 at_) 288 48 (at_ + 0x8000)) 192 32 pitch

/-- The queued passes of the item that take one tile load its spilled copy (R174): src names how they take it. Passes with
XSRC = 0b01 keep the tile that is active when they begin, so only those before the next pass that brings its own are meant. -/
def redirectQueue (k : ItemKey) (src at_ pitch : Nat) : List QEntry → List QEntry
  | [] => []
  | e :: q =>
    let pass := decide (descOp e.desc = 1)
    if src = 1 && pass && decide (descXsrc e.desc ≠ 1) then e :: q
    else
      let e := if pass && decide (descKey e.desc = k) && decide (descXsrc e.desc = src) then { e with desc := spilledDesc e.desc at_ pitch } else e
      e :: redirectQueue k src at_ pitch q

/-- The saved pass of the item that used the active tile loads its spilled copy (R174). -/
def redirectSaved (a : ArraySt) (k : ItemKey) (at_ pitch : Nat) (x : SavedPass) : SavedPass :=
  if descKey x.entry.desc = k ∧ x.tile = a.tileNo then { x with entry := { x.entry with desc := spilledDesc x.entry.desc at_ pitch } } else x

/-- The spill of R174: the active lake tile to SPILL_OFF, a reserved shadow tile 64 KiB after it; saved and queued passes of
the item that used them load the copies. The scales go 32 KiB after the elements. -/
def spillLake (s : State) (n : Nat) : State :=
  let base (k : ItemKey) := bankBase s (n / 4) + spillOffset s k
  let pitch (t : Tile) := if t.fmt = 0 then 512 else 256
  let s := match (arr s n).active with
    | some t =>
      if t.lake then
        let b := base t.key
        let s := spillTile s b (pitch t) t
        let a := arr s n
        setArr s n { a with queue := redirectQueue t.key 1 b (pitch t) a.queue, saved := a.saved.map (redirectSaved a t.key b (pitch t)) }
      else s
    | none => s
  match (arr s n).lake with
  | some l =>
    let k := l.tile.key
    let b := base k + 0x10000
    let s := spillTile s b (pitch l.tile) l.tile
    let a := arr s n
    let a := { a with queue := redirectQueue k 2 b (pitch l.tile) a.queue, lake := none }
    setArr s n { a with spilled := a.spilled ++ [(k, BitVec.ofNat 48 b, BitVec.ofNat 48 (b + 0x8000), pitch l.tile)] }
  | none => s

/-- A stop ends the column stream (R95): the pass leaves the queue with its cursor saved in START and TA_CURSOR. Whether the lines
of its last columns have been read. -/
def saveCursor (s : State) (n : Nat) : Bool × State :=
  let a := arr s n
  match a.queue, a.streaming, a.stopCol with
  | e :: _, true, some c =>
    match feedTo s n e.desc (c + 1) with
    | (false, t) => (false, t)
    | (true, t) =>
      let s := runColumns t n e.desc (c + 1)
      let a := arr s n
      (true, match a.queue with
        | e' :: q =>
          if a.streaming ∧ e'.id = e.id then
            let sv : SavedPass := ⟨{ e with desc := setFld e.desc 480 9 (c + 1) }, a.tileNo⟩
            let s := setArr s n { a with queue := q, streaming := false, saved := a.saved ++ [sv], ramp := .down (rampLen s n) (slotLen e.desc) }
            settle (setRegWord s (Reg.TA_CURSOR n) (BitVec.ofNat 32 ((c + 1) + descSeq e.desc * 2 ^ 16))) n
          else s
        | [] => s)
  | _, _, _ => (true, s)

end Sys2Proof.Machine
end

