-- ==== Sys2Proof/Machine/Governor.lean ====
section
/-! DEFINITION. Admission of starts (R486, R487, R491). -/

namespace Sys2Proof.Machine

/-- The fused ACLK in MHz (R1, R586). -/
def fusedMhz (s : State) : Nat := regFld s Reg.GLB_FAM6 0 12

/-- Efficiency mode is in effect (R499). -/
def effMode (s : State) : Bool := decide (regFld s Reg.PWR_STATUS 0 2 = 1)

/-- The point of the voltage-frequency table for an ACLK (R475): within 0.60 to 0.80 V, and 0.60 V at 1.6 GHz. -/
def vddPoint (mhz : Nat) : Nat := if mhz ≤ 1600 then 600 else max 600 (min 800 (Config.vfPoint mhz))

/-- VDD_LOGIC takes the point of an ACLK. -/
def setVdd (s : State) (mhz : Nat) : State := { s with power := { s.power with vdd := vddPoint mhz } }

/-- The estimate of a start in units of 0.01 W, interpolated in frequency and rounded up to 0.1 W (R486). -/
def startEst (s : State) (w : Starter) : Nat :=
  let top := fusedMhz s
  let (eff, full) : Nat × Nat := match w, decide (top = 2500) with
    | .array _, true => (26, 58)
    | .array _, false => (26, 51)
    | .engine _, true => (14, 32)
    | .engine _, false => (14, 28)
  if effMode s || decide (top ≤ 1600) then 10 * eff
  else 10 * (eff + ceilDiv ((full - eff) * (s.aclkMhz - 1600)) (top - 1600))

/-- Measured power Pm, the mean of the last 4 samples, in units of 0.01 W (R485). -/
def measuredPower (s : State) : Nat :=
  match s.power.samples with
  | [] => 0
  | l => 100 * l.foldl (· + ·) 0 / l.length

/-- The rating and the allowance leave room for a start of estimate x (R486, R487, R491). -/
def roomFor (s : State) (x : Nat) : Bool :=
  decide (measuredPower s + s.power.tickEst + x ≤ 100 * regFld s Reg.PWR_RATING 0 12)
    && (!regBit s Reg.PWR_CTRL 1 || (!s.power.phaseWait && decide (x ≤ s.power.allow)))

/-- Count an admitted start. -/
def takeRoom (p : PowerSt) (x : Nat) : PowerSt := { p with tickEst := p.tickEst + x, allow := p.allow - x }

/-- Ask for admission: whether the start may begin now. A start that cannot is held, in the order requested (R486). -/
def requestStart (s : State) (w : Starter) : Bool × State :=
  let p := s.power
  if p.granted.contains w then (true, { s with power := { p with granted := p.granted.filter (fun x => decide (x ≠ w)) } })
  else if p.held.contains w then (false, s)
  else
    let x := startEst s w
    if p.held.isEmpty && roomFor s x then (true, { s with power := takeRoom p x })
    else (false, { s with power := { p with held := p.held ++ [w] } })

/-- Admit held starts, oldest first, while there is room (R486). -/
def admitHeld (s : State) : List Starter → State
  | [] => s
  | w :: t =>
    let x := startEst s w
    if roomFor s x then
      let p := takeRoom s.power x
      admitHeld { s with power := { p with held := t, granted := p.granted ++ [w] } } t
    else s

/-- An array has work. -/
def arrayWorks (a : ArraySt) : Bool :=
  a.streaming || !a.queue.isEmpty || !a.inflight.isEmpty || a.preload.isSome || !a.drains.isEmpty || !a.saved.isEmpty || a.resumeHeld.isSome

/-- The floor is active (R488, R489): a fall is being shaped. -/
def floorActive (s : State) : Bool := s.power.floorTicks.isSome

/-- The governor is at rest (R491): no array or engine has work and no floor is active. -/
def governorRest (s : State) : Bool :=
  !floorActive s && !s.arrays.any (fun x => arrayWorks x.2)
    && !s.engines.any (fun x => !x.2.groups.isEmpty || !x.2.launchQ.isEmpty) && s.power.held.isEmpty && s.power.granted.isEmpty

/-- The first WORK accepted at rest is the start command (R491): the ramp phase runs when admission is enabled and PHASE is not
zero. -/
def startCommand (s : State) : State :=
  if governorRest s && !s.items.itt.any (fun e => decide (e.state = .accepted) || decide (e.state = .running)) && regBit s Reg.PWR_CTRL 1 && decide (regFld s Reg.PWR_PHASE 0 8 ≠ 0) then
    { s with power := { s.power with phaseWait := true } }
  else s

end Sys2Proof.Machine
end

