-- ==== Sys2Proof/Machine/Movers.lean ====
section
/-! DEFINITION. Movers: entry checks, the four operations, completion (R295 to R299, R313). -/

namespace Sys2Proof.Machine

/-- OP of a mover descriptor (R296). -/
def mvOp (d : Desc) : Nat := fld d 0 4
/-- FMT. -/
def mvFmt (d : Desc) : Option Fmt := Fmt.ofCode (fld d 4 4)
/-- SRC. -/
def mvSrc (d : Desc) : Nat := fld d 32 48
/-- DST. -/
def mvDst (d : Desc) : Nat := fld d 96 48
/-- ROWBYTES. -/
def mvRowBytes (d : Desc) : Nat := fld d 160 24
/-- KT of a skew. -/
def mvKt (d : Desc) : Nat := fld d 160 9 + 1
/-- NCOL of a skew. -/
def mvNcol (d : Desc) : Nat := fld d 169 8 + 1
/-- Rows. -/
def mvRows (d : Desc) : Nat := fld d 192 20 + 1
/-- KBASE of a skew. -/
def mvKbase (d : Desc) : Nat := fld d 192 32
/-- SPITCH. -/
def mvSpitch (d : Desc) : Nat := fld d 224 32
/-- DPITCH. -/
def mvDpitch (d : Desc) : Nat := fld d 256 32
/-- AUX. -/
def mvAux (d : Desc) : Nat := fld d 288 48
/-- AUXPITCH. -/
def mvAuxPitch (d : Desc) : Nat := fld d 352 32
/-- AUX2. -/
def mvAux2 (d : Desc) : Nat := fld d 384 48
/-- The fill pattern. -/
def mvPattern (d : Desc) : Nat := fld d 384 32
/-- SHINT. -/
def mvShint (d : Desc) : Bool := bit d 8
/-- TINT. -/
def mvTint (d : Desc) : Nat := fld d 10 3
/-- DHINT. -/
def mvDhint (d : Desc) : Bool := bit d 9
/-- NOTIFY. -/
def mvNotify (d : Desc) : Bool := bit d 13

/-- A skew with a narrow format, which has scales (R74). -/
def mvNarrow (d : Desc) : Bool := decide (mvOp d = 2) && (match mvFmt d with
  | some f => f.narrow
  | none => false)

/-- The bits that R296 marks reserved for the operation are zero. -/
def mvReservedZero (d : Desc) : Bool :=
  let z (lo w : Nat) : Bool := decide (fld d lo w = 0)
  z 14 18 && z 80 16 && z 144 16 && z 336 16 && z 432 16 && z 509 3
    && (if mvOp d = 2 then z 177 15 else z 184 8 && z 212 12)

/-- The operation and its formats are ones that R296 and R36 give (code 0x1 of R298). -/
def mvFormOk (d : Desc) : Bool :=
  decide (1 ≤ mvOp d) && decide (mvOp d ≤ 4) && mvReservedZero d && (decide (mvOp d ≠ 2) || (match mvFmt d with
    | some f => f.rateClass.isSome && decide (mvKt d ≤ (if f.narrow then 256 else 128))
    | none => false))

/-- Alignment of addresses, pitches and ROWBYTES (code 0x2 of R298; R47, R77). -/
def mvAligned (d : Desc) : Bool :=
  let m (k x : Nat) : Bool := decide (x % k = 0)
  let rows := m 4 (mvDpitch d) && m 4 (mvRowBytes d) && decide (mvRowBytes d ≠ 0)
  m 4 (mvDst d) && (match mvOp d with
    | 1 => m 4 (mvSrc d) && m 4 (mvSpitch d) && rows
    | 2 => m 4 (mvSrc d) && m 4 (mvSpitch d) && m 4 (mvAux d) && m 4 (mvAuxPitch d) && m 4 (mvAux2 d) && m 64 (mvDst d)
      && (!mvNarrow d || (m 64 (mvAux2 d) && m 64 (mvSrc d) && m 64 (mvSpitch d) && m 64 (mvAux d) && m 64 (mvAuxPitch d)
        && m 32 (mvKbase d) && decide (ceilDiv (mvKbase d + mvKt d) 32 ≤ mvAuxPitch d)))
    | 3 => m 4 (mvSrc d) && m 4 (mvSpitch d) && m 4 (mvAux d) && rows
    | _ => rows)

/-- Every one of n rows lies where a mover may go. -/
def mvSpan (s : State) (write : Bool) (base pitch n len : Nat) : Bool :=
  reachAll s .mover write (base + (n - 1) * pitch + len) 64 base
    || (List.range n).all (fun r => reachAll s .mover write (base + r * pitch + len) 64 (base + r * pitch))

/-- First bit of the source column of a skew, and the bytes that hold it. -/
def mvColumn (d : Desc) (f : Fmt) : Nat × Nat :=
  let lo := mvKbase d * f.width / 8
  (lo, ceilDiv ((mvKbase d + mvKt d) * f.width) 8 - lo)

/-- Every byte that the operation reads or writes, so far as it is known at entry, lies where a mover may go (code 0x3 of R298). -/
def mvReach (s : State) (d : Desc) : Bool :=
  let n := mvRows d
  let rb := mvRowBytes d
  match mvOp d with
  | 1 => mvSpan s true (mvDst d) (mvDpitch d) n rb && mvSpan s false (mvSrc d) (mvSpitch d) n rb
  | 2 => match mvFmt d with
    | none => false
    | some f =>
      let (lo, k) := mvColumn d f
      let c := mvNcol d
      mvSpan s false (mvSrc d + lo) (mvSpitch d) c k && mvSpan s true (mvDst d) 0 1 ((c + 3) * f.lineBytes)
        && (!mvNarrow d || (mvSpan s false (mvAux d + mvKbase d / 32) (mvAuxPitch d) c (ceilDiv (mvKt d) 32)
          && mvSpan s true (mvAux2 d) 0 1 ((c + 3) * 8)))
  | 3 => mvSpan s true (mvDst d) (mvDpitch d) n rb && mvSpan s false (mvAux d) 4 n 4
  | _ => mvSpan s true (mvDst d) (mvDpitch d) n rb

/-- The queue of a mover. -/
def mvQueue (s : State) (m : Nat) : List MoverEntry := lookD s.movers m []

/-- Change a mover's queue. -/
def setMvQueue (s : State) (m : Nat) (q : List MoverEntry) : State := { s with movers := put s.movers m q }

/-- The entry check of a mover (R298): the code of a refusal. -/
def mvCheck (s : State) (m : Nat) (d : Desc) : Option Nat :=
  if 24 ≤ m ∨ 32 ≤ (mvQueue s m).length then some 4
  else if !mvFormOk d then some 1
  else if !mvAligned d then some 2
  else if !mvReach s d then some 3
  else none

/-- Show a refusal or fault of host work (R298, R313): bit 8 REFUSED or 10 FAULT, and the code. -/
def mvReport (s : State) (m i code : Nat) : State :=
  withCause 5 (fun s => setRegBit (setRegFld s (Reg.RLZ_MV_STAT m) 12 4 code) (Reg.RLZ_MV_STAT m) i) s

/-- The host's descriptor enters a queue or is refused (R298, R313). -/
def submitHost (s : State) (m : Nat) : State :=
  let d : Desc := BitVec.ofNat 512 ((List.range 16).foldr (fun w acc => (regWord s (Reg.RLZ_MV_DESC m w)).toNat + acc * 2 ^ 32) 0)
  match mvCheck s m d with
  | some c => mvReport s m 8 c
  | none => setMvQueue s m (mvQueue s m ++ [{ desc := d, src := .host }])

/-- The dispatcher's descriptor enters a queue (R298); a refusal fails the item with source 5. A full queue keeps it with the
dispatcher. -/
def submitItem (s : State) (m : Nat) (d : Desc) : State :=
  match mvCheck s m d with
  | some 4 => { s with items := { s.items with heldMover := s.items.heldMover ++ [(Fin.ofNat 24 m, d)] } }
  | some c => descFail s (moverKey d) 5 c
  | none => setMvQueue s m (mvQueue s m ++ [{ desc := d, src := .dispatcher }])

/-- Descriptors that the dispatcher keeps for a mover enter its queue while there is room, in issue order. -/
def takeHeldMover (m : Nat) : Nat → State → State
  | 0, s => s
  | n + 1, s =>
    if 32 ≤ (mvQueue s m).length then s
    else match s.items.heldMover.find? (fun x => decide (x.1.val = m)) with
      | some x =>
        let rest := dropFirst (fun y => decide (y = x)) s.items.heldMover
        takeHeldMover m n (submitItem { s with items := { s.items with heldMover := rest } } m x.2)
      | none => s

/-- A piece to write: address, bytes, poison. -/
abbrev Piece := Nat × List Byte × Bool

/-- Bytes read for one row, cut where poison may change (R298). -/
def mvRead (s : State) (src dst n : Nat) : List Piece :=
  (unitsOf src n).map (fun (u, lo, k) => (dst + (u + lo - src), readBytes s (u + lo) k, unitPoisoned s u lo k))

/-- Source row of row r: none where a gather's index is poisoned (R297). -/
def mvRowSrc (s : State) (d : Desc) (r : Nat) : Option Nat :=
  if mvOp d = 3 then
    if readPoison s (mvAux d + 4 * r) 4 then none
    else some (mvSrc d + ofBytes (readBytes s (mvAux d + 4 * r) 4) * mvSpitch d)
  else some (mvSrc d + r * mvSpitch d)

/-- The pieces of row r of a copy, gather or fill (R297); none: a gather names a row outside what a mover may read. -/
def mvRowPieces (s : State) (d : Desc) (r : Nat) : Option (List Piece) :=
  let rb := mvRowBytes d
  let dst := mvDst d + r * mvDpitch d
  if mvOp d = 4 then some [(dst, tab rb (fun i => BitVec.ofNat 8 (mvPattern d >>> (8 * (i % 4)))), false)]
  else match mvRowSrc s d r with
    | none => some [(dst, List.replicate rb 0, true)]
    | some a => if reachAll s .mover false (a + rb) 64 a then some (mvRead s a dst rb) else none

/-- Element m of column c of a skew's source. -/
def mvElem (s : State) (d : Desc) (f : Fmt) (c k : Nat) : Nat :=
  let p := (mvKbase d + k) * f.width
  let a := mvSrc d + c * mvSpitch d + p / 8
  nfld (ofBytes (readBytes s a (ceilDiv (p % 8 + f.width) 8))) (p % 8) f.width

/-- Line c of the skewed operand (R71 to R73): padding and elements at or beyond KT are zero; a poisoned column poisons it. -/
def mvLine (s : State) (d : Desc) (f : Fmt) (c : Nat) : Piece :=
  let on (g : Nat) : Bool := decide (g ≤ c) && decide (c - g < mvNcol d)
  let field (g : Nat) : List Byte :=
    if on g then f.pack (tab f.segElems (fun m =>
      let k := g * f.segElems + m
      if k < mvKt d then mvElem s d f (c - g) k else 0))
    else List.replicate f.fieldBytes 0
  let bad := (List.range 4).any (fun g => on g && decide (g * f.segElems < mvKt d) && (
    let p := (mvKbase d + g * f.segElems) * f.width / 8
    let q := ceilDiv ((mvKbase d + min (mvKt d) ((g + 1) * f.segElems)) * f.width) 8
    readPoison s (mvSrc d + (c - g) * mvSpitch d + p) (q - p)))
  (mvDst d + c * f.lineBytes, ((List.range 4).map field).flatten, bad)

/-- Scale line c (R74). -/
def mvScaleLine (s : State) (d : Desc) (c : Nat) : Piece :=
  let on (g b : Nat) : Bool := decide (g ≤ c) && decide (c - g < mvNcol d) && decide (b < ceilDiv (mvKt d) 32)
  let at_ (g b : Nat) : Nat := mvAux d + (c - g) * mvAuxPitch d + mvKbase d / 32 + b
  let byte (g b : Nat) : Byte := if on g b then readByte s (at_ g b) else 0
  let bs := ((List.range 4).map (fun g => [byte g (2 * g), byte g (2 * g + 1)])).flatten
  let bad := (List.range 4).any (fun g => [2 * g, 2 * g + 1].any (fun b => on g b && readPoison s (at_ g b) 1))
  (mvAux2 d + 8 * c, bs, bad)

/-- Ranges (first byte, length) that a descriptor reads. -/
def mvSources (s : State) (d : Desc) : List (Nat × Nat) :=
  match mvOp d with
  | 1 => (List.range (mvRows d)).map (fun r => (mvSrc d + r * mvSpitch d, mvRowBytes d))
  | 2 => match mvFmt d with
    | none => []
    | some f =>
      let (lo, k) := mvColumn d f
      (List.range (mvNcol d)).map (fun c => (mvSrc d + c * mvSpitch d + lo, k))
        ++ (if f.narrow then (List.range (mvNcol d)).map (fun c => (mvAux d + c * mvAuxPitch d + mvKbase d / 32, ceilDiv (mvKt d) 32)) else [])
  | 3 => (mvAux d, 4 * mvRows d) :: (List.range (mvRows d)).filterMap (fun r => (mvRowSrc s d r).map (fun a => (a, mvRowBytes d)))
  | _ => []

/-- Ranges that a descriptor writes. -/
def mvTargets (d : Desc) : List (Nat × Nat) :=
  if mvOp d = 2 then
    match mvFmt d with
    | none => []
    | some f => (mvDst d, (mvNcol d + 3) * f.lineBytes) :: (if f.narrow then [(mvAux2 d, (mvNcol d + 3) * 8)] else [])
  else (List.range (mvRows d)).map (fun r => (mvDst d + r * mvDpitch d, mvRowBytes d))

/-- Two lists of ranges share a byte: their spans are compared first. DEDUCED, log 69. -/
def rangesMeet (xs ys : List (Nat × Nat)) : Bool :=
  let lo (l : List (Nat × Nat)) : Nat := l.foldl (fun m x => min m x.1) (2 ^ 64)
  let hi (l : List (Nat × Nat)) : Nat := l.foldl (fun m x => max m (x.1 + x.2)) 0
  decide (lo xs < hi ys) && decide (lo ys < hi xs)
    && xs.any (fun x => ys.any (fun y => decide (x.1 < y.1 + y.2) && decide (y.1 < x.1 + x.2)))

/-- Write pieces; a piece of an overlapping descriptor is undefined (R297): free bytes. DEDUCED, log 69. -/
def putPieces (s : State) (d : Desc) (open_ : Bool) (ps : List Piece) : State :=
  ps.foldl (fun s (a, bs, p) =>
    if open_ then
      let n := s.fresh
      writeBytesHint { s with fresh := n + bs.length + 1 } a (tab bs.length (fun i => Config.freeByte (n + i))) (Config.freeBool (n + bs.length)) (mvDhint d)
    else writeBytesHint s a bs p (mvDhint d)) s

/-- Rows of a copy, gather or fill from r on: poison met so far, and whether a row stopped the descriptor with code 0x3. -/
def mvRunRows (d : Desc) (open_ : Bool) : Nat → Nat → State → Bool → State × Bool × Bool
  | 0, _, s, p => (s, p, false)
  | n + 1, r, s, p =>
    match mvRowPieces s d r with
    | none => (s, p, true)
    | some ps => mvRunRows d open_ n (r + 1) (putPieces s d open_ ps) (p || ps.any (fun x => x.2.2))

/-- Run a descriptor (R297, R298): the code that it ends with, 0 where it meets no fault. -/
def mvRun (s : State) (d : Desc) : Nat × State :=
  if !mvReach s d then (3, s)
  else
    let open_ := rangesMeet (mvSources s d) (mvTargets d)
    match mvOp d, mvFmt d with
    | 2, none => (0, s)
    | 2, some f =>
      let lines := (List.range (mvNcol d + 3)).map (mvLine s d f)
      let ps := if f.narrow then lines ++ (List.range (mvNcol d + 3)).map (mvScaleLine s d) else lines
      (if ps.any (fun x => x.2.2) then 5 else 0, putPieces s d open_ ps)
    | _, _ =>
      let (s, p, stop) := mvRunRows d open_ (mvRows d) 0 s false
      (if stop then 3 else if p then 5 else 0, s)

/-- Host work ends (R298, R299, R313): code 0x5 sets FAULT, a stop with 0x3 REFUSED; completion with NOTIFY sets DONE. -/
def endHostMove (s : State) (m : Nat) (d : Desc) (code : Nat) : State :=
  let s := if code = 5 then mvReport s m 10 5 else if code = 3 then mvReport s m 8 3 else s
  if code ≠ 3 ∧ mvNotify d = true then withCause 5 (fun s => setRegBit s (Reg.RLZ_MV_STAT m) 9) s else s

/-- Note the far ports that a descriptor uses for its item (R347). -/
def noteMove (s : State) (d : Desc) : State :=
  (mvSources s d ++ mvTargets d).foldl (fun s (a, _) => noteFar s (moverKey d) a) s

/-- A DATA payload is placed (R165, R295, R362): it is visible, then answered by ACK, and a tag counts. -/
def placePayload (s : State) (p : Packet) : State :=
  let s := sendAck (noteFar (writeBytes s p.addr p.payload false) p.key p.addr) p
  if p.tag = 0 ∨ (ittOf s p.key).isNone then s else countTag s p.key p.tag.toNat

/-- The port of a mover (R300, R301): its requests carry the tint of the descriptor or of the DATA packet, and its reads stream with
SHINT (R296). -/
def moverPort (m : Nat) (e : MoverEntry) : Port :=
  { master := 240 + m, streaming := mvShint e.desc, tint := match e.src with
    | .packet _ p => p.tint.toNat
    | _ => mvTint e.desc }

/-- The requests of a mover's descriptor, its reads before its writes (DESIGN CHOICE, log 73). -/
def moverReqs (s : State) (e : MoverEntry) : List LineReq :=
  match e.src with
  | .packet _ p => reqsOf false p.addr p.payload.length
  | _ => (mvSources s e.desc).flatMap (fun x => reqsOf true x.1 x.2) ++ (mvTargets e.desc).flatMap (fun x => reqsOf false x.1 x.2)

/-- The parts of a descriptor's destination, cut at 128-byte boundaries, in the order of its rows and lines. -/
def mvParts (d : Desc) : List (Nat × Nat) :=
  (mvTargets d).flatMap (fun x => (reqsOf false x.1 x.2).map (fun r => (r.addr, r.len)))

/-- A descriptor whose item has ended stops at its next 128-byte boundary (R299): the parts of its destination that it has written, a
number that is a matter of time (free, log 12), stay. -/
def stopMove (s : State) (d : Desc) : State :=
  let (w, s) := freeWord s
  let t := (mvRun s d).2
  let parts := mvParts d
  (parts.take (w.toNat % (parts.length + 1))).foldl (fun s (a, n) => writeBytesHint s a (readBytes t a n) (readPoison t a n) (mvDhint d)) s

/-- What the descriptor at the head of a mover's queue does once all of its requests are issued (R299). -/
def completeMove (s : State) (m : Nat) (e : MoverEntry) : State :=
  match e.src with
  | .packet _ p => placePayload s p
  | .host =>
    let (c, s) := mvRun s e.desc
    endHostMove s m e.desc c
  | .dispatcher =>
    let (c, s) := mvRun (noteMove s e.desc) e.desc
    if c = 5 then failItem s (moverKey e.desc) 3 m
    else if c = 3 then descFail s (moverKey e.desc) 5 3
    else s

/-- A mover's head completes, or stops where its item has ended, and the dispatcher's next descriptor for it may enter; while one of
its requests is held at the mover's port (R282, R289, R301) it goes on. -/
def finishMove (s : State) (m : Nat) : State :=
  match mvQueue s m with
  | [] => s
  | e :: q =>
    if e.ended then
      let s := stopMove (setMvQueue s m q) e.desc
      takeHeldMover m s.items.heldMover.length s
    else
      let rs := (moverReqs s e).drop e.issued
      let (k, s) := issueReqs s (moverPort m e) rs
      if k = rs.length then
        let s := completeMove (setMvQueue s m q) m e
        takeHeldMover m s.items.heldMover.length s
      else setMvQueue s m ({ e with issued := e.issued + k } :: q)

/-- A write of RLZ_MV_SUBMIT (R313). -/
def writeMvSubmit (s : State) (m : Nat) (v : Word) : State := if bit v 0 then submitHost s m else s

/-- MOVER_GO. -/
def execMoverGo (m : Fin 32) (v : Word) (s : State) : Out :=
  .next (whenLive s (Reg.RLZ_MV_SUBMIT m) (fun s => writeMvSubmit s m (v ||| 1#32)))

/-- MOVER_DESCRIPTOR_COMPLETE. -/
def execMoverDescriptorComplete (m : Fin 32) (s : State) : Out := .next (finishMove s m)

end Sys2Proof.Machine
end

