-- ==== Sys2Proof/Machine/Arrays.lean ====
section
/-! DEFINITION. The meanings of the array commands: queue entry, passes, stops, preloads and drains (chapters 3 to 5). -/

namespace Sys2Proof.Machine

/-- The array is enabled (R82, R102). -/
def arrayEnabled (s : State) (n : Nat) : Bool := regBit s (Reg.TA_ID n) 16

/-- Hold a descriptor in the dispatcher, in issue order (R83, R154); one held at a full queue is seen there (R105). -/
def holdDesc (s : State) (n : Fin 200) (d : Desc) : State :=
  let s := if 16 ≤ (arr s n).queue.length then fullStall s n else s
  { s with items := { s.items with heldDesc := s.items.heldDesc ++ [(n, d)] } }

/-- The pieces of a drain of the dispatcher that has more columns than its ring has slots (R154): EBASE and the output column advance
with the pieces, and only the last carries LAST. DESIGN CHOICE, log 74. -/
def drainPieces (s : State) (n : Nat) (d : Desc) : List Desc :=
  let z := ringSlots s (n / 4) (n % 4)
  if !descToRing d || decide (z = 0) || decide (descNcol d ≤ z) || (checkDesc s n d).isSome then [d]
  else
    let k := ceilDiv (descNcol d) z
    (List.range k).map (fun i =>
      let cols := min z (descNcol d - i * z)
      let d' := setFld (setFld (setFld d 49 8 (cols - 1)) 64 8 (descEbase d + i * z)) 288 32 ((wordOf d 9).toNat + i * z)
      if i + 1 = k then d' else setFld d' 18 1 0)

/-- The dispatcher issues the pieces of a descriptor in order, and holds those that cannot enter (R83, R154); the first that is
refused ends the item, and with it the rest. -/
def issuePieces (s : State) (n : Fin 200) : List Desc → State
  | [] => s
  | d :: t =>
    if s.items.heldDesc.any (fun x => decide (x.1 = n)) then issuePieces (holdDesc s n d) n t
    else match issueDesc s n d .dispatcher with
      | (.queued, s) => issuePieces s n t
      | (.refused, s) => s
      | (_, s) => issuePieces (holdDesc s n d) n t

/-- The dispatcher resumes a stopped array whose pass stayed at the head, or never began, by issuing that descriptor again (R96, R98).
DESIGN CHOICE, log 20. -/
def resumesHead (a : ArraySt) (d : Desc) : Bool :=
  match a.queue with
  | e :: _ => heldByStop a e && a.saved.isEmpty && decide (e.desc = d)
  | [] => false

/-- The requests of a tile load, row by row (R75, R78). -/
def tileReqs (d : Desc) (f : Fmt) : List LineReq :=
  ((List.range (descMt d)).map (fun i => reqsOf true (descAddr d + i * descPitch d) (f.rowBytes (descKt d))
    ++ (if f.narrow then reqsOf true (descXsaddr d + 8 * i) 8 else []))).flatten

/-- The requests of a preload (R131, R134). -/
def preloadReqs (d : Desc) (f : Fmt) : List LineReq :=
  match fld d 9 2 with
  | 0 => ((List.range (descMt d)).map (fun i => reqsOf true (descAddr d + i * descPitch d) (f.rowBytes (descNcol d)))).flatten
  | 1 => reqsOf true (descAddr d) (f.rowBytes (descNcol d))
  | 2 => reqsOf true (descAddr d) (f.rowBytes (descMt d))
  | _ => []

/-- What a descriptor of an array reads, range by range. -/
def descReads (d : Desc) : List (Nat × Nat) :=
  let rs := match descOp d, descFmt d 4 with
    | 1, some f => (if descXsrc d = 0 then tileReqs d f else []) ++ (match descFmt d 8 with
      | some w => feedReqs d w (descStart d) (descNcol d)
      | none => [])
    | 2, some f => preloadReqs d f
    | _, _ => []
  rs.map (fun r => (r.addr, r.len))

/-- A descriptor reads what a mover of its item has still to write (R299). -/
def awaitsMover (s : State) (d : Desc) : Bool :=
  let waits (x : Desc) : Bool := decide (moverKey x = descKey d) && rangesMeet (mvTargets x) (descReads d)
  s.movers.any (fun x => x.2.any (fun e => decide (e.src = .dispatcher) && !e.ended && waits e.desc))
    || s.items.heldMover.any (fun x => waits x.2)

/-- The first pass of an item on an array waits in the dispatcher while the region's engine has no room for the item's groups
(R149). -/
def awaitsEpilogue (s : State) (n : Nat) (d : Desc) : Bool :=
  let a := arr s n
  let k := descKey d
  decide (descOp d = 1) && !a.queue.any (fun e => decide (descKey e.desc = k)) && !a.inflight.any (fun e => decide (descKey e.desc = k))
    && !a.cols.any (fun x => x.2.ownedBy k) && (eng s (n / 4)).launchQ.any (fun r => decide (launchKey r = k))

/-- The dispatcher keeps a descriptor back (R149, R299). -/
def keptBack (s : State) (n : Nat) (d : Desc) : Bool := awaitsMover s d || awaitsEpilogue s n d

/-- The dispatcher issues a descriptor to an enabled array, after those it holds for that array (R80 to R83, R96, R149, R154, R299).
The oldest held descriptor given again is tried again. -/
def dispatchDesc (s : State) (n : Fin 200) (desc : Desc) : State :=
  if !arrayEnabled s n then s
  else if resumesHead (arr s n) desc then resumeArray s n
  else match s.items.heldDesc.find? (fun x => decide (x.1 = n)) with
    | some (_, d) =>
      if d = desc then
        if keptBack s n desc then s
        else match issueDesc s n desc .dispatcher with
        | (.queued, t) => { t with items := { t.items with heldDesc := dropFirst (fun x => decide (x.1 = n)) t.items.heldDesc } }
        | (_, t) => t
      else (drainPieces s n desc).foldl (fun s d => holdDesc s n d) s
    | none => if keptBack s n desc then holdDesc s n desc else issuePieces s n (drainPieces s n desc)

/-- DESCRIPTOR_QUEUE_ENTRY. -/
def execDescriptorQueueEntry (n : Fin 200) (desc : Desc) (s : State) : Out := .next (dispatchDesc s n desc)

/-- The columns of a descriptor wait for a preload in progress or for a drain that has not read them (R134, R137). -/
def columnsBusy (a : ArraySt) (d : Desc) : Bool :=
  (match a.preload with
   | some e => sharedCols d e.desc
   | none => false)
  || a.drains.any (fun r => !bit r.flags 4 &&
      (let from_ := descEbase r.entry.desc + r.next
       let to_ := descEbase r.entry.desc + descNcol r.entry.desc
       decide (descEbase d < to_) && decide (from_ < descEbase d + descNcol d)))

/-- The anchor that a claiming descriptor sets (R116, R122): none while the pre-scan's does not exist. -/
def claimAnchor (s : State) (d : Desc) : Option (BitVec 10) :=
  if !descAnw d then some 80
  else if !descAsrc d then some (descAnchor d)
  else match s.items.anchors.find? (fun x => decide (x.key = descKey d) && decide (x.t.val = fld d 72 4)) with
    | some x => x.anchor.map (BitVec.ofInt 10)
    | none => none

/-- Claim the columns of a descriptor (R114): owner, mode and anchor are set, PROD, POISON and the entry flags cleared; the
entries of rows 0 to MT − 1 take the start value (R79, R87). -/
def claimColumns (a : ArraySt) (d : Desc) (anchor : BitVec 10) : ArraySt :=
  let k := descKey d
  let c : ColRec := { owned := true, orig := k.orig, item := k.item, lot := k.lot, anw := descAnw d, anchor := anchor }
  let clear (e : AccEntry) : AccEntry := { e with inx := false, sat := false, pinf := false, ninf := false }
  let start : AccEntry := if descOp d = 1 then startEntry (descCmode d) else {}
  let entries := a.entries.map (fun (i, e) =>
    let col := i % 256
    (i, if descEbase d ≤ col ∧ col < descEbase d + descNcol d then clear e else e))
  let entries := (List.range (descNcol d)).foldl (fun en j =>
    (List.range (descMt d)).foldl (fun en i =>
      let x := 256 * i + descEbase d + j
      put en x (if descOp d = 1 then start else lookD en x {})) en) entries
  { a with entries := entries, cols := (List.range (descNcol d)).foldl (fun cs j => put cs (descEbase d + j) c) a.cols }

/-- The tile that a pass will make active, once it is there (R68, R79, R171). -/
def nextTile (a : ArraySt) (e : QEntry) : Option Tile :=
  match descXsrc e.desc with
  | 0 => match a.shadow with
    | some (t, id) => if id = e.id then some t else none
    | none => none
  | 1 => a.active
  | _ => match a.lake with
    | some l => if l.done && decide (l.tile.key = descKey e.desc) then some l.tile else none
    | none => none

/-- Its trigger has fired, or it waits for none (R81, R166). -/
def triggered (s : State) (d : Desc) : Bool := !descTrig d || tagFired s (descKey d) (descTag d)

/-- The array begins streaming the pass at its head (R90, R93, R96, R114, R486, R511); was: its predecessor streamed to the slot
before. -/
def beginPass (s : State) (n : Nat) (e : QEntry) (t : Tile) (anchor : BitVec 10) (was : Bool) : State :=
  let ramp := match (arr s n).ramp with
    | .up l c k => .up l c k
    | .down _ _ => .none
    | .none => if was || decide (0 < (arr s n).floorDuty) then .none else .up (rampLen s n) 0 0
  let s := cutRamp s n
  let a := arr s n
  let a := if descClaims e.desc && !e.resumed then claimColumns a e.desc anchor else a
  let a := { a with active := some t, streaming := true, floorDuty := 0, ramp := ramp, fed := 0 }
  let a := { a with idleHold := if a.idleHold = .floor then .none else a.idleHold }
  let a := match descXsrc e.desc with
    | 0 => { a with shadow := none, tileNo := a.tileNo + 1 }
    | 2 => { a with lake := none, tileNo := a.tileNo + 1 }
    | _ => a
  takePause (setArr s n a) n

/-- The pass at the head, with no other streaming: refused, begun, or none while something that it waits for is not there. Ownership
is checked once more as it begins, for what released its columns while it waited (DEDUCED, log 74). was: its predecessor streamed to
the slot before. -/
def startHead (s : State) (n : Nat) (e : QEntry) (was : Bool) : Option State :=
  let a := arr s n
  let d := e.desc
  if columnsBusy a d || !triggered s d then none
  else if !e.resumed && !ownsColumns a d then some (settle (refuseHead s n e) n)
  else match (if descClaims d then claimAnchor s d else some 0), nextTile a e with
    | some anchor, some t =>
      if was || a.ramp ≠ .none || decide (0 < a.floorDuty) then some (beginPass s n e t anchor was)
      else match requestStart s (.array n) with
        | (true, s) => some (beginPass s n e t anchor was)
        | (false, s) => some s
    | _, _ => none

/-- The array may start a descriptor of its queue: no stop in progress and no stop in effect holds it (R98). -/
def mayStart (a : ArraySt) (e : QEntry) : Bool := !(a.stopping || a.fenced || heldByStop a e)

/-- The state after a streaming pass has retired with e next in the queue: whether e is at the head and checked, behind a pass whose
last column has issued without a fault. -/
def behind (t : State) (n : Nat) (p e : QEntry) : Bool :=
  let a := arr t n
  a.inflight.any (fun x => x.id == p.id) && (match a.queue with
    | h :: _ => h.id == e.id
    | [] => false)

/-- PASS_START (R68, R81, R86, R114, R122, R137, R166, R171, R615): the next pass of the queue begins when everything it
waits for is there; a streaming predecessor issues its last column first. -/
def execPassStart (n : Fin 200) (s : State) : Out :=
  .next (
    let a := arr s n
    match a.streaming, a.queue with
    | true, p :: e :: _ =>
      if descOp e.desc ≠ 1 || !mayStart a e then s
      else match retire s n with
        | (false, t) => t
        | (true, t) =>
          if behind t n p e then (startHead t n e true).getD s
          else if (arr t n).inflight.any (fun x => x.id == p.id) then rampDown t n p.desc
          else t
    | false, e :: _ => if descOp e.desc ≠ 1 || !mayStart a e then s else (startHead s n e false).getD s
    | _, _ => s)

/-- The tile of a pass that loads X (R44, R65, R75). -/
def loadTile (s : State) (d : Desc) (f : Fmt) : Tile :=
  let kt := descKt d
  let row (i : Nat) : List Word :=
    let bs := readBytes s (descAddr d + i * descPitch d) (f.rowBytes kt)
    tab kt (fun k => BitVec.ofNat 32 (f.element bs k))
  let sc (i : Nat) : List Byte := if f.narrow then readBytes s (descXsaddr d + 8 * i) 8 else []
  let bad := (List.range (descMt d)).any (fun i =>
    readPoison s (descAddr d + i * descPitch d) (f.rowBytes kt) || (f.narrow && readPoison s (descXsaddr d + 8 * i) 8))
  { key := descKey d, fmt := d.extractLsb' 4 4, mt := descMt d, kt := kt, codes := tab (descMt d) row,
    scales := tab (descMt d) sc, lake := false, bad := bad }

/-- TILE_LOAD_COMPLETE (R68, R78, R97): the shadow slot, when no lake write reserves it, holds the tile of the next pass that loads
one; a poisoned read faults the pass. The load of a pass that waits for its trigger does not complete before the trigger fires, since
what the trigger announces may be what it reads (DESIGN CHOICE, log 74). -/
def execTileLoadComplete (n : Fin 200) (s : State) : Out :=
  .next (
    let a := arr s n
    let waiting := (if a.streaming then a.queue.drop 1 else a.queue).find? (fun e => decide (descOp e.desc = 1))
    match waiting with
    | some e =>
      if !mayStart a e || decide (descXsrc e.desc ≠ 0) || a.shadow.isSome || a.lake.isSome || !triggered s e.desc then s
      else match descFmt e.desc 4 with
        | some f =>
          match loadThrough s n e.desc (tileReqs e.desc f) with
          | (false, t) => t
          | (true, t) =>
            let x := loadTile s e.desc f
            let t := setArr t n { arr t n with loaded := 0 }
            if x.bad then passFault t n (descKey e.desc) else setArr t n { arr t n with shadow := some (x, e.id) }
        | none => s
    | none => s)

/-- What ERR_LAST1 names for an accumulator entry (R448, R469). -/
def entryLoc (loc : Fin 128 × Fin 256) : Word := BitVec.ofNat 32 ((Config.accPlace (256 * loc.1 + loc.2)).toNat * 4096)

/-- Errors of accumulator entries that SEC-DED has corrected in place (R129, R443, R445). -/
def correctedEntries (s : State) (n : Fin 200) (l : List (Fin 128 × Fin 256)) : State :=
  l.foldl (fun s x => (correctedError s .acc n (entryLoc x)).2) s

/-- PASS_COMPLETE (R84, R85): the oldest pass whose columns have issued writes its last row sum and is reported; with none in
flight the streaming pass issues its last column first, and the array ramps down. corrected: the entries in which stage 10 met an
error that it corrected (R129, R443). DESIGN CHOICE, log 1. -/
def execPassComplete (c : PassEnd) (s : State) : Out :=
  let ⟨n, corrected⟩ := c
  .next (
    let a := arr s n
    match a.inflight, a.queue with
      | _ :: _, _ => completeInflight (correctedEntries s n corrected) n
      | [], e :: _ =>
        if a.streaming && !a.stopping then
          match retire s n with
          | (false, t) => t
          | (true, t) =>
            if (arr t n).inflight.isEmpty then t else completeInflight (rampDown (correctedEntries t n corrected) n e.desc) n
        else s
      | [], [] => s)

/-- A lake write has reserved the shadow slot and not filled it. -/
def lakeBusy (a : ArraySt) : Bool :=
  match a.lake with
  | some l => !l.done
  | none => false

/-- A stop while no pass streams (R98, R174, R181): a load is abandoned; STOP_DONE is set at once unless a preload or a lake
write must end first. -/
def stopIdle (s : State) (n : Nat) : State :=
  let s := setArr s n { arr s n with shadow := none, loaded := 0 }
  let a := arr s n
  if a.preload.isSome || lakeBusy a then setArr s n { a with stopping := true } else finishStop (spillLake s n) n

/-- A stop in the slot of the last column (R81, R98): that column issues, the pass leaves the queue and completes, and no cursor is
saved. Where the feeder still waits for a line, it does so at STOP_DONE. -/
def stopLast (s : State) (n : Nat) (e : QEntry) : State :=
  match retire s n with
  | (false, t) => setArr t n { arr t n with stopping := true }
  | (true, t) =>
    let t := if (arr t n).inflight.any (fun x => x.id == e.id) then rampDown t n e.desc else t
    setArr t n { arr t n with stopping := true }

/-- A stop request reaches the array in the slot of column c (R94, R98). While a stop is in effect nothing streams, and STOP_DONE is
set again. -/
def stopArray (s : State) (n c : Nat) : State :=
  let a := arr s n
  if a.fenced || a.stopping then s
  else match a.streaming, a.queue with
    | true, e :: _ =>
      let c := max (descStart e.desc) c
      if descNcol e.desc ≤ c + 1 then stopLast s n e else setArr s n { a with stopping := true, stopCol := some c }
    | _, _ => stopIdle s n

/-- A pass that stops while a mode move runs stops for it, and resumes when the move completes (R492; DEDUCED, log 77). -/
def markPaused (s : State) (n : Nat) : State :=
  if s.power.move.isSome && (arr s n).streaming && !(arr s n).stopping && !(arr s n).fenced then
    { s with power := { s.power with paused := insNat s.power.paused n } }
  else s

/-- STOP_REQUEST (R94, R98, R174, R181, R492): slot names the column that issues in the slot in which the stop is seen. -/
def execStopRequest (n : Fin 200) (slot : BitVec 9) (s : State) : Out := .next (stopArray (markPaused s n) n slot.toNat)

/-- The column stream of a stop in progress ends (R94, R95, R98): at the cursor, or with the pass. -/
def endStream (s : State) (n : Nat) : Bool × State :=
  match (arr s n).streaming, (arr s n).stopCol with
  | true, none => retire s n
  | _, _ => saveCursor s n

/-- STOP_DONE (R95, R98, R174): after the last write in flight the cursor is saved, a lake tile is spilled, and the array
halts; a resume that waited takes effect. DEDUCED, log 20. -/
def execStopDone (n : Fin 200) (s : State) : Out :=
  .next (
    let a := arr s n
    if !a.stopping || a.preload.isSome || lakeBusy a then s
    else match endStream s n with
      | (false, t) => t
      | (true, s) =>
        let s := completeAll s n
        let s := setArr s n { arr s n with shadow := none, loaded := 0 }
        let s := finishStop (spillLake s n) n
        if (arr s n).resumePending then resumeArray s n else s)

/-- PASS_FAULT (R92, R97, R98, R129): the running pass faults in the slot of a column, up to which its columns have issued; an error
in a stationary slot or an entry is an uncorrectable error of class ACC (R443). -/
def execPassFault (n : Fin 200) (f : PassFaultAt) (s : State) : Out :=
  let ⟨kind, col, loc⟩ := f
  .next (
    let a := arr s n
    let found (s : State) : State := match kind with
      | .stationaryUncorrectable => (uncorrectable s .acc n (entryLoc loc)).2
      | .entryUncorrectable => (uncorrectable s .acc n (entryLoc loc)).2
      | _ => s
    match a.streaming, a.queue, a.inflight with
    | true, e :: _, _ =>
      let k := min (descNcol e.desc) (col.toNat + 1) - descStart e.desc
      passFault (issueColumns (found s) n e.desc k) n (descKey e.desc)
    | _, _, e :: _ => passFault (found s) n (descKey e.desc)
    | _, _, [] => s)

/-- RAMP_DOWN_END (R92, R103): the last dummy column has issued; the array is idle. -/
def execRampDownEnd (n : Fin 200) (s : State) : Out :=
  .next (
    let a := arr s n
    match a.ramp with
    | .down l len => countArray (setArr s n { a with ramp := .none }) n (Reg.TA_CNT_RAMP n) (7 * l / 16 * len)
    | _ => s)

/-- Source element of a preload at row i, column j (R131, R132). -/
def preloadVal (s : State) (d : Desc) (f : Fmt) (i j : Nat) : Val :=
  match fld d 9 2 with
  | 0 => f.decode (f.element (readBytes s (descAddr d + i * descPitch d) (f.rowBytes (descNcol d))) j)
  | 1 => f.decode (f.element (readBytes s (descAddr d) (f.rowBytes (descNcol d))) j)
  | 2 => f.decode (f.element (readBytes s (descAddr d) (f.rowBytes (descMt d))) i)
  | _ => .num false 0 0

/-- The source of a preload holds poisoned data (R134). -/
def preloadPoisoned (s : State) (d : Desc) (f : Fmt) : Bool :=
  match fld d 9 2 with
  | 0 => (List.range (descMt d)).any (fun i => readPoison s (descAddr d + i * descPitch d) (f.rowBytes (descNcol d)))
  | 1 => readPoison s (descAddr d) (f.rowBytes (descNcol d))
  | 2 => readPoison s (descAddr d) (f.rowBytes (descMt d))
  | _ => false

/-- The entries after a preload (R133, R134). -/
def preloadEntries (s : State) (a : ArraySt) (d : Desc) (f : Fmt) : ArraySt :=
  let add := bit d 11
  let one (en : Tbl AccEntry) (i j : Nat) : Tbl AccEntry :=
    let x := 256 * i + descEbase d + j
    let g := (lookD a.cols (descEbase d + j) {}).grid
    let r := preloadSum g (preloadVal s d f i j)
    put en x (if add then (lookD en x {}).add r else AccEntry.replace r)
  { a with entries := (List.range (descNcol d)).foldl (fun en j => (List.range (descMt d)).foldl (fun en i => one en i j) en) a.entries }

/-- A preload or drain comes to the head: the head that may start, and the state, in which a streaming pass before it has issued its
last column and the array ramps down (R90). -/
def headBehind (s : State) (n : Nat) : Option QEntry × State :=
  let a := arr s n
  match a.streaming, a.queue with
  | true, p :: e :: _ =>
    if descOp e.desc = 1 || !mayStart a e then (none, s)
    else match retire s n with
      | (false, t) => (none, t)
      | (true, t) => (if behind t n p e then some e else none, rampDown t n p.desc)
  | false, e :: _ => (if mayStart a e then some e else none, s)
  | _, _ => (none, s)

/-- A descriptor leaves the queue from the head, and the next is checked there (R81). -/
def leaveQueue (s : State) (n : Nat) (e : QEntry) (f : ArraySt → ArraySt) : State :=
  let a := arr s n
  settle (admitResumed (setArr s n (f { a with queue := a.queue.filter (fun x => x.id != e.id) })) n) n

/-- A preload whose source reads have all issued claims or checks its columns and writes its values, unless it faults (R114, R129,
R131 to R134). -/
def runPreload (s : State) (n : Nat) (e : QEntry) (anchor : BitVec 10) (f : Fmt) : State :=
  let d := e.desc
  let bad := preloadPoisoned s d f || !(entriesSound (arr s n) d 0 (descNcol d) || descClaims d)
  let claim (a : ArraySt) : ArraySt := { (if descClaims d then claimColumns a d anchor else a) with loaded := 0 }
  if bad then passFault (setArr s n (claim { arr s n with queue := (arr s n).queue.filter (fun x => x.id != e.id) })) n (descKey d)
  else leaveQueue s n e (fun a => preloadEntries s { claim a with preload := some e } d f)

/-- PRELOAD_START (R114, R122, R131 to R134, R137): a preload at the queue head claims or checks its columns and writes its
values; its place is free once its last read has issued. -/
def execPreloadStart (n : Fin 200) (s : State) : Out :=
  .next (
    match headBehind s n with
    | (none, t) => t
    | (some e, t) =>
      let d := e.desc
      let a := arr t n
      if descOp d ≠ 2 || a.preload.isSome || columnsBusy a d || !triggered t d then s
      else if !ownsColumns a d then settle (refuseHead t n e) n
      else match (if descClaims d then claimAnchor t d else some 0), descFmt d 4 with
        | some anchor, some f =>
          match loadThrough t n d (preloadReqs d f) with
          | (false, t) => t
          | (true, t) => runPreload t n e anchor f
        | _, _ => s)

/-- PRELOAD_COMPLETE (R84, R134, R256): the last write completes, the passes behind are released, and it is reported. -/
def execPreloadComplete (n : Fin 200) (s : State) : Out :=
  .next (
    let a := arr s n
    match a.preload with
    | some e => reportDone (setArr s n { a with preload := none }) n e 0
    | none => s)

/-- DRAIN_ENTER (R114, R137, R140): a drain at the queue head moves into the drain unit, which holds two. -/
def execDrainEnter (n : Fin 200) (s : State) : Out :=
  .next (
    match headBehind s n with
    | (none, t) => t
    | (some e, t) =>
      let d := e.desc
      let a := arr t n
      if descOp d ≠ 3 || decide (2 ≤ a.drains.length) || !triggered t d then s
      else if !headOk a d then settle (refuseHead t n e) n
      else leaveQueue t n e (fun a => { a with drains := a.drains ++ [{ entry := e, next := 0, flags := 0 }] }))

/-- The conversion of one drained entry (R51 to R62, R126, R136): its bits and conditions. -/
def drainElem (a : ArraySt) (d : Desc) (f : Fmt) (m : RMode) (i j : Nat) : Nat × FpFlags :=
  let e := descEbase d + j
  let row := (wordOf d 8).toNat + i
  let col := (wordOf d 9).toNat + j
  let k0 := drawK0 (wordOf d 7).toNat (descKey d).orig.toNat (descKey d).item.toNat
  f.convert m (bit d 10) (draw k0 (drawK1 row col (fld d 320 4))) (drainVal (lookD a.entries (256 * i + e) {}) (lookD a.cols e {}))

/-- The flags that one drained column brings (R138). -/
def drainFlags (c : ColRec) (es : List AccEntry) (fs : List FpFlags) : Nat :=
  let f := fs.foldl FpFlags.or {}
  b2n (es.any (·.sat)) + 2 * b2n (es.any (·.inx)) + 4 * b2n (es.any (fun e => e.pinf || e.ninf)) + 8 * b2n (!c.prod)
    + 32 * b2n f.invalid + 64 * b2n f.overflow + 128 * b2n f.underflow + 256 * b2n f.inexact

/-- Change the drain in progress. -/
def setDrain (s : State) (n : Nat) (r : DrainRec) : State :=
  let a := arr s n
  setArr s n { a with drains := r :: a.drains.drop 1 }

/-- The requests with which a drained column is written to memory (R135, R136): each element lies in one line. -/
def columnReqs (d : Desc) (f : Fmt) (j : Nat) : List LineReq :=
  (List.range (descMt d)).map (fun i => ⟨false, descAddr d + i * descPitch d + j * (f.width / 8), f.width / 8, false⟩)

/-- A column that the drain unit has converted is delivered: into the next reserved slot of the ring, rows beyond MT zero, or
to memory, where its writes have been issued under the item's tint (R135, R136, R153, R155). -/
def deliverColumn (s : State) (n : Nat) (d : Desc) (f : Fmt) (j : Nat) (vals : List Nat) : State :=
  if descToRing d then
    let r := ring s (n / 4) (n % 4)
    let ws : List Word := tab 128 (fun i => BitVec.ofNat 32 (vals.getD i 0))
    setRing s (n / 4) (n % 4) { r with slots := r.slots ++ [(descKey d, ws)], reserved := r.reserved - 1 }
  else
    let w := f.width / 8
    (vals.zipIdx).foldl (fun s (v, i) =>
      let x := descAddr d + i * descPitch d + j * w
      noteFar (writeBytes s x (toBytes w v) false) (descKey d) x) s

/-- The column that a drain without KEEP has read is released, where its item holds it (R115). -/
def releaseColumn (a : ArraySt) (d : Desc) (j : Nat) : ArraySt :=
  if !bit d 11 && (lookD a.cols (descEbase d + j) {}).ownedBy (descKey d) then { a with cols := del a.cols (descEbase d + j) } else a

/-- The drain meets an entry that it cannot use (R129, R138): it reports POISON, and the item fails. -/
def poisonDrain (s : State) (n : Nat) (r : DrainRec) : State :=
  let k := descKey r.entry.desc
  failItem (poisonItem (setDrain s n { r with flags := r.flags ||| 16 }) n k) k 2 (arrayDetail s n)

/-- A drain reads its next column, which is sound (R115, R126, R136, R138). -/
def drainColumn (s : State) (n : Nat) (r : DrainRec) (f : Fmt) (m : RMode) : State :=
  let a := arr s n
  let d := r.entry.desc
  let c := lookD a.cols (descEbase d + r.next) {}
  let es := tab (descMt d) (fun i => lookD a.entries (256 * i + descEbase d + r.next) {})
  let xs := tab (descMt d) (fun i => drainElem a d f m i r.next)
  let s := deliverColumn s n d f r.next (xs.map (·.1))
  let s := setDrain s n { r with next := r.next + 1, flags := r.flags ||| BitVec.ofNat 16 (drainFlags c es (xs.map (·.2))) }
  setArr s n (releaseColumn (arr s n) d r.next)

/-- DRAIN_COLUMN_READ (R126, R129, R136 to R138, R140, R153, R155, R443): the next column is read, checked, converted and
delivered; a poisoned column ends the delivery. -/
def execDrainColumnRead (x : DrainRead) (s : State) : Out :=
  let ⟨n, ecc⟩ := x
  .next (
    let a := arr s n
    match a.drains with
    | r :: _ =>
      let d := r.entry.desc
      if descNcol d ≤ r.next || bit r.flags 4 then s
      else match descFmt d 4, RMode.ofCode (fld d 8 2) with
        | some f, some m =>
          let e := descEbase d + r.next
          let place (row : Fin 128) : Fin 128 × Fin 256 := (row, Fin.ofNat 256 e)
          let es := tab (descMt d) (fun i => lookD a.entries (256 * i + e) {})
          if (lookD a.cols e {}).poison then setDrain s n { r with flags := r.flags ||| 16 }
          else match ecc with
            | .uncorrectable row => poisonDrain (uncorrectable s .acc n (entryLoc (place row))).2 n r
            | ecc =>
              if !es.all (·.sound) then poisonDrain s n r
              else
                match (if descToRing d then (true, s) else issueAll s (arrayPort s n d) (columnReqs d f r.next)) with
                | (false, t) => t
                | (true, t) =>
                  let t := match ecc with
                    | .corrected row => correctedEntries t n [place row]
                    | _ => t
                  drainColumn t n r f m
        | _, _ => s
    | [] => s)

/-- SIGTAG of the item of a drain that the dispatcher issued (R165, R368). -/
def signalDrain (s : State) (e : QEntry) : State :=
  let k := descKey e.desc
  match e.issuer, ittOf s k with
  | .dispatcher, some t => let tag := fld t.task 64 16
    if tag = 0 then s else countTag s k tag
  | _, _ => s

/-- DRAIN_COMPLETE (R138, R141, R153, R165, R256, R380): the flags go to TA_DFLAGS, to the ring's FIFO or the issuer, and
to the item; a drain whose item has failed only reports its flags. -/
def execDrainComplete (n : Fin 200) (s : State) : Out :=
  .next (
    let a := arr s n
    match a.drains with
    | r :: rest =>
      let d := r.entry.desc
      if r.next < descNcol d && !bit r.flags 4 then s
      else
        let k := descKey d
        let s := setArr s n { a with drains := rest }
        let s := setRegWord s (Reg.TA_DFLAGS n) (BitVec.ofNat 32 (r.flags.toNat + descSeq d * 2 ^ 16))
        if r.ended then s
        else
          let s := if descToRing d then
              let g := unreserve (ring s (n / 4) (n % 4)) d r.next
              setRing s (n / 4) (n % 4) { g with fifo := g.fifo ++ [(k, r.flags, BitVec.ofNat 16 (descSeq d))] }
            else reportDone s n r.entry r.flags
          signalDrain (addFlags s k r.flags.toNat) r.entry
    | [] => s)

/-- LAKE_WRITE_COMPLETE (R170, R171, R181): the lake write has filled the shadow slot. -/
def execLakeWriteComplete (n : Fin 200) (s : State) : Out :=
  .next (
    let a := arr s n
    match a.lake with
    | some l => setArr s n { a with lake := some { l with done := true } }
    | none => s)

end Sys2Proof.Machine
end

