-- ==== Sys2Proof/Machine/ArrayRegs.lean ====
section
/-! DEFINITION. The meanings of the array and drain-ring register commands (R103 to R107, R142 to R148, R182). -/

namespace Sys2Proof.Machine

/-- The six counters of an array (R108). -/
def arrayCounters (n : Nat) : List Nat :=
  [Reg.TA_CNT_BUSY n, Reg.TA_CNT_OPWAIT n, Reg.TA_CNT_EPIWAIT n, Reg.TA_CNT_TRIGWAIT n, Reg.TA_CNT_PAUSE n, Reg.TA_CNT_RAMP n]

/-- A write of TA_CTRL (R103): CNT_CLEAR sets the counters to zero. -/
def writeTaCtrl (s : State) (n : Nat) (v : Word) : State :=
  let s := storeReg s (Reg.TA_CTRL n) v
  if bit v 3 then (arrayCounters n).foldl (fun s o => setCounter s o 0) s else s

/-- TA_CNT_CLEAR (R103, R108). -/
def execTaCntClear (n : Fin 200) (v : Word) (s : State) : Out :=
  .next (whenLive s (Reg.TA_CTRL n) (fun s => writeTaCtrl s n (v ||| 8#32)))

/-- A write of TA_QSTAT (R105): HIGH_CLR sets HIGH to 0, after which it follows OCC again. -/
def writeTaQstat (s : State) (n : Nat) (v : Word) : State :=
  let s := storeReg s (Reg.TA_QSTAT n) v
  if bit v 17 then noteHigh (setRegFld s (Reg.TA_QSTAT n) 8 5 0) n else s

/-- TA_HIGH_CLR (R105). -/
def execTaHighClr (n : Fin 200) (v : Word) (s : State) : Out :=
  .next (whenLive s (Reg.TA_QSTAT n) (fun s => writeTaQstat s n (v ||| 0x20000#32)))

/-- A write of TA_STOP (R94, R96, R98, R107): in debug mode only; slot is the column in whose slot the stop is seen. Where both bits
are set the model acts on REQ before RESUME (DESIGN CHOICE, log 52). -/
def writeTaStop (s : State) (n : Nat) (v : Word) (slot : Nat) : State :=
  if !debugMode s then s
  else
    let s := if bit v 0 then stopArray s n slot else s
    if bit v 1 then resumeArray s n else s

/-- TA_STOP_REQ (R94, R107). -/
def execTaStopReq (n : Fin 200) (v : Word) (slot : BitVec 9) (s : State) : Out :=
  .next (whenLive s (Reg.TA_STOP n) (fun s => writeTaStop s n (v ||| 1#32) slot.toNat))

/-- TA_STOP_RESUME (R96, R98, R107). DEDUCED, log 20. -/
def execTaStopResume (n : Fin 200) (v : Word) (s : State) : Out :=
  .next (whenLive s (Reg.TA_STOP n) (fun s => writeTaStop s n (v ||| 2#32) 0))

/-- The scrubber of kind ACC is enabled on an array (R130, R471). -/
def scrubsArray (s : State) (n : Nat) : Bool := regBit s Reg.ERR_SCRUB_CTRL 0 && !regBit s (Reg.TA_ACCV_CTRL n) 1

/-- The view holds the service port (R143). -/
def viewHolds (s : State) (n : Nat) : Bool := decide (regFld s (Reg.TA_ACCV_STATUS n) 0 2 = 1)

/-- A write of TA_ACCV_CTRL (R35, R142, R143): EN takes effect in debug mode only; the view is refused while the scrubber
holds the port, and the scrubber while the view does. -/
def writeAccvCtrl (s : State) (n : Nat) (v : Word) : State :=
  let was := scrubsArray s n
  let dbg := debugMode s
  let v' := if dbg then v else setFld v 0 1 (regFld s (Reg.TA_ACCV_CTRL n) 0 1)
  let s := storeReg s (Reg.TA_ACCV_CTRL n) v'
  let s := if scrubsArray s n && !was && viewHolds s n then logConflict s .accReadPort n .debugView .scrubber else s
  if !dbg then s
  else if !bit v 0 then
    setArr (setRegFld s (Reg.TA_ACCV_STATUS n) 0 2 0) n { arr s n with viewPending := false }
  else if viewHolds s n then s
  else if scrubsArray s n && was then
    logConflict (setRegFld s (Reg.TA_ACCV_STATUS n) 0 2 2) .accReadPort n .scrubber .debugView
  else
    let s := setRegFld s (Reg.TA_ACCV_STATUS n) 0 2 1
    if scrubsArray s n then logConflict s .accReadPort n .debugView .scrubber else s

/-- ACCV_EN_WRITE (R35, R142). -/
def execAccvEnWrite (n : Fin 200) (v : Word) (s : State) : Out :=
  .next (whenLive s (Reg.TA_ACCV_CTRL n) (fun s => writeAccvCtrl s n v))

/-- A write of TA_ACCV_SEL (R144): while the view is granted it clears VALID and starts a read. -/
def writeAccvSel (s : State) (n : Nat) (v : Word) : State :=
  let s := storeReg s (Reg.TA_ACCV_SEL n) v
  if viewHolds s n then setArr (clrRegBit s (Reg.TA_ACCV_STATUS n) 2) n { arr s n with viewPending := true } else s

/-- ACCV_SEL_WRITE (R144). -/
def execAccvSelWrite (n : Fin 200) (v : Word) (s : State) : Out :=
  .next (whenLive s (Reg.TA_ACCV_SEL n) (fun s => writeAccvSel s n v))

/-- TA_ACCV_META of an entry with its stored check bits (R146). -/
def accvMeta (e : AccEntry) (corrected uncorr : Bool) (check : BitVec 9) : Nat :=
  let rc := mod7 e.v
  e.res.toNat + rc * 2 ^ 3 + b2n (e.res.toNat ≠ rc) * 2 ^ 6 + b2n corrected * 2 ^ 7 + b2n uncorr * 2 ^ 8
    + b2n e.inx * 2 ^ 9 + b2n e.sat * 2 ^ 10 + b2n e.pinf * 2 ^ 11 + b2n e.ninf * 2 ^ 12
    + check.toNat * 2 ^ 13

/-- The check bits that the view shows (R110, R146): they are stored uncorrected, so where the read found an error they are open
(free, log 74). -/
def storedCheck (s : State) (e : AccEntry) (wrong : Bool) : BitVec 9 × State :=
  if wrong then
    let (w, s) := freeWord s
    (w.setWidth 9, s)
  else (Config.checkBits e.low, s)

/-- ACCV_READ_COMPLETE (R144 to R148): the view registers hold the entry named last; it is read as it stands, and nothing is
corrected or poisoned. -/
def execAccvReadComplete (n : Fin 200) (corrected uncorr : Bool) (s : State) : Out :=
  .next (
    let a := arr s n
    if !a.viewPending || !viewHolds s n then s
    else
      let row := regFld s (Reg.TA_ACCV_SEL n) 0 7
      let col := regFld s (Reg.TA_ACCV_SEL n) 8 8
      let e := lookD a.entries (256 * row + col) {}
      let c := lookD a.cols col {}
      let s := setArr s n { a with viewPending := false }
      let s := (List.range 4).foldl (fun s i => setRegWord s (Reg.TA_ACCV_DATA n i) (wordOf e.value i)) s
      let (check, s) := storedCheck s e (corrected || uncorr)
      let s := setRegWord s (Reg.TA_ACCV_META n) (BitVec.ofNat 32 (accvMeta e corrected uncorr check))
      let s := setRegWord s (Reg.TA_ACCV_COL n) (BitVec.ofNat 32 (c.anchor.toNat + b2n c.anw * 2 ^ 10 + b2n c.owned * 2 ^ 11
        + b2n c.prod * 2 ^ 12 + b2n c.poison * 2 ^ 13 + c.lot.toNat * 2 ^ 16))
      let s := setRegWord s (Reg.TA_ACCV_OWN n) (BitVec.ofNat 32 (c.orig.toNat + c.item.toNat * 2 ^ 16))
      setRegBit s (Reg.TA_ACCV_STATUS n) 2)

/-- The ring may be placed so (R182): in range, within the local store, apart from the other rings, and 256 KiB in all. -/
def ringFits (s : State) (e a base size : Nat) : Bool :=
  let other (b : Nat) : Nat × Nat := (regFld s (Reg.TE_DRING_CFG e b) 0 7, regFld s (Reg.TE_DRING_CFG e b) 8 6)
  let rest := ((List.range 4).filter (fun b => decide (b ≠ a))).map other
  decide (base ≤ 95) && decide (size ≤ 32) && decide (base + size ≤ 96)
    && rest.all (fun (b, z) => decide (z = 0) || decide (size = 0) || decide (base + size ≤ b) || decide (b + z ≤ base))
    && decide ((rest.map (·.2)).foldl (· + ·) size ≤ 64)

/-- A write of TE_DRING_CFG (R152, R182, R183). -/
def writeDringCfg (s : State) (e a : Nat) (v : Word) : State :=
  let r := ring s e a
  if r.slots.isEmpty && decide (r.reserved = 0) && ringFits s e a (fld v 0 7) (fld v 8 6) then storeReg s (Reg.TE_DRING_CFG e a) v
  else setRegBit s (Reg.TE_DRING_STAT e a) 24

/-- DRING_CFG_WRITE (R182). -/
def execDringCfgWrite (e : Fin 50) (a : Fin 4) (v : Word) (s : State) : Out :=
  .next (whenLive s (Reg.TE_DRING_CFG e a) (fun s => writeDringCfg s e a v))

end Sys2Proof.Machine
end

