-- ==== Sys2Proof/Machine/BootBase.lean ====
section
/-! DEFINITION. Starting, completing and failing a start-up step (R525 to R527, R534, R559, R590), and thermal hold (R540). -/

namespace Sys2Proof.Machine

/-- STATE codes of BOOT_STEP (R559). -/
def bsRunning : Nat := 0
/-- Waiting. -/
def bsWaiting : Nat := 1
/-- Failed. -/
def bsFailed : Nat := 2
/-- Ready. -/
def bsReady : Nat := 3
/-- Thermal hold. -/
def bsHold : Nat := 4

/-- BOOT_STEP.STATE. -/
def bootState (s : State) : Nat := regFld s Reg.BOOT_STEP 4 3

/-- Show a step and a state (R559). -/
def showStep (s : State) (k st : Nat) : State := setRegFld (setRegFld s Reg.BOOT_STEP 0 4 k) Reg.BOOT_STEP 4 3 st

/-- The start takes the fast path (R534, R559). -/
def fastPath (s : State) : Bool := regBit s Reg.BOOT_STEP 7

/-- Step k may begin: every step before it is complete, it is not, and the module neither waits nor has failed (R526). DESIGN CHOICE, log 1. -/
def canBegin (s : State) (k : Nat) : Bool := decide (s.boot.done = k) && decide (bootState s = bsRunning)

/-- Step k begins. -/
def beginStep (s : State) (k : Nat) : State :=
  showStep { s with boot := { s.boot with begun := k + 1 } } k bsRunning

/-- The step after k: FUSES is followed by REGIONS on the fast path (R526). -/
def nextStep (s : State) (k : Nat) : Nat := if fastPath s && decide (k = 3) then 8 else k + 1

/-- The module waits before step n: in SUPERVISED always, in AUTO where STOP_AT names it (R525). -/
def waitsBefore (s : State) (n : Nat) : Bool := s.pins.supervised || decide (regFld s Reg.BOOT_CTRL 0 4 = n)

/-- Wait before step n, or go on (R525, R590). -/
def settleStep (s : State) (k n : Nat) : State := if waitsBefore s n then raiseBoot (showStep s k bsWaiting) else showStep s k bsRunning

/-- The newest trip record of the event log is followed by no hold-cleared record (R540). -/
def thermalHold (s : State) : Bool :=
  match s.evlog.reverse.find? (fun r => decide (r.cls = 5) || decide (r.cls = 6)) with
  | some r => decide (r.cls = 5)
  | none => false

/-- Step k completes (R525, R526, R590); after CLOCKS a module in thermal hold waits (R515). -/
def completeStep (s : State) (k : Nat) : State :=
  let n := nextStep s k
  let s := { s with boot := { s.boot with begun := n, done := n } }
  if k = 14 then raiseBoot (showStep s k bsReady)
  else if k = 1 ∧ thermalHold s = true then raiseBoot (showStep (setRegBit s Reg.THM_STATUS 16) k bsHold)
  else settleStep s k n

/-- Step k fails with a code and its detail (R527, R533). -/
def failStep (s : State) (k code detail : Nat) : State :=
  let s := showStep s k bsFailed
  let s := setRegFld s Reg.BOOT_STEP 16 8 code
  let s := setRegWord s Reg.BOOT_FAIL (BitVec.ofNat 32 (detail % 2 ^ 24))
  raiseBoot (logEvent s 1 code [BitVec.ofNat 32 detail])

/-- A write of BOOT_CMD (R525, R527, R558, R560): RETRY acts on a failed step, GO on a waiting module. DEDUCED, log 65. -/
def writeBootCmd (s : State) (v : Word) : State :=
  let k := regFld s Reg.BOOT_STEP 0 4
  if bootState s = bsFailed then (if bit v 1 then showStep s k bsRunning else s)
  else if bootState s = bsWaiting ∧ bit v 0 = true then showStep s k bsRunning
  else s

end Sys2Proof.Machine
end

