-- ==== Sys2Proof/Machine/Repair.lean ====
section
/-! DEFINITION. The field repair log, pending records and bucket leaks (R445, R449, R458, R461 to R464, R466, R472). -/

namespace Sys2Proof.Machine

/-- Records that a half holds beside its header (R462). -/
def halfRoom : Nat := 16383

/-- One above the highest sequence number in the log (R462). -/
def nextRepSeq (r : RepairSt) : Word := BitVec.ofNat 32 (maxNat ((r.log ++ r.held).map (fun x => x.seq.toNat)) + 1)

/-- The log is being compacted (R463). -/
def compacting (s : State) : Bool := regBit s Reg.REP_STATUS 11

/-- Append a record to the half in use; a full half is compacted, and what comes meanwhile follows the copy (R463, R466). -/
def appendRep (s : State) (x : RepRec) : State :=
  let r := s.repair
  if compacting s ∨ halfRoom ≤ r.log.length then
    setRegBit { s with repair := { r with held := r.held ++ [x] } } Reg.REP_STATUS 11
  else
    let s := { s with repair := { r with log := r.log ++ [x] } }
    if halfRoom ≤ r.log.length + 1 then setRegBit s Reg.REP_STATUS 11 else s

/-- Append a record with the next sequence number (R462). DEDUCED, log 64. -/
def logRepair (s : State) (what : Word) (cause : Nat) (wseq : Word) : State :=
  appendRep s ⟨what, BitVec.ofNat 8 cause, nextRepSeq s.repair, regWord s Reg.GLB_POWERON, wseq⟩

/-- A repair made in service: it is logged and enters the merged repair state (R461, R462). -/
def noteRepair (s : State) (what : Word) (cause : Nat) : State := logRepair (markBad s what) what cause 0

/-- A record is live (R463): of KIND 0x1 to 0xA, named by no withdrawal. -/
def recLive (log : List RepRec) (x : RepRec) : Bool :=
  decide (1 ≤ recKind x.what) && decide (recKind x.what ≤ 10)
    && !log.any (fun w => decide (recKind w.what = 0xC) && decide (w.wseq = x.seq))

/-- The live records of the log. -/
def liveRecords (s : State) : List RepRec := s.repair.log.filter (recLive s.repair.log)

/-- The newest power-up record. -/
def newestPowerUp (log : List RepRec) : List RepRec :=
  match log.reverse.find? (fun x => decide (recKind x.what = 0xD)) with
  | some x => [x]
  | none => []

/-- Confirm pending record i (R458): it is written to the log; an index that holds none has no effect (R466). -/
def confirmOne (s : State) (i : Nat) : State :=
  match s.pend[i]? with
  | some p => logRepair { s with pend := s.pend.take i ++ s.pend.drop (i + 1) } p.what p.cause.toNat 0
  | none => s

/-- Confirm every pending record, first in first out. -/
def confirmEvery (s : State) : State :=
  s.pend.foldl (fun s p => logRepair s p.what p.cause.toNat 0) { s with pend := [] }

/-- Withdraw the record that REP_WSEQ names (R464). -/
def withdrawRec (s : State) : State := if debugMode s then logRepair s 0xC#32 0 (regWord s Reg.REP_WSEQ) else s

/-- A write of REP_CMD (R472). -/
def writeRepCmd (s : State) (v : Word) : State :=
  let s := if bit v 0 then confirmOne s (regFld s Reg.REP_PEND_SEL 0 8) else s
  let s := if bit v 1 then confirmEvery s else s
  if bit v 2 then withdrawRec s else s

/-- A compaction ends (R463): the other half takes the live records and the newest power-up record, then what was held; a half
that is full after the copy sets LOG_FULL, a failed flash write LOG_ERR, and what was held is then not logged. -/
def endCompaction (s : State) (ok : Bool) : State :=
  let r := s.repair
  let s := clrRegBit s Reg.REP_STATUS 11
  if !ok then raiseErr { s with repair := { r with held := [] } } 6
  else
    let copy := liveRecords s ++ newestPowerUp r.log
    let s := { s with repair := { r with log := copy, gen := r.gen + 1, held := [] } }
    if halfRoom ≤ copy.length then setRegBit s Reg.REP_STATUS 10 else r.held.foldl appendRep s

/-- The strikes of a channel clear (R449). -/
def clearStrikes (s : State) (ch : Nat) : State :=
  { s with vc := { s.vc with strikes := s.vc.strikes.filter (fun (k, _) => decide (k / 64 ≠ ch)) } }

/-- The strikes of a channel clear whenever its bucket count is 0 (R449). -/
def settleStrikes (s : State) (ch : Nat) : State :=
  if regFld s (Reg.ERR_BKT (BktClass.vc.first + ch)) 0 16 = 0 then clearStrikes s ch else s

/-- CONFIRM. -/
def execConfirm (v : Word) (s : State) : Out :=
  .next (whenLive s Reg.REP_CMD (fun s => writeRepCmd s (v ||| 1#32)))

/-- CONFIRM_ALL. -/
def execConfirmAll (v : Word) (s : State) : Out :=
  .next (whenLive s Reg.REP_CMD (fun s => writeRepCmd s (v ||| 2#32)))

/-- WITHDRAW. -/
def execWithdraw (v : Word) (s : State) : Out :=
  .next (whenLive s Reg.REP_CMD (fun s => writeRepCmd s (v ||| 4#32)))

/-- LOG_COMPACTION: acts while a compaction runs. -/
def execLogCompaction (ok : Bool) (s : State) : Out := .next (if compacting s then endCompaction s ok else s)

/-- BUCKET_LEAK (R445). -/
def execBucketLeak (i : Fin 515) (s : State) : Out :=
  let s := leakBucket s i
  .next (if bktClassOf i = .vc then settleStrikes s (i - BktClass.vc.first) else s)

end Sys2Proof.Machine
end

