-- ==== Sys2Proof/Machine/Link.lean ====
section
/-! DEFINITION. Avolmoth links (R393 to R405, R409, R429 to R433): training and widths, frames, replay, credits, the output
queues, fault injection, and trace capture. -/

namespace Sys2Proof.Machine

/-- A port. -/
def fport (s : State) (q : Nat) : FabPort := lookD s.fab.ports q {}

/-- Change a port. -/
def setFport (s : State) (q : Nat) (p : FabPort) : State := { s with fab := { s.fab with ports := put s.fab.ports q p } }

/-- STATE of a port (R396): 0 DISABLED, 1 DOWN, 2 TRAINING, 3 UP, 4 DEGRADED, 5 ISOLATED. -/
def portState (s : State) (q : Nat) : Nat := regFld s (Reg.FAB_PORT_STAT q) 0 3

/-- The router may use the port (R407). -/
def portUsable (s : State) (q : Nat) : Bool := decide (portState s q = 3) || decide (portState s q = 4)

/-- The port is trained. -/
def portTrained (s : State) (q : Nat) : Bool := decide (3 ≤ portState s q)

/-- This device's serial number (R563). -/
def ownSerial (s : State) : BitVec 64 := regWord s Reg.SEC_SERIAL_HI ++ regWord s Reg.SEC_SERIAL_LO

/-- ASSIGNED (R440). -/
def isAssigned (s : State) : Bool := regBit s Reg.FAB_ID 16

/-- This device manages its domain (R440). -/
def isManager (s : State) : Bool := regBit s Reg.FAB_ID 17

/-- FAB_CFG.DOMAIN (R413). -/
def ownDomain (s : State) : Nat := regFld s Reg.FAB_CFG 1 4

/-- The words of a serial number. DESIGN CHOICE, log 26. -/
def serialWords (x : BitVec 64) : List Word := [x.extractLsb' 0 32, x.extractLsb' 32 32]

/-- Send a CONTROL message (R410 to R412): the words of its body stand in the order that R411 lists what the message carries
(DESIGN CHOICE, log 26). -/
def sendControl (s : State) (dst : Nat) (path : List (Fin 16)) (msg gen : Nat) (words : List Word) : State :=
  let n := s.fab.pseq
  let s := { s with fab := { s.fab with pseq := (n + 1) % 65536 } }
  emit s (.control (BitVec.ofNat 16 dst) path (BitVec.ofNat 8 msg) (BitVec.ofNat 32 gen) (BitVec.ofNat 16 n) words)

/-- The manager's identifier (R413). -/
def managerId (s : State) : Nat := ownId s / 4096 * 4096

/-- Send HELLO on a port (R411, R414). -/
def sendHello (s : State) (q : Nat) : State :=
  let id := BitVec.ofNat 32 (ownId s + b2n (isAssigned s) * 2 ^ 16 + regFld s Reg.FAB_CFG 0 1 * 2 ^ 17 + ownDomain s * 2 ^ 20)
  sendControl s 0 [Fin.ofNat 16 q] 0x01 0 ([id] ++ serialWords (s.fab.mgr.getD 0) ++ [BitVec.ofNat 32 q])

/-- Report a port to the manager (R399, R421); a manager reports its own ports to itself. -/
def sendLinkEvent (s : State) (q : Nat) : State :=
  if isAssigned s then
    sendControl s (managerId s) [] 0x08 0 [BitVec.ofNat 32 q, BitVec.ofNat 32 (regFld s (Reg.FAB_PORT_STAT q) 0 12)]
  else s

/-- The link CRC (R401): the polynomial 0x04C1_1DB7 reflected. -/
def linkCrc (hdr : BitVec 128) (body : List Byte) : Word := crc32 0xEDB88320#32 (bvBytes hdr ++ body)

/-- The bytes of a frame. -/
def frameBytes (f : Frame) : List Byte := bvBytes f.hdr ++ f.body ++ bvBytes f.crc

/-- A field of a frame header (R400). -/
def frFld (f : Frame) (word lo w : Nat) : Nat := fld f.hdr (32 * word + lo) w

/-- A frame with its link CRC (R400, R401). -/
def mkFrame (w0 w1 w2 : Nat) (body : List Byte) : Frame :=
  let h := BitVec.ofNat 128 (w0 + w1 * 2 ^ 32 + w2 * 2 ^ 64)
  ⟨h, body, linkCrc h body⟩

/-- A frame that the port sends now: it carries RSEQ, a NAK that is due, and the freed count of the next pool (R400, R403,
R405). -/
def portFrame (p : FabPort) (ftype seq w1 : Nat) (body : List Byte) : Frame × FabPort :=
  let w0 := ftype + seq * 2 ^ 4 + ((p.rxSeq + 4095) % 4096) * 2 ^ 16 + b2n p.nakDue * 2 ^ 28
  let f := mkFrame w0 w1 (p.cpool + (lookD p.freed p.cpool 0) * 16) body
  (f, { p with due := false, nakDue := false, cpool := (p.cpool + 1) % 9 })

/-- A record of trace capture (R432): the header and the first 48 bytes of the body; what a frame without a body leaves there is
open. DESIGN CHOICE, log 70. -/
def traceFrame (s : State) (q : Nat) (tx : Bool) (f : Frame) : State :=
  let off := Reg.FAB_TRACE_STAT q
  if regBit s (Reg.FAB_TRACE_CTRL q) 0 && decide (regBit s (Reg.FAB_TRACE_CTRL q) 1 = tx) && decide (regFld s off 0 2 = 1) then
    let n := regFld s off 2 9
    let bytes := bvBytes f.hdr ++ f.body.take 48
    let s := (List.range 16).foldl (fun s i =>
      let a := Reg.FAB_TRACE_REC q (16 * n + i)
      if 4 * i < bytes.length then setRegWord s a (BitVec.ofNat 32 (ofBytes ((bytes.drop (4 * i)).take 4)))
      else
        let (w, s) := freeWord s
        setRegWord s a w) s
    setRegFld (setRegFld s off 2 9 (n + 1)) off 0 2 (if n + 1 = 256 then 3 else 1)
  else s

/-- Send a frame. -/
def putFrame (s : State) (q : Nat) (f : Frame) : State := emit (traceFrame s q true f) (.port (Fin.ofNat 16 q) f)

/-- One step of the generator of R431. -/
def fiStep (x : Word) : Word :=
  let x := x ^^^ (x <<< 13)
  let x := x ^^^ (x >>> 17)
  x ^^^ (x <<< 5)

/-- Fault injection of a kind acts on the port (R429, R430). -/
def fiActive (s : State) (q kind : Nat) : Bool := regBit s (Reg.FAB_FI_CTRL q) 2 && decide (regFld s (Reg.FAB_FI_CTRL q) 0 2 = kind)

/-- What a candidate of R431 draws: none where the packet or frame is not one or is not chosen, else the generator's word. -/
def fiDraw (s : State) (q kind tint typ : Nat) : Option Word × State :=
  let c := regWord s (Reg.FAB_FI_CTRL q)
  if fiActive s q kind && bit c (8 + tint) && decide (1 ≤ typ) && decide (typ ≤ 7) && bit c (15 + typ) then
    let p := fport s q
    let x := fiStep p.gen
    let s := setFport s q { p with gen := x }
    if x.toNat % 2 ^ fld c 3 5 = 0 then (some x, s) else (none, s)
  else (none, s)

/-- Flip the bit that a draw names (R431). -/
def flipBit (x : Word) (bytes : List Byte) : List Byte :=
  let i := (x.toNat / 65536) % (8 * bytes.length)
  modAt bytes (i / 8) (fun b => b ^^^ BitVec.ofNat 8 (2 ^ (i % 8)))

/-- The bytes of a packet. -/
def packetBytes (p : Packet) : List Byte := bvBytes p.hdr ++ p.payload

/-- The packet that bytes spell. -/
def bytesPacket (b : List Byte) : Packet := ⟨BitVec.ofNat 512 (ofBytes (b.take 64)), b.drop 64⟩

/-- The frame that bytes spell. -/
def bytesFrame (b : List Byte) : Frame :=
  let n := b.length - 20
  ⟨BitVec.ofNat 128 (ofBytes (b.take 16)), (b.drop 16).take n, BitVec.ofNat 32 (ofBytes (b.drop (16 + n)))⟩

/-- The packet that a port sends next (R409): tint 7 first, the others in turn after the tint served last. -/
def nextTint (p : FabPort) : Option Nat :=
  (7 :: tab 7 (fun i => (p.lastTint + 1 + i) % 7)).find? (fun t => p.queue.any (fun r => decide (r.pkt.tint.toNat = t)))

/-- Begin to send a packet. -/
def startSending (p : FabPort) (r : Routed) : FabPort :=
  { p with sending := some { tint := r.pkt.tint.toNat, typ := r.pkt.typ.toNat, ttl := r.ttl, started := false, rest := packetBytes r.pkt } }

/-- Take the next packet of the queues: fault injection may drop, corrupt or hold it (R430); one packet is held at a time. DESIGN CHOICE, log 36. -/
def takePacket (s : State) (q : Nat) : Option State :=
  let p := fport s q
  match nextTint p with
  | none => none
  | some t =>
    match p.queue.find? (fun r => decide (r.pkt.tint.toNat = t)) with
    | none => none
    | some r =>
      let p := { p with queue := dropFirst (fun x => decide (x.pkt.tint.toNat = t)) p.queue, lastTint := if t = 7 then p.lastTint else t }
      let s := setFport s q p
      let typ := r.pkt.typ.toNat
      let kind := regFld s (Reg.FAB_FI_CTRL q) 0 2
      let (x, s) := if kind = 2 then (none, s) else fiDraw s q kind t typ
      let p := fport s q
      some (match x with
        | none => setFport s q (startSending p r)
        | some x =>
          if kind = 3 ∧ p.held.isSome = true then setFport s q (startSending p r)
          else
            let s := addCounter s (Reg.FAB_CNT_INJ q) 1
            if kind = 0 then s
            else if kind = 1 then setFport s q (startSending p { r with pkt := bytesPacket (flipBit x (packetBytes r.pkt)) })
            else setFport s q { p with held := some r })

/-- Units of a pool (R403). -/
def poolSizeOf (pool : Nat) : Nat := if pool = 8 then 14336 else 256

/-- The pool that has room for a frame of a tint, by what is taken of each pool (R403). DESIGN CHOICE, log 36. -/
def poolFor (used : Tbl Nat) (tint units : Nat) : Option Nat :=
  let fits (k : Nat) : Bool := decide (lookD used k 0 + units ≤ poolSizeOf k)
  if tint < 7 ∧ fits 8 = true then some 8 else if fits tint then some tint else none

/-- Send the next frame of the packet being sent (R402 to R404, R430): none where credits or replay memory lack room. DESIGN CHOICE, log 34. -/
def sendPiece (s : State) (q : Nat) (x : Sending) : Option State :=
  let p := fport s q
  let body := x.rest.take 256
  let units := body.length / 64
  if 2048 ≤ p.replay.length then none
  else match poolFor p.spent x.tint units with
    | none => none
    | some k =>
      let rest := x.rest.drop 256
      let w1 := x.tint + (units - 1) * 8 + b2n (!x.started) * 32 + b2n rest.isEmpty * 64 + x.ttl * 256
      let (f, p) := portFrame p 1 p.txSeq w1 body
      let p := { p with txSeq := (p.txSeq + 1) % 4096, replay := p.replay ++ [f], spent := put p.spent k (lookD p.spent k 0 + units) }
      let p := if rest.isEmpty then
          (match p.held with
            | some r => startSending { p with held := none } r
            | none => { p with sending := none })
        else { p with sending := some { x with started := true, rest := rest } }
      let s := addCounter (setFport s q p) (Reg.FAB_CNT_TXBYTES q) body.length
      let (y, s) := fiDraw s q 2 x.tint x.typ
      some (match y with
        | none => putFrame s q f
        | some y => putFrame (addCounter s (Reg.FAB_CNT_INJ q) 1) q (bytesFrame (flipBit y (frameBytes f))))

/-- The port can send: trained, and no in-service retrain holds its traffic (R399). -/
def portOpen (s : State) (q : Nat) : Bool := portTrained s q && !(fport s q).retraining

/-- Send what the port can send, at most n frames or packets taken. -/
def pumpN (s : State) (q : Nat) : Nat → State
  | 0 => s
  | n + 1 =>
    if portOpen s q then
      match (fport s q).sending with
      | some x => (match sendPiece s q x with
        | some s => pumpN s q n
        | none => s)
      | none => (match takePacket s q with
        | some s => pumpN s q n
        | none => s)
    else s

/-- Frames and packets that a port has still to send. DESIGN CHOICE, log 34. -/
def portWork (p : FabPort) : Nat :=
  let n (b : Nat) : Nat := b / 256 + 2
  (p.queue.map (fun r => n (64 + r.pkt.payload.length))).foldl (· + ·) 0
    + (p.held.toList.map (fun r => n (64 + r.pkt.payload.length))).foldl (· + ·) 0
    + (p.sending.toList.map (fun x => n x.rest.length)).foldl (· + ·) 0

/-- Send what the port can send. -/
def pump (s : State) (q : Nat) : State := pumpN s q (portWork (fport s q))

/-- A packet joins the port's queues (R409). -/
def enqueuePacket (s : State) (q : Nat) (r : Routed) : State :=
  let p := fport s q
  pump (setFport s q { p with queue := p.queue ++ [r] }) q

/-- The link starts anew (R402 to R404): sequence numbers, replay memory, credits, and what was in progress. -/
def resetLink (p : FabPort) : FabPort :=
  let p := { p with txSeq := 0, rxSeq := 0, replay := [], replays := 0, nakSent := false, due := false, nakDue := false }
  { p with spent := [], seen := [], freed := [], inUse := [], cpool := 0, sending := none, receiving := none, retraining := false }

/-- The packets that stand in the port's receive buffer no longer take units of the link's. -/
def releaseUnits (s : State) (q : Nat) : State :=
  { s with fab := { s.fab with arrived := s.fab.arrived.map (fun a => if a.port.val = q then { a with units := [] } else a) } }

/-- Show a port's state, widths and use of spares (R435). -/
def showPort (s : State) (q st txw rxw stx srx : Nat) : State :=
  setRegFld s (Reg.FAB_PORT_STAT q) 0 14 (st + txw * 16 + rxw * 256 + stx * 4096 + srx * 8192)

/-- The port leaves service (R404, R435): DOWN, or DISABLED. DEDUCED, log 35. -/
def leaveLink (s : State) (q st : Nat) : State :=
  let p := fport s q
  let changed := decide (portState s q ≠ st)
  let s := if p.live && decide (st = 1) then raisePort s q 17 else s
  let s := releaseUnits (setFport s q { resetLink p with live := false, hello := none }) q
  let s := showPort s q st 0 0 0 0
  if changed then sendLinkEvent s q else s

/-- The port goes DOWN (R404). -/
def downPort (s : State) (q : Nat) : State := leaveLink s q 1

/-- Full training starts (R397, R434); it is refused while fault injection holds the port's generator (R31, R35, R433). Training
that starts or is refused is one enabling action of link training (R32): from it the generator is held or waited for. -/
def startTraining (s : State) (q : Nat) : State :=
  if regBit s (Reg.FAB_FI_CTRL q) 2 then
    let s := downPort s q
    let s := setFport s q { fport s q with refused := true }
    raisePort (logConflict s .patternGenerator q .faultInjection .linkTraining) q 18
  else
    let p := fport s q
    let s := releaseUnits (setFport s q { resetLink p with hello := none, refused := false }) q
    let changed := decide (portState s q ≠ 2)
    let s := showPort s q 2 0 0 0 0
    if changed then sendLinkEvent s q else s

/-- Lanes that the merged repair state holds bad (R456): KIND 0xA, lane in [15:12], direction in [16]. -/
def badLanes (s : State) (q : Nat) (tx : Bool) : BitVec 9 :=
  (s.repair.merged.filter (fun w => decide (recKind w = 0xA) && decide (recUnit w = q) && decide (bit w 16 = tx))).foldl
    (fun m w => m ||| BitVec.ofNat 9 (2 ^ fld w 12 4)) 0

/-- The width of a direction with these good lanes, and whether lane 8 stands in (R395, R435). -/
def widthOf (s : State) (q : Nat) (good : BitVec 9) : Nat × Nat :=
  let n := popcount 9 good.toNat
  let w := if 8 ≤ n then 8 else if 4 ≤ n then 4 else if 2 ≤ n then 2 else n
  let w := min w (8 / 2 ^ regFld s (Reg.FAB_PORT_CTRL q) 2 2)
  (w, b2n (good.getLsbD 8 && decide (n ≤ w)))

/-- A HELLO shows a cause for ISOLATED (R414). -/
def helloIsolates (s : State) (h : HelloMsg) : Bool :=
  decide (h.serial = ownSerial s)
    || (h.assigned && decide (h.domain.toNat = ownDomain s) && (match s.fab.mgr with
      | some m => decide (m ≠ h.mgrSerial)
      | none => false))

/-- The state that the port's widths and its last HELLO give (R396). -/
def trainedState (s : State) (q tw rw : Nat) : Nat :=
  let iso := match (fport s q).hello with
    | some h => helloIsolates s h
    | none => false
  if iso then 5 else if tw = 8 ∧ rw = 8 then 3 else 4

/-- A spare lane placed in service during operation, which is the only one of its direction (R465, R467): an in-service retrain, or a
full training after FABRIC. -/
def noteSpareLane (s : State) (q stx srx : Nat) (inService : Bool) : State :=
  let p := fport s q
  let was (bit_ : Nat) (good : BitVec 9) : Nat := if inService then regFld s (Reg.FAB_PORT_STAT q) bit_ 1 else (widthOf s q good).2
  let new := decide (was 12 p.txGood < stx) || decide (was 13 p.rxGood < srx)
  if new && (inService || decide (12 ≤ s.boot.done)) then raiseErr (raiseErr s 3) 4 else s

/-- Show the port in the state its widths and HELLO give; the changes are recorded and reported (R396, R399, R414, R421, R435). -/
def settlePort (s : State) (q tw rw stx srx : Nat) : State :=
  let old := regFld s (Reg.FAB_PORT_STAT q) 0 12
  let was := portState s q
  let st := trainedState s q tw rw
  let s := showPort s q st tw rw stx srx
  let s := if st = 5 ∧ was ≠ 5 then raisePort s q 19 else s
  let s := if regFld s (Reg.FAB_PORT_STAT q) 0 12 ≠ old then sendLinkEvent s q else s
  let s := if (st = 3 ∨ st = 4) ∧ ¬ (was = 3 ∨ was = 4) then sendHello s q else s
  pump s q

/-- Training or an in-service retrain has found these good lanes (R395, R399): the widths, and DOWN where a direction has none.
An in-service retrain keeps the link; a width that it changes sets DEGRADE_EV. -/
def trained (s : State) (q : Nat) (tx rx : BitVec 9) (inService : Bool) : State :=
  let tx := tx &&& ~~~badLanes s q true
  let rx := rx &&& ~~~badLanes s q false
  let (tw, stx) := widthOf s q tx
  let (rw, srx) := widthOf s q rx
  if tw = 0 ∨ rw = 0 then downPort s q
  else
    let p := fport s q
    let p := { p with txGood := tx, rxGood := rx, retraining := false, live := true }
    let old := regFld s (Reg.FAB_PORT_STAT q) 4 8
    let s := setFport (noteSpareLane s q stx srx inService) q (if inService then p else resetLink p)
    let s := if inService && decide (old ≠ tw + rw * 16) then raisePort s q 16 else s
    settlePort s q tw rw stx srx

/-- The saved settings of a port are used (R397): its record names this partner and port, and the verification pattern passes. -/
def usesSaved (s : State) (q : Nat) (x : TrainResult) : Bool :=
  match look s.boot.savedFab q with
  | some r => decide (r.serial = x.serial) && decide (r.port = x.port) && x.verified
  | none => false

/-- The port's settings are saved after a full training, where they differ from its record (R398). -/
def saveTraining (s : State) (q : Nat) (x : TrainResult) : State :=
  if portTrained s q && !usesSaved s q x then
    { s with boot := { s.boot with savedFab := put s.boot.savedFab q ⟨x.serial, x.port, x.settings⟩ } }
  else s

/-- An in-service retrain starts, or starts again (R399, R433); it needs the port's generator (R35). DEDUCED, log 35. -/
def startRetrain (s : State) (q : Nat) : State :=
  if regBit s (Reg.FAB_FI_CTRL q) 2 then startTraining s q
  else setFport s q { fport s q with retraining := true }

/-- Replay every frame that is outstanding (R402); after 8 in a row the port retrains in service. -/
def replayFrames (s : State) (q : Nat) : State :=
  let p := fport s q
  if p.replay.isEmpty then s
  else
    let s := addCounter (setFport s q { p with replays := p.replays + 1 }) (Reg.FAB_CNT_REPLAY q) 1
    let s := p.replay.foldl (fun s f => putFrame s q f) s
    if 8 ≤ p.replays + 1 then startRetrain (setFport s q { fport s q with replays := 0 }) q else s

/-- Frames that an RSEQ acknowledges leave the replay memory (R402). -/
def dropAcked (p : FabPort) (rseq : Nat) : FabPort :=
  match idxOf (fun f => decide (frFld f 0 4 12 = rseq)) p.replay with
  | some i => { p with replay := p.replay.drop (i + 1), replays := 0 }
  | none => p

/-- Credits that a frame reports (R403); pools 9 to 15 are reserved. -/
def takeCredits (p : FabPort) (k cfreed : Nat) : FabPort :=
  if 9 ≤ k then p
  else
    let d := (cfreed + 16384 - lookD p.seen k 0) % 16384
    { p with seen := put p.seen k cfreed, spent := put p.spent k (lookD p.spent k 0 - d) }

/-- RSEQ, NAK and credits of a frame whose link CRC holds (R402, R403, R405). -/
def takeFields (s : State) (q : Nat) (f : Frame) : State :=
  let p := takeCredits (dropAcked (fport s q) (frFld f 0 16 12)) (frFld f 2 0 4) (frFld f 2 4 14)
  let s := setFport s q p
  let s := if frFld f 0 28 1 = 1 then replayFrames s q else s
  pump s q

/-- The link CRC holds. -/
def frameSound (f : Frame) : Bool := decide (f.crc = linkCrc f.hdr f.body)

/-- Units that the receiver frees (R403). -/
def freeUnits (p : FabPort) (units : List (Nat × Nat)) : FabPort :=
  units.foldl (fun p (k, n) =>
    { p with freed := put p.freed k ((lookD p.freed k 0 + n) % 16384), inUse := put p.inUse k (lookD p.inUse k 0 - n), due := true }) p

/-- A data frame is discarded (R402): the first discard after an accepted frame is answered by NAK. -/
def discardFrame (p : FabPort) : FabPort := if p.nakSent then p else { p with nakSent := true, nakDue := true, due := true }

/-- A packet has arrived whole: a CONTROL packet for this device goes to the MGC at once, any other waits for the router or for
its destination in this device. DESIGN CHOICE, log 34. -/
def packetArrived (s : State) (q : Nat) (r : Receiving) : State :=
  let pkt := bytesPacket r.bytes
  let local_ := decide (pkt.typ = 6) && (decide (pkt.dst.toNat = ownId s) && !pkt.pathMode || (pkt.pathMode && decide (nfld (pkt.payWord 0) 13 4 + 1 = nfld (pkt.payWord 0) 9 4)))
  if local_ then setFport s q (freeUnits (fport s q) r.units)
  else { s with fab := { s.fab with arrived := s.fab.arrived ++ [⟨Fin.ofNat 16 q, pkt, r.ttl, r.units⟩] } }

/-- An accepted data frame joins its packet (R403, R404); STOMP ends a packet that is to be discarded. DESIGN CHOICE, log 34. DESIGN CHOICE, log 36. -/
def acceptFrame (s : State) (q : Nat) (f : Frame) : State :=
  let p := fport s q
  let n := f.body.length / 64
  let pool := (poolFor p.inUse (frFld f 1 0 3) n).getD (frFld f 1 0 3)
  let p := { p with rxSeq := (p.rxSeq + 1) % 4096, nakSent := false, due := true, inUse := put p.inUse pool (lookD p.inUse pool 0 + n) }
  let old : Option Receiving := if frFld f 1 5 1 = 1 then some ⟨frFld f 1 8 6, [], []⟩ else p.receiving
  let lost := if frFld f 1 5 1 = 1 then (match p.receiving with
      | some r => r.units
      | none => []) else []
  let p := freeUnits p lost
  let s := addCounter (setFport s q { p with receiving := none }) (Reg.FAB_CNT_RXBYTES q) f.body.length
  match old with
  | none => setFport s q (freeUnits (fport s q) [(pool, n)])
  | some r =>
    let r := { r with bytes := r.bytes ++ f.body, units := r.units ++ [(pool, n)] }
    if frFld f 1 7 1 = 1 then setFport s q (freeUnits (fport s q) r.units)
    else if frFld f 1 6 1 = 1 then packetArrived s q r
    else setFport s q { fport s q with receiving := some r }

/-- A frame of a type may be taken: the port is trained. -/
def frameTaken (s : State) (q ftype : Nat) (f : Frame) : Bool := portTrained s q && decide (frFld f 0 0 4 = ftype)

/-- TRAINING_COMPLETE (R395 to R397, R414). DESIGN CHOICE, log 1. -/
def execTrainingComplete (q : Fin 16) (res : TrainResult) (s : State) : Out :=
  .next (if portState s q = 2 then saveTraining (trained s q res.txGood res.rxGood false) q res else s)

/-- TRAINING_RETRY (R397): 1 s after a failed attempt. -/
def execTrainingRetry (q : Fin 16) (s : State) : Out :=
  .next (if portState s q = 1 ∧ regBit s (Reg.FAB_PORT_CTRL q) 0 = true ∧ (fport s q).refused = false then startTraining s q else s)

/-- A write of FAB_PORT_CTRL (R434). -/
def writeFabPortCtrl (s : State) (q : Nat) (v : Word) : State :=
  let off := Reg.FAB_PORT_CTRL q
  let s := storeReg s off v
  if !regBit s off 0 then
    let s := setFport s q { fport s q with refused := false }
    if portState s q = 0 then s else leaveLink s q 0
  else if bit v 1 ∨ portState s q = 0 then startTraining s q
  else s

/-- RETRAIN. DEDUCED, log 14. -/
def execRetrain (q : Fin 16) (v : Word) (s : State) : Out :=
  .next (whenLive s (Reg.FAB_PORT_CTRL q) (fun s => writeFabPortCtrl s q (v ||| 2#32)))

/-- LANE_FAIL (R399, R433): the direction retrains on its remaining lanes. -/
def execLaneFail (q : Fin 16) (tx : Bool) (lane : Fin 9) (s : State) : Out :=
  .next (
    let p := fport s q
    let m := ~~~(1#9 <<< lane.val)
    if portTrained s q && (if tx then p.txGood else p.rxGood).getLsbD lane then
      startRetrain (setFport s q (if tx then { p with txGood := p.txGood &&& m } else { p with rxGood := p.rxGood &&& m })) q
    else s)

/-- IN_SERVICE_RETRAIN_COMPLETE (R399). -/
def execInServiceRetrainComplete (q : Fin 16) (ok : Bool) (s : State) : Out :=
  .next (
    let p := fport s q
    if p.retraining then (if ok then trained s q p.txGood p.rxGood true else downPort s q) else s)

/-- DATA_FRAME (R402 to R404). -/
def execDataFrame (q : Fin 16) (f : Frame) (s : State) : Out :=
  .next (
    if !frameTaken s q 1 f || decide (f.body.length ≠ 64 * (frFld f 1 3 2 + 1)) then s
    else
      let s := traceFrame s q false f
      if !frameSound f then
        setFport (addCounter s (Reg.FAB_CNT_CRCERR q) 1) q (discardFrame (fport s q))
      else
        let s := if frFld f 0 4 12 = (fport s q).rxSeq then acceptFrame s q f else setFport s q (discardFrame (fport s q))
        takeFields s q f)

/-- LINK_CONTROL_FRAME (R405). -/
def execLinkControlFrame (q : Fin 16) (f : Frame) (s : State) : Out :=
  .next (
    if !frameTaken s q 2 f then s
    else
      let s := traceFrame s q false f
      if frameSound f then takeFields s q f else s)

/-- IDLE_FRAME (R400, R403). -/
def execIdleFrame (q : Fin 16) (f : Frame) (s : State) : Out :=
  .next (
    if !frameTaken s q 3 f then s
    else
      let s := traceFrame s q false f
      if frameSound f then takeFields s q f else s)

/-- REPLAY_TIMEOUT (R402). -/
def execReplayTimeout (q : Fin 16) (s : State) : Out := .next (if portOpen s q then replayFrames s q else s)

/-- LINK_CONTROL_SEND (R405). -/
def execLinkControlSend (q : Fin 16) (s : State) : Out :=
  .next (
    if portOpen s q && (fport s q).due then
      let (f, p) := portFrame (fport s q) 2 0 0 []
      putFrame (setFport s q p) q f
    else s)

/-- A port loses its link (R29, R404): one that trains has failed its attempt (R397); one that was trained goes DOWN, and training
starts as the worked case of R35 has it. DEDUCED, log 35. -/
def loseLink (s : State) (q : Nat) : State :=
  if portState s q = 2 then downPort s q
  else if portTrained s q then startTraining (downPort s q) q
  else s

/-- PORT_DOWN. -/
def execPortDown (q : Fin 16) (s : State) : Out := .next (loseLink s q)

/-- REORDER_TIMEOUT (R430): the held packet is sent. -/
def execReorderTimeout (q : Fin 16) (s : State) : Out :=
  .next (
    let p := fport s q
    match p.held, p.sending with
    | some r, none => pump (setFport s q (startSending { p with held := none } r)) q
    | _, _ => s)

/-- What a request to inject meets on a port (R31, R35, R429): locked, the feature that holds what it needs, or nothing. Injection
that is in force holds the generator already, so training cannot (R32). -/
inductive InjectRefusal where
  | locked
  | held (r : Shared) (holder refused : Feature)
  deriving DecidableEq, Repr

/-- Why the port refuses a word written with EN = 1 to FAB_FI_CTRL, if it does. -/
def injectRefusal (s : State) (q : Nat) (v : Word) : Option InjectRefusal :=
  if !regBit s Reg.SEC_STAT 1 then some .locked
  else if portState s q = 2 ∨ (fport s q).retraining = true then some (.held .patternGenerator .linkTraining .faultInjection)
  else if fld v 0 2 = 3 ∧ regBit s (Reg.FAB_TRACE_CTRL q) 0 = true then some (.held .reorderTrace .traceCapture .reorderInjection)
  else none

/-- A write of FAB_FI_CTRL (R31 to R35, R429, R433, R438). A refused request leaves an injection that is in force as it is, its KIND
and EN with it (DESIGN CHOICE, log 36). The end of injection lets refused training ask again. -/
def writeFiCtrl (s : State) (q : Nat) (v : Word) : State :=
  let off := Reg.FAB_FI_CTRL q
  let old := regFld s off 0 3
  let status (s : State) (n : Nat) : State := setRegFld s (Reg.FAB_FI_STAT q) 0 2 n
  if !bit v 2 then
    let s := status (storeReg s off v) 0
    if (fport s q).refused then startTraining s q else s
  else match injectRefusal s q v with
    | some r =>
      let s := storeReg s off (if bit (BitVec.ofNat 32 old) 2 then setFld v 0 3 old else setFld v 2 1 0)
      (match r with
        | .locked => status s 3
        | .held r holder refused => status (logConflict s r q holder refused) 2)
    | none =>
      let s := status (storeReg s off v) 1
      setFport s q { fport s q with gen := regWord s (Reg.FAB_FI_SEED q) }

/-- FI_EN_WRITE. -/
def execFiEnWrite (q : Fin 16) (v : Word) (s : State) : Out :=
  .next (whenLive s (Reg.FAB_FI_CTRL q) (fun s => writeFiCtrl s q v))

/-- A write of FAB_TRACE_CTRL (R35, R432, R439): EN changes in debug mode alone. -/
def writeTraceCtrl (s : State) (q : Nat) (v : Word) : State :=
  let off := Reg.FAB_TRACE_CTRL q
  let status (s : State) (n : Nat) : State := setRegFld s (Reg.FAB_TRACE_STAT q) 0 2 n
  if !debugMode s then storeReg s off (setFld v 0 1 (b2n (regBit s off 0)))
  else if !bit v 0 then status (storeReg s off v) 0
  else if fiActive s q 3 then status (logConflict (storeReg s off (setFld v 0 1 0)) .reorderTrace q .reorderInjection .traceCapture) 2
  else status (setRegFld (storeReg s off v) (Reg.FAB_TRACE_STAT q) 2 9 0) 1

/-- TRACE_EN_WRITE. -/
def execTraceEnWrite (q : Fin 16) (v : Word) (s : State) : Out :=
  .next (whenLive s (Reg.FAB_TRACE_CTRL q) (fun s => writeTraceCtrl s q v))

end Sys2Proof.Machine
end

