-- ==== Sys2Proof/Machine/Origin.lean ====
section
/-! DEFINITION. Completion entries, and what a device fault does (R29, R375 to R377, R385 to R387, R597). -/

namespace Sys2Proof.Machine

/-- What a completion entry reports (R386). -/
structure CqSpec where
  item : BitVec 13
  state : Nat
  final : Bool := false
  rejected : Bool := false
  code : Nat := 0
  detail : Nat := 0
  lot : Nat := 0
  exec : Nat := 0
  flags : Nat := 0
  cookie : BitVec 64 := 0
  deriving DecidableEq, Repr

/-- The 32 bytes of a completion entry with P = 0 (R386). -/
def CqSpec.words (q : CqSpec) : BitVec 256 :=
  let w : List Nat := [
    q.item.toNat + (q.state % 8) * 2 ^ 16 + b2n q.final * 2 ^ 19 + b2n q.rejected * 2 ^ 20,
    q.code % 256 + (q.detail % 2 ^ 24) * 256,
    q.lot % 2 ^ 16 + (q.exec % 2 ^ 16) * 2 ^ 16,
    q.flags % 1024, q.cookie.toNat % 2 ^ 32, q.cookie.toNat / 2 ^ 32]
  BitVec.ofNat 256 (w.foldr (fun x acc => x + acc * 2 ^ 32) 0)

/-- A ring pair is enabled (R387). -/
def ringOn (s : State) (r : Nat) : Bool := regBit s (Reg.DSP_RING_CFG r) 16

/-- Entries of the completion ring. -/
def cqSize (s : State) (r : Nat) : Nat := 2 ^ regFld s (Reg.DSP_RING_CFG r) 8 5

/-- Entries of the submission ring. -/
def sqSize (s : State) (r : Nat) : Nat := 2 ^ regFld s (Reg.DSP_RING_CFG r) 0 5

/-- Free entries of the completion ring: one entry stays free (R387). -/
def cqRoom (s : State) (r : Nat) : Nat :=
  let n := cqSize s r
  let used := (regFld s (Reg.DSP_CQ_TAIL r) 0 16 + n - regFld s (Reg.DSP_CQ_HEAD r) 0 16) % n
  n - 1 - used

/-- An entry becomes due (R387): it waits behind the others of its ring, and CQ_WAIT shows a wait for room or for an enabled
ring. -/
def dueEntry (s : State) (ring : Fin 64) (q : CqSpec) (final : Option (BitVec 13)) : State :=
  let ahead := (s.items.held.filter (fun h => decide (h.ring = ring))).length
  let waits := !ringOn s ring || decide (cqRoom s ring ≤ ahead)
  let s := { s with items := { s.items with held := s.items.held ++ [⟨ring, q.words, final⟩] } }
  if waits then setRegBit s (Reg.DSP_RING_STAT ring) 1 else s

/-- The counter of a completion entry (R391). -/
def entryCounter (w : BitVec 256) : Option Nat :=
  match fld w 16 3, bit w 19 with
  | 3, true => some Reg.DSP_CNT_DONE
  | 4, true => some Reg.DSP_CNT_FAILED
  | 5, false => some Reg.DSP_CNT_SUPERSEDED
  | 6, true => some Reg.DSP_CNT_ABANDONED
  | _, _ => none

/-- The host stop writes the oldest entry due to a ring once the ring is enabled, has room and Bus Master Enable is 1 (R386,
R387, R569); the item it ends is freed, and the ring's vector follows it (R580). -/
def writeEntry (s : State) (ring : Fin 64) : State :=
  match s.items.held.find? (fun h => decide (h.ring = ring)) with
  | none => s
  | some h =>
    if !ringOn s ring || decide (cqRoom s ring = 0) || !s.host.bme then s
    else
      let tail := regFld s (Reg.DSP_CQ_TAIL ring) 0 16
      let pass := lookD s.items.wraps ring 0
      let w := setFld h.words 31 1 (b2n (decide (pass % 2 = 0)))
      let base := (regWord s (Reg.DSP_CQ_BASE_LO ring)).toNat + (regWord s (Reg.DSP_CQ_BASE_HI ring)).toNat * 2 ^ 32
      let s := emit s (.hostWrite (BitVec.ofNat 64 (base + 32 * tail)) (bvBytes w))
      let next := (tail + 1) % cqSize s ring
      let s := setRegFld s (Reg.DSP_CQ_TAIL ring) 0 16 next
      let it := s.items
      let it := { it with held := dropFirst (fun x => decide (x = h)) it.held }
      let it := if next = 0 then { it with wraps := put it.wraps ring (pass + 1) } else it
      let it := match h.final with
        | some i => { it with orig := del it.orig i.toNat }
        | none => it
      let s := { s with items := it }
      let s := match entryCounter h.words with
        | some c => addCounter s c 1
        | none => s
      if regBit s (Reg.DSP_RING_CFG ring) 17 then triggerVector s ⟨ring.val, by omega⟩ else s

/-- Write every due entry that can be written. -/
def writeEntries (s : State) : State := s.items.held.foldl (fun s h => writeEntry s h.ring) s

/-- The item of a number in the origination table. -/
def origOf (s : State) (i : BitVec 13) : Option OrigEntry := look s.items.orig i.toNat

/-- Change the origination entry of a number. -/
def setOrig (s : State) (i : BitVec 13) (o : OrigEntry) : State :=
  { s with items := { s.items with orig := put s.items.orig i.toNat o } }

/-- An item's final completion entry is decided (R375, R381). -/
def decideItem (s : State) (i : BitVec 13) (o : OrigEntry) (st : ItemState) (code detail lot exec flags : Nat) : State :=
  let q : CqSpec := { item := i, state := st.code, final := true, code := code, detail := detail, lot := lot, exec := exec }
  dueEntry (setOrig s i { o with decided := true, state := st }) o.cq { q with flags := flags, cookie := o.cookie } (some i)

/-- The host link is up (R588). -/
def linkUp (s : State) : Bool := decide (regFld s Reg.GLB_HSTAT 0 3 ≠ 0)

/-- The reports of R376: every live item's RESULT, every pending RESULT again, and while the host link is up a FAILED completion
entry for every item of the origination table. DEDUCED, log 43. -/
def reportFault (s : State) (cause : Nat) : State :=
  let pend := s.items.sent.filter (fun x => decide (x.pkt.typ.toNat = ptResult))
  let s := pend.foldl (fun s x => emit s (.packet x.pkt)) s
  let s := (s.items.itt.map (·.key)).foldl (fun s k => failItem s k 0x0A cause) s
  if linkUp s then
    writeEntries (s.items.orig.foldl (fun s (i, o) =>
      if o.decided then s else decideItem s (BitVec.ofNat 13 i) o .failed 0x0A cause o.lot.toNat o.dst.toNat 0) s)
  else s

/-- What the dies held is lost with their rails (R343, R375, R513): arrays, engines, Rilaz, GDDR7, staging, items. -/
def loseCore (s : State) : State :=
  let s := { s with arrays := [], engines := [], mem := [], poison := [], sc := {}, vc := {}, tint := {}, movers := [], items := {} }
  let near : NearSt := { base := s.fresh }
  let far : FarSt := { modules := s.far.modules }
  { s with near := near, far := far, fresh := s.fresh + 2 ^ 48, power := {}, fab := {} }

/-- The core rails drop (R513, R593, R597, R604). -/
def dropRails (s : State) : State :=
  let s := loseCore s
  { s with pins := { s.pins with pwrGood := false, coreUp := false, railsFault := true } }

/-- A device fault (R29, R376): an event of class 0x09, the reports, and the rails drop. DEDUCED, log 43. -/
def deviceFault (s : State) (cause : Nat) : State :=
  dropRails (reportFault (logEvent s 9 cause []) cause)

end Sys2Proof.Machine
end

