-- ==== Sys2Proof/Machine/Fabric.lean ====
section
/-! DEFINITION. The packet router and the member's side of the hierarchy (R378, R406 to R418, R421 to R426, R440, R441). -/

namespace Sys2Proof.Machine

/-- A packet leaves the receive buffer of its port (R403). -/
def takeArrived (s : State) (q : Nat) (pkt : Packet) : State :=
  let mine (a : Arrived) : Bool := decide (a.port.val = q) && decide (a.pkt = pkt)
  match s.fab.arrived.find? mine with
  | none => s
  | some a =>
    let s := { s with fab := { s.fab with arrived := dropFirst mine s.fab.arrived } }
    setFport s q (freeUnits (fport s q) a.units)

/-- A packet from a port leaves the receive buffer; one from a local source, port 16, has none. -/
def takeFrom (s : State) (from_ : Fin 17) (pkt : Packet) : State := if from_.val < 16 then takeArrived s from_ pkt else s

/-- A packet that the router cannot send (R406, R407, R412). -/
def noRoute (s : State) : State := addCounter s Reg.FAB_CNT_NOROUTE 1

/-- HIDX of a path-mode packet (R410). -/
def pathHidx (p : Packet) : Nat := nfld (p.payWord 0) 13 4

/-- HOPS. -/
def pathHops (p : Packet) : Nat := nfld (p.payWord 0) 9 4

/-- PATH at a hop. -/
def pathPort (p : Packet) (h : Nat) : Nat := nfld (p.payWord 1 + p.payWord 2 * 2 ^ 32) (4 * h) 4

/-- A receiving device records the arrival port and counts the hop (R412). -/
def recordHop (p : Packet) (q : Nat) : Packet :=
  let h := pathHidx p
  let w0 := (BitVec.ofNat 32 (p.payWord 0))
  let r := BitVec.ofNat 64 (p.payWord 3 + p.payWord 4 * 2 ^ 32)
  let pay := bvBytes (setFld w0 13 4 (h + 1)) ++ (p.payload.drop 4).take 8 ++ bvBytes (setFld r (4 * h) 4 q) ++ p.payload.drop 20
  { p with payload := pay }

/-- A path-mode packet (R412): it follows its path; an ISOLATED port takes it only with HOPS = 1. -/
def forwardPath (s : State) (from_ : Fin 17) (pkt : Packet) (ttl : Nat) : State :=
  let inner := decide (from_.val < 16)
  if inner && decide (15 ≤ pathHidx pkt) then noRoute (takeFrom s from_ pkt)
  else
    let p := if inner then recordHop pkt from_ else pkt
    let h := pathHidx p
    if inner && decide (h = pathHops p) then s
    else
      let s := takeFrom s from_ pkt
      let q := pathPort p h
      if h < 15 ∧ (portUsable s q || (decide (portState s q = 5) && decide (pathHops p = 1))) = true then enqueuePacket s q ⟨p, ttl⟩ else noRoute s

/-- The port that an entry gives (R407, R420). -/
def routePort (s : State) (e : Word) : Option Nat :=
  if bit e 8 && portUsable s (fld e 0 4) then some (fld e 0 4)
  else if bit e 9 && portUsable s (fld e 4 4) then some (fld e 4 4)
  else none

/-- The index of the route entry for a destination (R406): a device entry, or from 4,096 on a domain entry. -/
def routeIndex (s : State) (dst : Nat) : Nat := if dst / 4096 = ownId s / 4096 then dst % 4096 else 4096 + dst / 4096

/-- The route entry for a destination (R406); one with an uncorrectable error is invalid (R443). -/
def routeEntry (s : State) (dst : Nat) : Word :=
  let i := routeIndex s dst
  if s.fab.badRoutes.contains i then 0
  else if i < 4096 then regWord s (Reg.FAB_ROUTE_DEV i) else regWord s (Reg.FAB_ROUTE_DOM (i - 4096))

/-- The router reads the route tables for a packet (R406). -/
def readsRoute (s : State) (pkt : Packet) : Bool := !pkt.pathMode && isAssigned s && decide (pkt.dst.toNat ≠ ownId s)

/-- What SEC-DED finds in the route entry that a packet reads (R443). -/
def checkRoute (s : State) (pkt : Packet) : ReadCheck → State
  | .clean => s
  | .corrected loc => if readsRoute s pkt then (correctedError s .dxc 0 loc).2 else s
  | .uncorrectable loc =>
    if readsRoute s pkt then
      (uncorrectable { s with fab := { s.fab with badRoutes := insNat s.fab.badRoutes (routeIndex s pkt.dst.toNat) } } .dxc 0 loc).2
    else s

/-- The router sends a packet by the first rule that applies (R406 to R408, R412); a packet for this device stays for its own
command. -/
def forwardPacket (s : State) (from_ : Fin 17) (pkt : Packet) (ttl : Nat) : State :=
  let inner := decide (from_.val < 16)
  let ttl0 := if inner then ttl else 63
  if pkt.pathMode then forwardPath s from_ pkt ttl0
  else if !isAssigned s then noRoute (takeFrom s from_ pkt)
  else if pkt.dst.toNat = ownId s then s
  else
    let s := takeFrom s from_ pkt
    if inner && decide (ttl0 = 0) then addCounter s Reg.FAB_CNT_TTLDROP 1
    else match routePort s (routeEntry s pkt.dst.toNat) with
      | some q => enqueuePacket s q ⟨pkt, if inner then ttl0 - 1 else ttl0⟩
      | none => noRoute s

/-- PACKET_FORWARD. -/
def execPacketForward (from_ : Fin 17) (pkt : Packet) (hop : Hop) (s : State) : Out :=
  .next (forwardPacket (checkRoute s pkt hop.ecc) from_ pkt hop.ttl.toNat)

/-- An ITT entry ends and is freed without RESULT (R378, R425). -/
def endSilently (s : State) (k : ItemKey) : State :=
  let s := leaveItt (endWork s k) k
  let mine (x : SentPkt) : Bool := (decide (x.pkt.typ.toNat = ptResult) && decide (x.pkt.key = k)) || decide (x.owner = some k)
  { s with items := { s.items with sent := s.items.sent.filter (fun x => !mine x) } }

/-- Originators have left (R378): their items end, their keys and trigger entries go. -/
def originatorsLeft (s : State) (p : BitVec 16 → Bool) : State :=
  let s := ((s.items.itt.filter (fun e => p e.key.orig)).map (·.key)).foldl endSilently s
  let it := s.items
  { s with items := { it with recent := it.recent.filter (fun k => !p k.orig), trig := it.trig.filter (fun t => !p t.key.orig) } }

/-- The old identity ends (R425): its ITT entries, its kept packets, and every item of its origination table. -/
def voidIdentity (s : State) : State :=
  let s := (s.items.itt.map (·.key)).foldl endSilently s
  let s := { s with items := { s.items with sent := [] } }
  s.items.orig.foldl (fun s (i, o) =>
    if o.decided then s else decideItem s (BitVec.ofNat 13 i) o .failed 0x0C o.dst.toNat o.lot.toNat o.dst.toNat 0) s

/-- A trained port takes the state that its HELLO and widths now give. -/
def resettlePort (s : State) (q : Nat) : State :=
  let off := Reg.FAB_PORT_STAT q
  settlePort s q (regFld s off 4 4) (regFld s off 8 4) (regFld s off 12 1) (regFld s off 13 1)

/-- The identifier or the manager has changed (R414): HELLO goes out on every trained port, an ISOLATED one too, which carries nothing
else; a port that this releases has sent its HELLO already. -/
def announce (s : State) : State :=
  (List.range 16).foldl (fun s q =>
    if portTrained s q then
      let was := portUsable s q
      let s := resettlePort s q
      if was || !portUsable s q then sendHello s q else s
    else s) s

/-- Take an identifier and a manager (R413, R440). -/
def takeIdentity (s : State) (id : Nat) (mgr : BitVec 64) : State :=
  let same := isAssigned s && decide (ownId s = id) && decide (s.fab.mgr = some mgr)
  let s := setRegBit (setRegFld s Reg.FAB_ID 0 16 id) Reg.FAB_ID 16
  let s := { s with fab := { s.fab with mgr := some mgr, mgrLost := false } }
  if same then s else announce s

/-- ASSIGNED clears (R424, R433). -/
def dropIdentity (s : State) : State :=
  let s := clrRegBit s Reg.FAB_ID 16
  announce { s with fab := { s.fab with mgr := none, routed := false } }

/-- FAB_JOIN_STAT.JSTATE. -/
def joinState (s : State) : Nat := regFld s Reg.FAB_JOIN_STAT 0 2

/-- JOIN completes (R417). -/
def completeJoin (s : State) : State :=
  let s := setRegFld s Reg.FAB_JOIN_STAT 0 2 2
  if s.boot.done = 12 ∧ bootState s = bsRunning then completeStep s 12 else s

/-- A worker has joined once it holds an identifier and a route set (R417). -/
def checkWorkerJoin (s : State) : State :=
  if joinState s = 1 ∧ isManager s = false ∧ isAssigned s = true ∧ s.fab.routed = true then completeJoin s else s

/-- What a device tells of a port (R411). -/
def portDesc (s : State) (q : Nat) : PortDesc :=
  let st := regWord s (Reg.FAB_PORT_STAT q)
  let (serial, port, dom) : BitVec 64 × Fin 16 × BitVec 4 := match (fport s q).hello with
    | some h => (h.serial, h.port, h.domain)
    | none => (0, 0, 0)
  { state := st.extractLsb' 0 3, txw := st.extractLsb' 4 4, rxw := st.extractLsb' 8 4, partnerSerial := serial, partnerPort := port,
    partnerDomain := dom }

/-- The words of a port's description. DESIGN CHOICE, log 26. -/
def portWords (d : PortDesc) : List Word :=
  let a := d.state.toNat + d.txw.toNat * 16 + d.rxw.toNat * 256 + d.partnerPort.val * 4096 + d.partnerDomain.toNat * 65536
  BitVec.ofNat 32 a :: serialWords d.partnerSerial

/-- PROBE (R411, R412): the description goes back along the reverse of RPATH. -/
def execProbe (q : Fin 16) (_mgrSerial : BitVec 64) (rpath : List (Fin 16)) (s : State) : Out :=
  .next (
    if portUsable s q then
      let head : Nat := regFld s Reg.FAB_CFG 0 1 + ownDomain s * 2 + ownId s * 2 ^ 8 + b2n (isAssigned s) * 2 ^ 24
      sendControl s 0 rpath.reverse 0x03 0 (BitVec.ofNat 32 head :: ((List.range 16).map (fun i => portWords (portDesc s i))).flatten)
    else s)

/-- ASSIGN (R418, R424, R425): refused where another manager's assignment was accepted and that manager is not lost; REASON then tells
FOREIGN_MGR, JSTATE stays (DEDUCED, log 37). -/
def execAssign (q : Fin 16) (m : AssignMsg) (s : State) : Out :=
  .next (
    if !portUsable s q || isManager s then s
    else
      let foreign := match s.fab.mgr with
        | some x => isAssigned s && decide (x ≠ m.mgrSerial) && !s.fab.mgrLost
        | none => false
      let ack (s : State) (reason : Nat) : State := sendControl s (m.devId.toNat / 4096 * 4096) [] 0x05 0 [BitVec.ofNat 32 reason]
      if foreign then ack (setRegFld s Reg.FAB_JOIN_STAT 8 8 3) 3
      else
        let moved := isAssigned s && decide (ownId s ≠ m.devId.toNat)
        let s := if m.rejoin || moved then voidIdentity s else s
        checkWorkerJoin (ack (takeIdentity s m.devId.toNat m.mgrSerial) 0))

/-- Install route entries (R420, R421, R442); an entry that is written is no longer in error (R443). -/
def installRoutes (s : State) (first : Nat) (entries : List Word) : State :=
  entries.zipIdx.foldl (fun s (e, i) =>
    let n := first + i
    let w := e &&& 0xFF03FF#32
    let s := { s with fab := { s.fab with badRoutes := s.fab.badRoutes.filter (fun x => decide (x ≠ n)) } }
    if n < 4096 then setRegWord s (Reg.FAB_ROUTE_DEV n) w else if n < 4112 then setRegWord s (Reg.FAB_ROUTE_DOM (n - 4096)) w else s) s

/-- ROUTE_SET (R421, R433): installed at an equal or newer generation; ROUTE_ACK reports the generation installed. -/
def execRouteSet (m : RouteSetMsg) (s : State) : Out :=
  .next (
    if !isAssigned s || isManager s || decide (4080 < m.entries.length) then s
    else
      let s := if (regWord s Reg.FAB_ROUTE_GEN).toNat ≤ m.gen.toNat then
          let s := setRegWord (installRoutes s m.first.toNat m.entries) Reg.FAB_ROUTE_GEN m.gen
          { s with fab := { s.fab with routed := true } }
        else s
      let s := sendControl s (managerId s) [] 0x07 (regWord s Reg.FAB_ROUTE_GEN).toNat (serialWords (ownSerial s))
      checkWorkerJoin s)

/-- The domain whose manager is the federation manager, as far as this manager knows (R427). -/
def fedDomain (s : State) : Nat := s.fab.toDomain.foldl (fun m x => min m x.1) (ownDomain s)

/-- HEARTBEAT (R422, R426, R428). -/
def execHeartbeat (mgrSerial : BitVec 64) (s : State) : Out :=
  .next (
    if isAssigned s && (isManager s || decide (s.fab.mgr = some mgrSerial)) then
      let dst := if isManager s then fedDomain s * 4096 else managerId s
      sendControl { s with fab := { s.fab with mgrLost := false } } dst [] 0x0A 0 (serialWords (ownSerial s))
    else s)

/-- MANAGER_LOSS (R426): routes and work are kept. -/
def execManagerLoss (s : State) : Out :=
  .next (
    if isAssigned s && !isManager s then
      withCause 4 (fun s => setRegBit { s with fab := { s.fab with mgrLost := true } } Reg.FAB_ID 19) s
    else s)

/-- JOIN_WAIT_TIMEOUT (R417). -/
def execJoinWaitTimeout (s : State) : Out :=
  .next (if joinState s = 1 ∧ isManager s = false then withCause 4 (fun s => setRegBit s Reg.FAB_JOIN_STAT 16) s else s)

/-- A FAB_CMD write is discarded (R441). -/
def refuseFabCmd (s : State) : State := setRegBit s Reg.FAB_JOIN_STAT 18

/-- LEAVE (R424): it takes effect only while no ITT entry and no origination entry is in use. A device that holds no identifier, as one
that LEFT has named, has left already: its LEAVE is discarded (R433; DEDUCED, log 37). -/
def leaveDomain (s : State) : State :=
  if isAssigned s && s.items.itt.isEmpty && s.items.orig.isEmpty then
    dropIdentity (sendControl s (managerId s) [] 0x0C 0 (serialWords (ownSerial s)))
  else refuseFabCmd s

end Sys2Proof.Machine
end

