-- ==== Sys2Proof/Machine/Manager.lean ====
section
/-! DEFINITION. The manager of a domain and the federation manager (R414 to R428, R441). -/

namespace Sys2Proof.Machine

/-- This device as the manager describes itself. -/
def selfDesc (s : State) : ProbeReplyMsg :=
  { serial := ownSerial s, role := true, domain := BitVec.ofNat 4 (ownDomain s), devId := BitVec.ofNat 16 (ownId s), assigned := true,
    path := [], ports := (List.range 16).map (portDesc s) }

/-- The port carries routed traffic. -/
def descUsable (d : PortDesc) : Bool := decide (d.state = 3) || decide (d.state = 4)

/-- Members that have accepted their identifier. -/
def joined (s : State) : List Member := s.fab.members.filter (·.accepted)

/-- The identifier of a member (R413). -/
def memberId (s : State) (m : Member) : Nat := ownDomain s * 4096 + m.index

/-- Change a member by its serial number. -/
def setMember (s : State) (serial : BitVec 64) (f : Member → Member) : State :=
  { s with fab := { s.fab with members := s.fab.members.map (fun m => if m.desc.serial = serial then f m else m) } }

/-- A member by its serial number. -/
def memberOf (s : State) (serial : BitVec 64) : Option Member := s.fab.members.find? (fun m => decide (m.desc.serial = serial))

/-- FAB_MGR_STAT.MEMBERS, the manager included (R441). -/
def countMembers (s : State) : State :=
  setRegFld s Reg.FAB_MGR_STAT 0 13 (if isManager s then (joined s).length + 1 else 0)

/-- A link of a graph (R419): the node it leaves, its port, the node it reaches, its cost. -/
structure Edge where
  src : Nat
  port : Nat
  dst : Nat
  cost : Nat
  deriving DecidableEq, Repr

/-- Cost, hops and first port, in the order of R419's tie rules. -/
structure PathCost where
  cost : Nat
  hops : Nat
  port : Nat
  deriving DecidableEq, Repr

/-- The first is the better path (R419). -/
def PathCost.better (a b : PathCost) : Bool :=
  decide (a.cost < b.cost) || (decide (a.cost = b.cost) && (decide (a.hops < b.hops) || (decide (a.hops = b.hops) && decide (a.port < b.port))))

/-- The better of two where both exist. -/
def bestOf (a : Option PathCost) (b : PathCost) : Option PathCost :=
  match a with
  | some x => if b.better x then some b else some x
  | none => some b

/-- One round of relaxation of the least paths to a node, none through a removed node. -/
def relax (edges : List Edge) (removed : Nat) (dist : Tbl PathCost) : Tbl PathCost :=
  edges.foldl (fun d e =>
    if e.src = removed ∨ e.dst = removed then d
    else match look d e.dst with
      | some x =>
        let y : PathCost := ⟨e.cost + x.cost, x.hops + 1, e.port⟩
        (match bestOf (look d e.src) y with
          | some z => put d e.src z
          | none => d)
      | none => d) dist

/-- Least paths to a node, none through a removed node. -/
def distTo (edges : List Edge) (n removed dst : Nat) : Tbl PathCost :=
  (List.range n).foldl (fun d _ => relax edges removed d) [(dst, ⟨0, 0, 0⟩)]

/-- What a node can choose toward another (R419): for each of its links the least path that begins with it. -/
def choices (edges : List Edge) (n a b : Nat) : List PathCost :=
  let d := distTo edges n a b
  (edges.filter (fun e => decide (e.src = a))).filterMap (fun e => (look d e.dst).map (fun x => ⟨e.cost + x.cost, x.hops + 1, e.port⟩))

/-- Primary and alternate path (R419). -/
def primaryAlt (l : List PathCost) : Option PathCost × Option PathCost :=
  let p := l.foldl bestOf none
  (p, (l.filter (fun x => match p with
    | some y => decide (x.port ≠ y.port)
    | none => false)).foldl bestOf none)

/-- A route entry (R420). -/
def entryWord (p alt : Option PathCost) : Nat :=
  match p with
  | none => 0
  | some x => x.port + 2 ^ 8 + x.hops % 256 * 2 ^ 16 + (match alt with
    | some y => y.port * 16 + 2 ^ 9
    | none => 0)

/-- The nodes of the domain: this device and its members. -/
def domainNodes (s : State) : List (Nat × ProbeReplyMsg) := (0, selfDesc s) :: (joined s).map (fun m => (m.index, m.desc))

/-- The links of the domain that are UP or DEGRADED, node by node (R419). -/
def domainEdges (s : State) : List Edge :=
  let ns := domainNodes s
  (ns.zipIdx.map (fun (x, i) =>
    (x.2.ports.zipIdx.filterMap (fun (p, q) =>
      if descUsable p && decide (p.partnerDomain.toNat = ownDomain s) then
        (idxOf (fun (y : Nat × ProbeReplyMsg) => decide (y.2.serial = p.partnerSerial)) ns).map (fun j => ⟨i, q, j, 8 / max 1 p.txw.toNat⟩)
      else none)))).flatten

/-- The entries of a node (R419, R427): by device index, and from 4,096 by domain. -/
def routesOf (s : State) (a : Nat) : Tbl Nat :=
  let ns := domainNodes s
  let es := domainEdges s
  let dev := ns.zipIdx.foldl (fun (t : Tbl Nat) (x, j) =>
    if j = a then t
    else
      let (p, alt) := primaryAlt (choices es ns.length a j)
      if p.isSome then put t x.1 (entryWord p alt) else t) ([] : Tbl Nat)
  let own := (ns[a]?.map (·.1)).getD 0
  s.fab.toDomain.foldl (fun t (d, l) =>
    if d = ownDomain s then t
    else if l.index.toNat = own then put t (4096 + d) (entryWord (some ⟨0, 1, l.port⟩) none)
    else match look dev l.index.toNat with
      | some w => put t (4096 + d) (w + 2 ^ 16)
      | none => t) dev

/-- Send the entries in which two tables differ, the one that the member has acknowledged and its new one, as ROUTE_SET messages of at most 4,080 entries (R411, R421). -/
def sendRouteSet (s : State) (m : Member) (gen : Nat) (old new : Tbl Nat) : State :=
  let keys := ((old ++ new).map (·.1)).filter (fun k => decide (look old k ≠ look new k))
  match keys with
  | [] => sendControl s 0 m.desc.path 0x06 gen [0, 0]
  | k :: t =>
    let lo := t.foldl min k
    let hi := t.foldl max k
    (List.range ((hi - lo) / 4080 + 1)).foldl (fun s i =>
      let first := lo + 4080 * i
      let n := min 4080 (hi + 1 - first)
      let ws := tab n (fun j => BitVec.ofNat 32 (lookD new (first + j) 0))
      sendControl s 0 m.desc.path 0x06 gen (BitVec.ofNat 32 first :: BitVec.ofNat 32 n :: ws)) s

/-- Install the manager's own entries. -/
def installOwn (s : State) (new : Tbl Nat) : State :=
  let keys := (s.fab.routes ++ new).map (·.1)
  let s := keys.foldl (fun s k => installRoutes s k [BitVec.ofNat 32 (lookD new k 0)]) s
  { s with fab := { s.fab with routes := new } }

/-- A manager has joined after its first round once every member has acknowledged its ROUTE_SET (R417). -/
def checkManagerJoin (s : State) : State :=
  if joinState s = 1 ∧ isManager s = true ∧ s.fab.round = false ∧ s.fab.members.all (fun m => m.accepted && decide (m.sentGen ≤ m.ackGen)) = true
      ∧ s.fab.leftGroups.isEmpty = true then
    completeJoin s
  else s

/-- Border links of this domain (R427). -/
def borderLinks (s : State) : List BorderLink :=
  ((domainNodes s).map (fun (i, d) => d.ports.zipIdx.filterMap (fun (p, q) =>
    if descUsable p && decide (p.partnerDomain.toNat ≠ ownDomain s) then
      some { index := BitVec.ofNat 12 i, port := Fin.ofNat 16 q, neighbour := p.partnerDomain, width := p.txw }
    else none))).flatten

/-- Domains known, this one included. -/
def knownDomains (s : State) : Tbl DomainRec := put s.fab.domains (ownDomain s) { serial := ownSerial s, links := borderLinks s }

/-- Domains reachable from this one through border links (R427). -/
def reachable (s : State) : List Nat :=
  let ds := knownDomains s
  (List.range 16).foldl (fun l _ => l.foldl (fun l d => ((look ds d).toList.map (·.links)).flatten.foldl (fun l b => insNat l b.neighbour.toNat) l) l)
    [ownDomain s]

/-- The links between domains, each domain one node (R427); a link's port counts as index and port. -/
def fedEdges (s : State) : List Edge :=
  ((knownDomains s).map (fun (d, r) => r.links.map (fun b =>
    ⟨d, b.index.toNat * 16 + b.port, b.neighbour.toNat, 8 / max 1 b.width.toNat⟩))).flatten

/-- The border link of domain a toward every other domain (R427). -/
def domainRoutes (s : State) (a : Nat) : Tbl BorderLink :=
  let ds := knownDomains s
  let es := fedEdges s
  ds.foldl (fun t (b, _) =>
    if b = a then t
    else match (primaryAlt (choices es 16 a b)).1 with
      | none => t
      | some x =>
        match ((look ds a).toList.map (·.links)).flatten.find? (fun l => decide (l.index.toNat * 16 + l.port = x.port)) with
        | some l => put t b l
        | none => t) []

/-- The words of a border link. DESIGN CHOICE, log 26. -/
def borderWord (b : BorderLink) : Word := BitVec.ofNat 32 (b.index.toNat + b.port.val * 2 ^ 12 + b.neighbour.toNat * 2 ^ 16 + b.width.toNat * 2 ^ 20)

/-- Describe the border links to the federation manager when they have changed (R427), in path mode over the first of them. -/
def describeBorder (s : State) : State :=
  let ls := borderLinks s
  if ls = s.fab.border then s
  else
    let s := { s with fab := { s.fab with border := ls } }
    let low := (reachable s).foldl min (ownDomain s)
    match ls with
    | [] => s
    | b :: _ =>
      if low = ownDomain s then s
      else
        let path := match (joined s).find? (fun m => decide (m.index = b.index.toNat)) with
          | some m => m.desc.path ++ [b.port]
          | none => [b.port]
        sendControl s (low * 4096) path 0x0D 0 (BitVec.ofNat 32 (ownDomain s) :: ls.map borderWord)

/-- FEDMGR and DOMAINS (R427, R440, R441). -/
def showFederation (s : State) : State :=
  let l := reachable s
  let fed := isManager s && decide (l.foldl min (ownDomain s) = ownDomain s)
  let s := setRegFld s Reg.FAB_ID 18 1 (b2n fed)
  setRegFld s Reg.FAB_MGR_STAT 16 5 (if fed then l.length else 0)

/-- This device is the federation manager. -/
def isFedMgr (s : State) : Bool := regBit s Reg.FAB_ID 18

/-- Compute routes, raise GEN, and send ROUTE_SET to each member whose entries change (R417, R419, R421). -/
def publish (s : State) : State :=
  if !isManager s then s
  else
    let s := describeBorder (showFederation (countMembers s))
    let gen := ((regWord s Reg.FAB_ROUTE_GEN).toNat + 1) % 2 ^ 32
    let new := (joined s).zipIdx.map (fun (m, i) => (m, routesOf s (i + 1)))
    let s := installOwn (setRegWord s Reg.FAB_ROUTE_GEN (BitVec.ofNat 32 gen)) (routesOf s 0)
    let s := new.foldl (fun s (m, t) =>
      if m.entries = t ∧ m.sentGen ≠ 0 then s
      else setMember (sendRouteSet s m gen m.acked t) m.desc.serial (fun m => { m with entries := t, sentGen := gen, tries := 0 })) s
    checkManagerJoin s

/-- Send ASSIGN (R411, R416, R425). -/
def sendAssign (s : State) (d : ProbeReplyMsg) (index : Nat) : State :=
  let id := ownDomain s * 4096 + index
  let rejoin := d.assigned && s.fab.gone.contains d.serial
  let s := { s with fab := { s.fab with gone := s.fab.gone.filter (fun x => decide (x ≠ d.serial)) } }
  sendControl s 0 d.path 0x04 0 ([BitVec.ofNat 32 id] ++ serialWords (ownSerial s) ++ [BitVec.ofNat 32 (b2n rejoin)])

/-- Enter a device among the members with its index, and send it ASSIGN. -/
def enterMember (s : State) (d : ProbeReplyMsg) (index : Nat) : State :=
  let keep := match memberOf s d.serial with
    | some m => m.accepted && decide (m.index = index)
    | none => false
  let m : Member := { desc := d, index := index, accepted := keep }
  let f := s.fab
  let f := { f with given := if f.given.contains (d.serial, index) then f.given else f.given ++ [(d.serial, index)] }
  let f := { f with members := f.members.filter (fun x => decide (x.desc.serial ≠ d.serial)) ++ [m] }
  sendAssign { s with fab := f } d index

/-- The index that R416 gives a serial number that keeps none: the one given before, which no other member holds, else the lowest never
given. DEDUCED, log 37. -/
def freshIndex (s : State) (serial : BitVec 64) : Option Nat :=
  let held (i : Nat) : Bool := s.fab.members.any (fun m => decide (m.index = i) && decide (m.desc.serial ≠ serial))
  match s.fab.given.find? (fun x => decide (x.1 = serial) && !held x.2) with
  | some x => some x.2
  | none => (tab 4095 (· + 1)).find? (fun i => !s.fab.given.any (fun x => decide (x.2 = i)))

/-- Give a device its identifier (R416, R426): where two report one index, the higher serial number takes a new one. A device
for which no index is left gets none. DEDUCED, log 37. -/
def assignDevice (s : State) (d : ProbeReplyMsg) : State :=
  let r := d.devId.toNat % 4096
  let own := d.assigned && decide (d.devId.toNat / 4096 = ownDomain s) && decide (r ≠ 0)
  let holder := s.fab.members.find? (fun m => decide (m.index = r) && decide (m.desc.serial ≠ d.serial))
  let fresh (s : State) (d : ProbeReplyMsg) : State := match freshIndex s d.serial with
    | some i => enterMember s d i
    | none => s
  if !own then fresh s d
  else match holder with
    | none => enterMember s d r
    | some h =>
      if d.serial.toNat < h.desc.serial.toNat then
        let s := { s with fab := { s.fab with given := s.fab.given.filter (fun x => decide (x ≠ (h.desc.serial, r))) } }
        fresh (enterMember s d r) h.desc
      else fresh s d

/-- The answer to a LEFT: an ACK with ATYPE 6 and the PSEQ of the LEFT (R422). -/
def ackLeft (s : State) (dst pseq : BitVec 16) : State :=
  sendAnswer s { dst := dst.toNat, typ := ptAck, tint := 7, key := ⟨0, 0, 0⟩, atype := 6, ackseq := pseq.toNat }

/-- Answer the LEFT messages that every receiver has answered, and assign what waited for them (R422, R423). -/
def finishGroups (s : State) : State :=
  let done (g : LeftGroup) : Bool := !s.fab.leftWaits.any (fun w => decide (w.group = g.num))
  let gs := s.fab.leftGroups.filter done
  let s := { s with fab := { s.fab with leftGroups := s.fab.leftGroups.filter (fun g => !done g) } }
  let s := gs.foldl (fun s g =>
    let s := match g.origin with
      | some (dst, n) =>
        ackLeft s dst n
      | none => s
    g.assign.foldl assignDevice s) s
  checkManagerJoin s

/-- Send LEFT to a receiver and wait for its answer (R422). -/
def sendLeft (s : State) (group : Nat) (ids : List (BitVec 16)) (domain : Option (BitVec 4)) (dst : Nat) : State :=
  let words : List Word := match domain with
    | some d => [BitVec.ofNat 32 (d.toNat + 2 ^ 31)]
    | none => BitVec.ofNat 32 ids.length :: ids.map (·.setWidth 32)
  let w : LeftWait := { member := BitVec.ofNat 16 dst, pseq := s.fab.pseq, ids := ids, domain := domain, tries := 0, group := group }
  sendControl { s with fab := { s.fab with leftWaits := s.fab.leftWaits ++ [w] } } dst [] 0x0B 0 words

/-- The number of the next declaration. -/
def nextGroup (s : State) : Nat := maxNat (s.fab.leftGroups.map (·.num)) + 1

/-- Pass a LEFT to every member and, in a federation, to the other managers that R422 and R428 name. -/
def passLeft (s : State) (ids : List (BitVec 16)) (domain : Option (BitVec 4)) (origin : Option (BitVec 16 × BitVec 16))
    (assign : List ProbeReplyMsg) (managers : List Nat) : State :=
  let g := nextGroup s
  let s := { s with fab := { s.fab with leftGroups := s.fab.leftGroups ++ [⟨g, origin, assign⟩] } }
  finishGroups (((joined s).map (memberId s) ++ managers).foldl (fun s d => sendLeft s g ids domain d) s)

/-- The managers that a manager tells of a member that has left: the federation manager, or as such every other one (R422). -/
def toldManagers (s : State) : List Nat :=
  if isFedMgr s then (s.fab.domains.filter (fun x => decide (x.1 ≠ ownDomain s))).map (fun x => x.1 * 4096)
  else if fedDomain s = ownDomain s then [] else [fedDomain s * 4096]

/-- Identifiers named by a LEFT. -/
def leftNames (ids : List (BitVec 16)) (domain : Option (BitVec 4)) (o : BitVec 16) : Bool :=
  match domain with
  | some d => decide (o.toNat / 4096 = d.toNat)
  | none => ids.contains o

/-- Members have left (R422): LEFT goes out, their routes go, their indices stay theirs. -/
def declareLeft (s : State) (ms : List Member) (assign : List ProbeReplyMsg) : State :=
  if ms.isEmpty then s
  else
    let serials := ms.map (·.desc.serial)
    let ids := ms.map (fun m => BitVec.ofNat 16 (memberId s m))
    let f := s.fab
    let f := { f with members := f.members.filter (fun m => !serials.contains m.desc.serial), gone := f.gone ++ serials }
    let f := { f with leftWaits := f.leftWaits.filter (fun w => !ids.contains w.member) }
    let s := originatorsLeft { s with fab := f } (leftNames ids none)
    publish (passLeft s ids none none assign (toldManagers s))

/-- Neighbours across ports that are to be probed (R415): of this domain, not ISOLATED, not yet described, at most 15 hops. DEDUCED, log 27. -/
def addProbes (s : State) (path : List (Fin 16)) (ports : List PortDesc) : State :=
  ports.zipIdx.foldl (fun s (p, q) =>
    let seen := s.fab.described ++ s.fab.probes.map (·.1) ++ s.fab.probing.toList.map (·.1) ++ [ownSerial s]
    if descUsable p && decide (p.partnerDomain.toNat = ownDomain s) && !seen.contains p.partnerSerial && decide (path.length < 15) then
      { s with fab := { s.fab with probes := s.fab.probes ++ [(p.partnerSerial, path ++ [Fin.ofNat 16 q])] } }
    else s) s

/-- Send a PROBE (R415). -/
def sendProbe (s : State) (serial : BitVec 64) (path : List (Fin 16)) (tries : Nat) : State :=
  let s := { s with fab := { s.fab with probing := some (serial, path, tries) } }
  sendControl s 0 path 0x02 0 (serialWords (ownSerial s))

/-- The next probe of the round; with none left the round ends, and routes go out (R415 to R417). DEDUCED, log 27. -/
def nextProbe (s : State) : State :=
  if s.fab.probing.isSome then s
  else match s.fab.probes with
    | (serial, path) :: t => sendProbe { s with fab := { s.fab with probes := t } } serial path 1
    | [] => if s.fab.round then publish { s with fab := { s.fab with round := false } } else s

/-- A probe round starts (R415); one that runs goes on. DEDUCED, log 27. -/
def startRound (s : State) : State :=
  if s.fab.round then s
  else
    let s := { s with fab := { s.fab with round := true, described := [], probes := [], probing := none } }
    nextProbe (addProbes s [] ((List.range 16).map (portDesc s)))

/-- The JOIN step begins (R415, R417): a manager assigns itself index 0 and probes, a worker waits. -/
def startJoin (s : State) : State :=
  let s := setRegFld s Reg.FAB_JOIN_STAT 0 2 1
  if regBit s Reg.FAB_CFG 0 then startRound (takeIdentity (setRegBit s Reg.FAB_ID 17) (ownDomain s * 4096) (ownSerial s))
  else checkWorkerJoin s

/-- Another manager of lower serial number holds the domain (R418): this one stops managing, and its JOIN step is refused. -/
def stopManaging (s : State) : State :=
  let s := setRegFld s Reg.FAB_ID 17 2 0
  let f := { s.fab with members := [], probes := [], probing := none, round := false, leftWaits := [], leftGroups := [] }
  let s := setRegWord { s with fab := { f with domains := [], toDomain := [], border := [] } } Reg.FAB_MGR_STAT 0
  let s := setRegFld (setRegFld s Reg.FAB_JOIN_STAT 0 2 3) Reg.FAB_JOIN_STAT 8 8 2
  let s := dropIdentity s
  if s.boot.done = 12 ∧ bootState s = bsRunning then failStep s 12 0xC0 2 else s

/-- A device is described (R415, R416, R423). -/
def describe (s : State) (m : ProbeReplyMsg) : State :=
  if m.role then s
  else match memberOf s m.serial with
    | some b => if !m.assigned && b.accepted then declareLeft s [b] [m] else assignDevice s m
    | none => assignDevice s m

/-- PROBE_REPLY (R415, R416, R418, R423). -/
def execProbeReply (m : ProbeReplyMsg) (s : State) : Out :=
  .next (
    match s.fab.probing with
    | none => s
    | some (_, path, _) =>
      if !isManager s || decide (m.path ≠ path) then s
      else
        let s := { s with fab := { s.fab with probing := none, described := s.fab.described ++ [m.serial] } }
        if m.role && decide (m.domain.toNat = ownDomain s) && decide (m.serial.toNat < (ownSerial s).toNat) then stopManaging s
        else if m.domain.toNat ≠ ownDomain s then nextProbe s
        else nextProbe (addProbes (describe s m) m.path m.ports))

/-- PROBE_TIMEOUT (R415): three tries in all. -/
def execProbeTimeout (path : List (Fin 16)) (s : State) : Out :=
  .next (
    match s.fab.probing with
    | none => s
    | some (serial, p, n) =>
      if p ≠ path then s
      else if n < 3 then sendProbe s serial p (n + 1)
      else nextProbe { s with fab := { s.fab with probing := none } })

/-- ASSIGN_ACK (R416 to R418): a refused device is no member. -/
def execAssignAck (serial : BitVec 64) (accept : Bool) (_reason : Byte) (s : State) : Out :=
  .next (
    if !isManager s || (memberOf s serial).isNone then s
    else
      let s := if accept then setMember s serial (fun m => { m with accepted := true })
        else { s with fab := { s.fab with members := s.fab.members.filter (fun m => decide (m.desc.serial ≠ serial)) } }
      if s.fab.round then countMembers s else publish s)

/-- ROUTE_ACK (R417, R421). -/
def execRouteAck (serial : BitVec 64) (gen : Word) (s : State) : Out :=
  .next (
    if isManager s then checkManagerJoin (setMember s serial (fun m =>
      { m with ackGen := max m.ackGen gen.toNat, tries := 0, acked := if gen.toNat = m.sentGen then m.entries else m.acked })) else s)

/-- ROUTE_SET_TIMEOUT (R421): sent again, up to 3 times. -/
def execRouteSetTimeout (serial : BitVec 64) (s : State) : Out :=
  .next (
    match memberOf s serial with
    | some m =>
      if isManager s && decide (m.ackGen < m.sentGen) && decide (m.tries < 3) then
        setMember (sendRouteSet s m m.sentGen m.acked m.entries) serial (fun m => { m with tries := m.tries + 1 })
      else s
    | none => s)

/-- LINK_EVENT (R421): routes are computed anew; a port that has come up may lead to a device not yet described. DEDUCED, log 27. -/
def execLinkEvent (m : LinkEventMsg) (s : State) : Out :=
  .next (
    if !isManager s then s
    else
      let up := decide (m.state = 3) || decide (m.state = 4)
      let was := match memberOf s m.serial with
        | some b => (b.desc.ports[m.port.val]?.map descUsable).getD false
        | none => false
      let f (d : PortDesc) : PortDesc := { d with state := m.state, txw := m.txw, rxw := m.rxw }
      let s := setMember s m.serial (fun b => { b with desc := { b.desc with ports := modAt b.desc.ports m.port.val f } })
      let s := publish s
      if up && !was then startRound s else s)

/-- A domain has left the federation (R428): every other domain manager and the members are told. -/
def domainLeft (s : State) (d : Nat) : State :=
  let dom : BitVec 4 := BitVec.ofNat 4 d
  let s := { s with fab := { s.fab with domains := del s.fab.domains d, toDomain := del s.fab.toDomain d } }
  let s := originatorsLeft s (leftNames [] (some dom))
  publish (passLeft s [] (some dom) none [] (toldManagers s))

/-- A missed or an answered heartbeat. -/
def nextMissed (answered : Bool) (missed : Nat) : Nat := if answered then 0 else missed + 1

/-- HEARTBEAT_INTERVAL (R422, R428): three misses in a row are a departure. -/
def execHeartbeatInterval (s : State) : Out :=
  .next (
    if !isManager s then s
    else
      let f := s.fab
      let f := { f with members := f.members.map (fun m => if m.accepted then { m with missed := nextMissed m.answered m.missed, answered := false } else m) }
      let f := if isFedMgr s then
          { f with domains := f.domains.map (fun (d, r) => (d, { r with missed := nextMissed r.answered r.missed, answered := false })) }
        else f
      let s := { s with fab := f }
      let goneM := (joined s).filter (fun m => decide (3 ≤ m.missed))
      let goneD := (f.domains.filter (fun x => decide (3 ≤ x.2.missed))).map (·.1)
      let s := declareLeft s goneM []
      let s := goneD.foldl domainLeft s
      let beat (s : State) (d : Nat) : State := sendControl s d [] 0x09 0 (serialWords (ownSerial s))
      let s := ((joined s).map (memberId s)).foldl beat s
      if isFedMgr s then (s.fab.domains.map (fun x => x.1 * 4096)).foldl beat s else s)

/-- HEARTBEAT_REPLY (R422, R428, R433). DEDUCED, log 37. -/
def execHeartbeatReply (serial : BitVec 64) (s : State) : Out :=
  .next (
    if !isManager s then s
    else
      let s := setMember s serial (fun m => { m with missed := 0, answered := true })
      let f (r : DomainRec) : DomainRec := if r.serial = serial then { r with missed := 0, answered := true } else r
      { s with fab := { s.fab with domains := s.fab.domains.map (fun (d, r) => (d, f r)) } })

/-- LEFT (R378, R422, R428, R433). -/
def execLeft (m : LeftMsg) (s : State) : Out :=
  .next (
    if !isAssigned s then s
    else
      let names := leftNames m.ids m.domain
      let s := withCause 4 (fun s => setRegBit s Reg.FAB_JOIN_STAT 17) s
      let s := originatorsLeft s names
      if isManager s then
        let others := (toldManagers s).filter (fun d => isFedMgr s && decide (d ≠ m.sender.toNat))
        passLeft s m.ids m.domain (some (m.sender, m.pseq)) [] others
      else
        let s := ackLeft s m.sender m.pseq
        if names (BitVec.ofNat 16 (ownId s)) then dropIdentity s else s)

/-- A member has answered a LEFT (R422). -/
def leftAnswered (s : State) (member pseq : BitVec 16) : State :=
  let f := s.fab
  finishGroups { s with fab := { f with leftWaits := f.leftWaits.filter (fun w => !(decide (w.member = member) && decide (w.pseq = pseq.toNat))) } }

/-- LEFT_TIMEOUT (R422): sent again up to 3 times, then the member is itself treated as left. -/
def execLeftTimeout (member : BitVec 16) (pseq : BitVec 16) (s : State) : Out :=
  .next (
    let mine (w : LeftWait) : Bool := decide (w.member = member) && decide (w.pseq = pseq.toNat)
    match s.fab.leftWaits.find? mine with
    | none => s
    | some w =>
      if w.tries < 3 then
        let n := s.fab.pseq
        let words : List Word := match w.domain with
          | some d => [BitVec.ofNat 32 (d.toNat + 2 ^ 31)]
          | none => BitVec.ofNat 32 w.ids.length :: w.ids.map (·.setWidth 32)
        let f := { s.fab with leftWaits := s.fab.leftWaits.map (fun w => if mine w then { w with tries := w.tries + 1 } else w), pseq := w.pseq }
        let s := sendControl { s with fab := f } w.member.toNat [] 0x0B 0 words
        { s with fab := { s.fab with pseq := n } }
      else
        let s := { s with fab := { s.fab with leftWaits := s.fab.leftWaits.filter (fun w => !mine w) } }
        match (joined s).find? (fun m => decide (memberId s m = member.toNat)) with
        | some m => finishGroups (declareLeft s [m] [])
        | none => finishGroups s)

/-- LEAVE (R424): a member departs as R422 states. -/
def execLeave (devId : BitVec 16) (s : State) : Out :=
  .next (
    if !isManager s then s
    else match (joined s).find? (fun m => decide (memberId s m = devId.toNat)) with
      | some m => declareLeft s [m] []
      | none => s)

/-- The federation manager sends each domain manager its DOMAIN_ROUTE, and takes its own (R427). -/
def sendDomainRoutes (s : State) : State :=
  let s := s.fab.domains.foldl (fun s (d, _) =>
    if d = ownDomain s then s
    else sendControl s (d * 4096) [] 0x0E 0 ((domainRoutes s d).map (fun (b, l) => [BitVec.ofNat 32 b, borderWord l])).flatten) s
  publish { s with fab := { s.fab with toDomain := domainRoutes s (ownDomain s) } }

/-- DOMAIN_INFO (R427). DEDUCED, log 37. -/
def execDomainInfo (serial : BitVec 64) (domain : BitVec 4) (links : List BorderLink) (s : State) : Out :=
  .next (
    if !isManager s then s
    else
      let r : DomainRec := { serial := serial, links := links }
      let s := showFederation { s with fab := { s.fab with domains := put s.fab.domains domain.toNat r } }
      if isFedMgr s then sendDomainRoutes s else s)

/-- DOMAIN_ROUTE (R427). -/
def execDomainRoute (links : List (BitVec 4 × BorderLink)) (s : State) : Out :=
  .next (
    if isManager s then
      publish { s with fab := { s.fab with toDomain := links.foldl (fun t (d, l) => put t d.toNat l) [] } }
    else s)

/-- HELLO (R414, R436): the port is isolated or released; a manager probes a neighbour that is no member. DEDUCED, log 27. -/
def execHello (q : Fin 16) (m : HelloMsg) (s : State) : Out :=
  .next (
    if !portTrained s q then s
    else
      let s := setFport s q { fport s q with hello := some m }
      let w := m.devId.toNat + m.port.val * 2 ^ 16 + b2n m.assigned * 2 ^ 20
      let s := resettlePort (setRegWord s (Reg.FAB_PORT_PARTNER q) (BitVec.ofNat 32 w)) q
      let member := match memberOf s m.serial with
        | some b => b.accepted && m.assigned
        | none => false
      if isManager s && portUsable s q && decide (m.domain.toNat = ownDomain s) && !member then startRound s else s)

/-- A write of FAB_CMD (R424, R441). DEDUCED, log 27. DEDUCED, log 52. -/
def writeFabCmd (s : State) (v : Word) : State :=
  let s := if bit v 0 then leaveDomain s else s
  if bit v 1 then (if isManager s then startRound s else refuseFabCmd s) else s

/-- FAB_CMD_LEAVE. -/
def execFabCmdLeave (v : Word) (s : State) : Out := .next (whenLive s Reg.FAB_CMD (fun s => writeFabCmd s (v ||| 1#32)))

/-- REDISCOVER. -/
def execRediscover (v : Word) (s : State) : Out := .next (whenLive s Reg.FAB_CMD (fun s => writeFabCmd s (v ||| 2#32)))

end Sys2Proof.Machine
end

