-- ==== Sys2Proof/Machine/Region.lean ====
section
/-! DEFINITION. Power regions: their state, their numbers, and the fence (R18, R19, R287, R477, R479, R481, R504). -/

namespace Sys2Proof.Machine

/-- State codes of PWR_REGION (R504). -/
def rgDark : Nat := 0
/-- Self-test. -/
def rgTest : Nat := 1
/-- Staging. -/
def rgStaging : Nat := 2
/-- On. -/
def rgOn : Nat := 3
/-- Capped. -/
def rgCapped : Nat := 4
/-- Fenced. -/
def rgFenced : Nat := 5
/-- Bad. -/
def rgBad : Nat := 6

/-- State of a region. -/
def regionState (s : State) (p : Nat) : Nat := regFld s (Reg.PWR_REGION p) 0 3

/-- Change the state of a region; PWR_STATUS counts the capped ones (R478, R499). -/
def setRegionState (s : State) (p st : Nat) : State :=
  let s := setRegFld s (Reg.PWR_REGION p) 0 3 st
  setRegFld s Reg.PWR_STATUS 16 6 ((List.range 50).filter (fun i => decide (regionState s i = rgCapped))).length

/-- Failed VDD_LOGIC phases of a region. -/
def failCount (s : State) (p : Nat) : Nat := popcount 8 (regFld s (Reg.PWR_REGION p) 4 8)

/-- Failed VDD_MEM phases of a region. -/
def memFailCount (s : State) (p : Nat) : Nat := popcount 4 (regFld s (Reg.PWR_REGION p) 12 4)

/-- Enable a region under a logical number, or disable it: LOGICAL then reads 0xFF (R18, R102, R216, R310). -/
def numberRegion (s : State) (p : Nat) (r : Option Nat) : State :=
  let put1 (s : State) (off v : Nat) : State := setRegFld (setRegFld s off 8 8 v) off 16 1 (b2n r.isSome)
  let s := put1 s (Reg.TE_ID p) (r.getD 0xFF)
  let s := put1 s (Reg.RLZ_PB_ID p) (r.getD 0xFF)
  (List.range 4).foldl (fun s i => put1 s (Reg.TA_ID (4 * p + i)) (match r with
    | some r => 4 * r + i
    | none => 0xFF)) s

/-- The logical number that a region holds in REP_REGION (R473), also while its bank is being zeroed (R287). -/
def regionOwner (s : State) (p : Nat) : Option Nat :=
  (List.range 48).find? (fun r => decide (regFld s (Reg.REP_REGION r) 0 6 = p) && (regBit s (Reg.REP_REGION r) 6 || s.power.zeroing.contains r))

/-- The regions that wait to be staged, or that deep idle has gated, with the numbers they will take (R479, R482, R495). -/
def waitingRegions (s : State) : List (Fin 50 × Option (Fin 48)) :=
  s.power.toStage ++ s.power.asleep ++ (match s.power.staging with
    | some x => [(x.region, x.logical)]
    | none => [])

/-- Spare regions left: dark, good and without a number (R19, R465). -/
def spareRegions (s : State) : List Nat :=
  (List.range 50).filter (fun p => decide (regionState s p = rgDark) && (regionOwner s p).isNone
    && !(waitingRegions s).any (fun x => decide (x.1.val = p)))

/-- REP_STATUS shows the spare regions left (R472), at most 2. -/
def countSpares (s : State) : State := setRegFld s Reg.REP_STATUS 8 2 (min 2 (spareRegions s).length)

/-- Items that use a region: owners of columns, descriptors, tiles, groups, launch records and ring slots (R479). -/
def regionKeys (s : State) (p : Nat) : List ItemKey :=
  let ofArr (n : Nat) : List ItemKey :=
    let a := arr s n
    let ds := a.queue ++ a.inflight ++ a.saved.map (·.entry) ++ a.resumeHeld.toList ++ a.preload.toList ++ (a.drains.filter (!·.ended)).map (·.entry)
    let ts := a.active.toList ++ (a.shadow.map (·.1)).toList ++ (a.lake.map (·.tile)).toList
    ds.map (fun e => descKey e.desc) ++ ts.map (·.key) ++ a.spilled.map (·.1)
      ++ (a.cols.filter (·.2.owned)).map (fun x => ⟨x.2.orig, x.2.item, x.2.lot⟩)
      ++ (s.items.heldDesc.filter (fun x => decide (x.1.val = n))).map (fun x => descKey x.2)
  let x := eng s p
  let rs := (x.rings.map (fun r => r.2.slots.map (·.1) ++ r.2.fifo.map (·.1))).flatten
  let gs := x.groups.map (fun g => launchKey g.2.launch)
  (gs ++ x.launchQ.map launchKey ++ rs ++ ((List.range 4).map (fun i => ofArr (4 * p + i))).flatten).eraseDups

/-- A bank holds nothing: it reads zero, unpoisoned, until it is written (R287). -/
def clearBank (s : State) (r : Nat) : State :=
  let inBank (a : Nat) : Bool := decide (pbBase + r * pbSize ≤ a) && decide (a < pbBase + (r + 1) * pbSize)
  { s with mem := s.mem.filter (fun x => !inBank x.1), poison := s.poison.filter (fun a => !inBank a) }

/-- The debugger state of an engine is lost (R215). -/
def clearDebug (s : State) (e : Nat) : State :=
  let brks := ((List.range 4).map (fun n => [Reg.TE_BRK_LO e n, Reg.TE_BRK_HI e n])).flatten
  ([Reg.TE_DBG_CTRL e, Reg.TE_DBG_STAT e, Reg.TE_DBG_SEL e] ++ brks).foldl (fun s o => setRegWord s o 0) s

/-- What a region's SRAMs held is lost; the arrays and the engine are fenced or not, and with a fence the debugger state goes
(R215). -/
def clearRegion (s : State) (p : Nat) (fenced : Bool) : State :=
  let s := (List.range 4).foldl (fun s i => setArr s (4 * p + i) { fenced := fenced }) s
  let s := setEng s p { fenced := fenced }
  let s := if fenced then clearDebug s p else s
  setRegWord (setRegWord s (Reg.TE_TRAP_PEND p 0) 0) (Reg.TE_TRAP_PEND p 1) 0

/-- No start of the region waits for admission. -/
def dropStarts (s : State) (p : Nat) : State :=
  let mine (w : Starter) : Bool := match w with
    | .array n => decide (n / 4 = p)
    | .engine e => decide (e = p)
  { s with power := { s.power with held := s.power.held.filter (fun w => !mine w), granted := s.power.granted.filter (fun w => !mine w) } }

/-- The region is neither staging nor waiting to be, nor asleep. -/
def dropStaging (s : State) (p : Nat) : State :=
  let w := s.power
  let st := match w.staging with
    | some x => if x.region.val = p then none else some x
    | none => none
  let keep (x : Fin 50 × Option (Fin 48)) : Bool := decide (x.1.val ≠ p)
  { s with power := { w with staging := st, toStage := w.toStage.filter keep, asleep := w.asleep.filter keep } }

/-- The number a region holds, waits for or is being staged with. -/
def regionNumber (s : State) (p : Nat) : Option Nat :=
  (regionOwner s p).or (((waitingRegions s).find? (fun x => decide (x.1.val = p))).bind (fun x => x.2.map (fun r => r.val)))

/-- A spare region takes logical number r (R19, R479): it waits to be staged, and REP_REGION shows it. DEDUCED, log 72. Which of two
spare regions it is the spec does not say: the model takes the one with the lowest physical number (DESIGN CHOICE, log 72). -/
def bringSpare (s : State) (r : Nat) : State :=
  match spareRegions s with
  | [] => setRegWord s (Reg.REP_REGION r) 0
  | q :: _ =>
    let s := { s with power := { s.power with toStage := s.power.toStage ++ [(Fin.ofNat 50 q, some (Fin.ofNat 48 r))] } }
    let s := setRegWord s (Reg.REP_REGION r) (BitVec.ofNat 32 q)
    let s := raiseErr (countSpares s) 3
    if (spareRegions s).isEmpty then raiseErr s 4 else s

/-- The family registers show the enabled units (R5, R585): a logical number counts while a region holds it or is brought in. -/
def countRegions (s : State) : State :=
  let used (r : Nat) : Bool := (physRegion s r).isSome || s.power.zeroing.contains r
    || (waitingRegions s).any (fun x => decide (x.2.map (fun r => r.val) = some r))
  let n := ((List.range 48).filter used).length
  let s := setRegFld (setRegFld s Reg.GLB_FAM0 8 8 (4 * n)) Reg.GLB_FAM0 22 6 n
  setRegFld (setRegFld s Reg.GLB_FAM1 22 6 n) Reg.GLB_FAM3 22 6 n

/-- A region goes dark and is fenced (R479). DEDUCED, log 72. -/
def fenceRegion (s : State) (p : Nat) : State :=
  let keys := regionKeys s p
  let r := regionNumber s p
  let s := keys.foldl (fun s k => failItem s k 0x09 p) s
  let s := dropStaging (dropStarts (clearRegion s p true) p) p
  let s := setRegionState s p rgFenced
  let s := setRegFld s (Reg.PWR_REGION p) 16 4 0
  let s := numberRegion s p none
  let s := markBad s (unitRecord 1 p)
  let s := match r with
    | some r =>
      let s := clearBank { s with power := { s.power with zeroing := s.power.zeroing.filter (· ≠ r) } } r
      let spare := !(spareRegions s).isEmpty
      let s := bringSpare s r
      if spare then noteRepair s (unitRecord 1 p) 4 else s
    | none => countSpares s
  raisePwr (countRegions s) 1

/-- A VDD_LOGIC phase of a region has failed: it is recorded and logged (R476, R477). -/
def failLogic (s : State) (p k : Nat) : State :=
  let s := setRegBit s (Reg.PWR_REGION p) (4 + k)
  noteRepair (raisePwr s 0) (BitVec.ofNat 32 (9 + p * 16 + k * 4096)) 4

/-- What the number of failed VDD_LOGIC phases does to a region after one more failed (R477). -/
def settleLogic (s : State) (p : Nat) : State :=
  match failCount s p with
  | 0 => s
  | 1 => raiseErr (raiseErr s 3) 4
  | 2 =>
    let s := raisePwr s 2
    if regionState s p = rgOn then setRegionState s p rgCapped else s
  | _ => fenceRegion s p

/-- A VDD_MEM phase of a region has failed; a second one fences the region (R480). -/
def failMem (s : State) (p k : Nat) : State :=
  let s := raisePwr (setRegBit s (Reg.PWR_REGION p) (12 + k)) 0
  if 2 ≤ memFailCount s p then fenceRegion s p else s

/-- A region whose phases can still fail: neither fenced nor bad. -/
def regionAlive (s : State) (p : Nat) : Bool := decide (regionState s p ≠ rgFenced) && decide (regionState s p ≠ rgBad)

/-- One VDD_LOGIC failure, acted on as R477 states; a phase fails once in a power-up. -/
def oneLogic (s : State) (p k : Nat) : State :=
  if regionAlive s p && !regBit s (Reg.PWR_REGION p) (4 + k) then settleLogic (failLogic s p k) p else s

/-- One VDD_MEM failure, acted on as R480 states. -/
def oneMem (s : State) (p k : Nat) : State :=
  if regionAlive s p && !regBit s (Reg.PWR_REGION p) (12 + k) then failMem s p k else s

/-- What a phase self-test of a region finds (R483): every failed phase it names. -/
def selfTest (s : State) (p : Nat) (logic : Byte) (mem : BitVec 4) : State :=
  let s := (List.range 8).foldl (fun s k => if bit logic k then oneLogic s p k else s) s
  (List.range 4).foldl (fun s k => if bit mem k then oneMem s p k else s) s

end Sys2Proof.Machine
end

