-- ==== Sys2Proof/Machine/Vc.lean ====
section
/-! DEFINITION. Vertical channels and slice retirement (R288 to R292, R306, R310, R449, R480). -/

namespace Sys2Proof.Machine

/-- Groups of a direction of a channel (R288): channels 0 to 63 are those of the SC, 64 to 113 those of the banks. -/
def vcGroups (ch : Nat) (write : Bool) : Nat :=
  if ch < 64 then (if write then 12 else 20) else (if write then 6 else 10)

/-- The _VC register of a channel (R310). -/
def vcReg (ch : Nat) : Nat := if ch < 64 then Reg.RLZ_SC_VC ch else Reg.RLZ_PB_VC (ch - 64)

/-- Mode of a direction (R310): 0 full, 1 lower half, 2 upper half, 3 lost. -/
def vcMode (s : State) (ch : Nat) (write : Bool) : Nat := regFld s (vcReg ch) (2 * b2n write) 2

/-- Key of a group. -/
def groupKey (ch : Nat) (write : Bool) (g : Nat) : Nat := 32 * dirKey ch write + g

/-- The group carries data in the mode. -/
def groupUsed (ch : Nat) (write : Bool) (mode g : Nat) : Bool :=
  let lower := decide (2 * g < vcGroups ch write)
  match mode with
  | 0 => true
  | 1 => lower
  | 2 => !lower
  | _ => false

/-- A direction's width falls (R290, R291): to the half without the group, and from half width to nothing; a lost bank fences
its region. -/
def narrowVc (s : State) (ch : Nat) (write : Bool) (g : Nat) : State :=
  let mode := vcMode s ch write
  if !groupUsed ch write mode g then s
  else
    let new := if mode = 0 then (if 2 * g < vcGroups ch write then 2 else 1) else 3
    let s := recomputeTints (setRegFld s (vcReg ch) (2 * b2n write) 2 new)
    if new = 3 ∧ 64 ≤ ch then fenceRegion s (ch - 64) else s

/-- Data wires of a direction; the indexes from there on name its spares, 16 for each group (R456). -/
def vcWires (ch : Nat) (write : Bool) : Nat := 512 * vcGroups ch write

/-- The group of a data or spare wire. -/
def wireGroup (ch : Nat) (write : Bool) (wire : Nat) : Nat :=
  if wire < vcWires ch write then wire / 512 else (wire - vcWires ch write) / 16

/-- The next unused spare of a group takes the place of a failed data wire, or of a spare that stood in for one, after the
replacements that run (R289, R310, R450, R466). -/
def useSpare (s : State) (ch : Nat) (write : Bool) (g used : Nat) (spare : Bool) : State :=
  let v := s.vc
  let s := { s with vc := { v with spares := put v.spares (groupKey ch write g) (used + 1), replacing := put v.replacing (dirKey ch write) (lookD v.replacing (dirKey ch write) 0 + 1) } }
  let s := if spare then s else setRegFld s (vcReg ch) 16 10 (regFld s (vcReg ch) 16 10 + 1)
  let s := raiseErr s 3
  if used + 1 = 16 then raiseErr (setRegFld s (vcReg ch) 26 6 (regFld s (vcReg ch) 26 6 + 1)) 4 else s

/-- The record word of a failed wire (R456). -/
def wireRecord (ch : Nat) (write : Bool) (wire : Nat) : Word :=
  BitVec.ofNat 32 (6 + ch * 16 + wire % 2 ^ 14 * 2 ^ 12 + b2n write * 2 ^ 26)

/-- A wire is declared failed (R449). -/
def declareWire (s : State) (ch : Nat) (write : Bool) (wire : Nat) : State :=
  let g := wireGroup ch write wire
  let used := lookD s.vc.spares (groupKey ch write g) 0
  let s := { s with vc := { s.vc with strikes := del s.vc.strikes (groupKey ch write g) } }
  let s := noteRepair (raiseErr s 2) (wireRecord ch write wire) 3
  if used < 16 then useSpare s ch write g used (decide (vcWires ch write ≤ wire)) else narrowVc s ch write g

/-- The wires of a group that a damaged word can implicate (R449): its data wires, and the spares that stand in for some. -/
def groupWires (s : State) (ch : Nat) (write : Bool) (g : Nat) : List Nat :=
  (List.range 512).map (fun i => 512 * g + i)
    ++ (List.range (lookD s.vc.spares (groupKey ch write g) 0)).map (fun i => vcWires ch write + 16 * g + i)

/-- One damaged word's effect on a group (R449): its lowest implicated wire is the suspect or becomes it. -/
def strikeGroup (s : State) (ch : Nat) (write : Bool) (wires : List Nat) (g : Nat) : State :=
  match (groupWires s ch write g).find? (fun i => wires.contains i) with
  | none => s
  | some wire =>
    let k := groupKey ch write g
    let n := match look s.vc.strikes k with
      | some (w, n) => if w = wire then n + 1 else 1
      | none => 1
    if n = 4 then declareWire s ch write wire else { s with vc := { s.vc with strikes := put s.vc.strikes k (wire, n) } }

/-- A word is sent again (R289, R445, R449). -/
def resendWord (s : State) (ch : Nat) (write : Bool) (wires : List Nat) : State :=
  if vcMode s ch write = 3 then s
  else
    let s := settleStrikes (addBucket s .vc ch 1).2 ch
    (List.range (vcGroups ch write)).foldl (fun s g => strikeGroup s ch write wires g) s

/-- VC_WORD_RESEND. -/
def execVcWordResend (ch : Fin 114) (write : Bool) (wires : List Nat) (s : State) : Out := .next (resendWord s ch write wires)

/-- Number the enabled slices in ascending physical order (R278, R310). -/
def numberSlices (s : State) (on : List Nat) : State :=
  let s := (List.range 64).foldl (fun s i =>
    let k := (idxOf (fun x => decide (x = i)) on)
    setRegFld (setRegFld s (Reg.RLZ_SC_ID i) 8 8 (k.getD 0xFF)) (Reg.RLZ_SC_ID i) 16 1 (b2n k.isSome)) s
  setRegFld (setRegFld s Reg.RLZ_STATUS 0 7 on.length) Reg.GLB_FAM3 7 7 on.length

/-- Every live ITT entry fails (R292, R328). -/
def failAll (s : State) (code detail : Nat) : State :=
  (s.items.itt.map (·.key)).foldl (fun s k => failItem s k code detail) s

/-- The hold window is rebuilt and zero (R292). -/
def zeroHold (s : State) : State :=
  let inHold (a : Nat) : Bool := decide (holdBase ≤ a) && decide (a < pbBase)
  { s with mem := s.mem.filter (fun x => !inHold x.1), poison := s.poison.filter (fun a => !inHold a) }

/-- Miss entries in use are shown again, slice by slice. -/
def showAllMisses (s : State) : State := s.sc.misses.foldl (fun s (l, _) => showMisses s l) s

/-- A slice is retired in service (R292): lost, when its own dirty lines cannot be written back; a dirty line of a far port that does
not serve is lost from any slice. -/
def retireSlice (s : State) (i : Nat) (lost : Bool) (cause : Nat) : State :=
  let s := failAll s 0x06 i
  let mine (s : State) (l : Nat) : Bool := decide (physSlice s (lineSlice s l) = some i)
  let dead (l : Nat) : Bool := decide (farBase ≤ l * 128) && !portServes s ((l * 128 - farBase) / farSize)
  let gone := s.sc.lines.any (fun (l, x) => decide (x.dirty ≠ 0) && ((mine s l && lost) || dead l))
  let s := s.sc.lines.foldl (fun s (l, x) => if lost && mine s l then s else writeBack s l x) s
  let s := { s with sc := { s.sc with lines := [], plru := [] } }
  let on := (List.range 64).filter (fun k => decide (k ≠ i) && regBit s (Reg.RLZ_SC_ID k) 16)
  let s := numberSlices s on
  let s := (List.range 64).foldl (fun s k => setRegFld s (Reg.RLZ_SC_OCC k) 0 8 0) s
  let s := showAllMisses s
  let h := if regBit s Reg.RLZ_STATUS 17 then regFld s Reg.RLZ_CFG 0 4 else holdNow s
  let s := clrRegBit (applyHold (zeroHold s) h) Reg.RLZ_STATUS 17
  let s := setRegBit s Reg.RLZ_STATUS 19
  let s := if gone then setRegBit s Reg.RLZ_STATUS 20 else s
  recomputeTints (noteRepair s (unitRecord 7 i) cause)

/-- VDD_MEM phases of a slice's group that have failed (R480). -/
def slicePhases (s : State) (i : Nat) : Nat := popcount 4 (lookD s.power.sliceMemFail i 0)

/-- SLICE_RETIREMENT: a slice that has lost a direction (R291) or a second VDD_MEM phase (R480) is retired. -/
def execSliceRetirement (sl : Fin 64) (readLost : Bool) (s : State) : Out :=
  let i := sl.val
  let dark := decide (2 ≤ slicePhases s i)
  let rd := decide (vcMode s i false = 3)
  let wr := decide (vcMode s i true = 3)
  .next (if regBit s (Reg.RLZ_SC_ID i) 16 && (dark || (rd && readLost) || (wr && !rd && !readLost)) then
    retireSlice s i (rd || dark) (if dark then 4 else 3)
  else s)

end Sys2Proof.Machine
end

