-- ==== Sys2Proof/Machine/NearFar.lean ====
section
/-! DEFINITION. The meanings of the GDDR7 and far-tier commands (R327 to R329, R333 to R347, R356). -/

namespace Sys2Proof.Machine

/-- RECALIBRATION (R327): a controller in service recalibrates after more than 64 retries or a move of 10 degrees since its last
calibration. -/
def execRecalibration (c : Fin 12) (retries : Nat) (temp : Int) (s : State) : Out :=
  let moved := match look s.near.calib c with
    | some t => decide (10 ≤ (temp - t).natAbs)
    | none => false
  .next (if ctlState s c = 2 ∧ (64 < retries ∨ moved = true) then
    setRegFld { s with near := { s.near with calib := put s.near.calib c temp } } (Reg.NEAR_CTL_STAT c) 0 3 3
  else s)

/-- A controller waits to be retired. -/
def failController (s : State) (c : Nat) : State := { s with near := { s.near with failing := insNat s.near.failing c } }

/-- Number the enabled controllers in ascending physical order and show the size that software reaches (R322, R323, R352, R585). -/
def numberControllers (s : State) (on : List Nat) : State :=
  let s := (List.range 12).foldl (fun s i =>
    setRegFld s (Reg.NEAR_CTL_STAT i) 8 4 ((idxOf (fun x => decide (x = i)) on).getD 0xF)) s
  let s := setRegFld (setRegFld s Reg.NEAR_STATUS 0 4 on.length) Reg.GLB_FAM5 12 4 on.length
  setRegFld s Reg.NEAR_STATUS 8 24 (7936 * on.length - 2048)

/-- GDDR7 contents are lost (R325, R328): every line holds new open values. DESIGN CHOICE, log 6. -/
def clearNear (s : State) : State :=
  let s := { s with mem := s.mem.filter (fun x => decide (holdBase ≤ x.1)), poison := s.poison.filter (fun a => decide (holdBase ≤ a)) }
  { s with near := { s.near with base := s.fresh }, fresh := s.fresh + 2 ^ 48 }

/-- The FME discards its staging contents and rebuilds a port's tables from its module (R328). -/
def rebuildPort (s : State) (p : Nat) : State :=
  if !portServes s p then s
  else
    let f := farPort s p
    let s := if unpersisted f then setRegBit s (Reg.FME_PORT_STAT p) 7 else s
    let m := farModule s p
    let t := mountTables s m
    setFarPort s p { tables := t, first := agedGranules s t, seq := lastSeq m, width := f.width, sinceLevel := f.sinceLevel }

/-- A controller is retired in service (R328); with fewer than 6 left the device faults, which reports the items (R29, R329). -/
def retireController (s : State) (c : Nat) : State :=
  let few := decide (((List.range 12).filter (fun i => decide (i ≠ c) && (decide (ctlState s i = 2) || decide (ctlState s i = 3)))).length < 6)
  let s := if few then s else failAll s 0x07 c
  let s := { s with sc := { s.sc with lines := s.sc.lines.filter (fun (l, _) => decide (farBase ≤ l * 128)) } }
  let on := (List.range 12).filter (fun i => decide (i ≠ c) && (decide (ctlState s i = 2) || decide (ctlState s i = 3)))
  let s := setRegFld s (Reg.NEAR_CTL_STAT c) 0 3 4
  let s := setRegBit (clearNear (numberControllers s on)) Reg.NEAR_STATUS 4
  let s := (List.range 12).foldl rebuildPort s
  let s := { s with near := { s.near with failing := s.near.failing.filter (· ≠ c) } }
  let s := { s with far := { s.far with persists := s.far.persists.map (fun r => { r with covers := [], isPartial := true }) } }
  let s := recomputeTints (noteRepair s (unitRecord 8 c) 3)
  if few then deviceFault s 3 else s

/-- CONTROLLER_RETIREMENT: of a controller that failed a recalibration, lost its clock, or overflowed its NEAR_UE bucket. DEDUCED, log 51. -/
def execControllerRetirement (c : Fin 12) (s : State) : Out :=
  let due := s.near.failing.contains c.val || decide (regFld s (Reg.ERR_BKT (BktClass.nearUe.first + c)) 16 16 ≠ 0)
  .next (if due && (decide (ctlState s c = 2) || decide (ctlState s c = 3)) then retireController s c else s)

/-- The buffer is the one that has waited longest since its last write. -/
def oldestBuffer (s : State) (b : StageBuf) : Bool :=
  (List.range 12).all (fun p => (farPort s p).staging.all (fun (_, x) => decide (b.last ≤ x.last)))

/-- The four cases of R335 in which a staging buffer is committed, refresh and levelling apart. -/
def commitDue (s : State) (p g : Nat) : Bool :=
  match look (farPort s p).staging g with
  | none => false
  | some b =>
    (decide (b.lines.length = 512) && b.lines.all (fun (_, x) => decide (x.mask = BitVec.allOnes 128)))
      || (decide (stagingBuffers ≤ stagedCount s) && oldestBuffer s b)
      || s.far.persists.any (fun r => r.covers.any (fun c => decide (c.1 = (p, g))))

/-- COMMIT, with the levelling move that it may call for (R335, R337). -/
def execCommit (p : Fin 12) (granule : BitVec 23) (s : State) : Out :=
  .next (if commitDue s p granule.toNat then levelWear (startCommit s p granule.toNat false) p else s)

/-- COMMIT_GRANULE_COMPLETE. DESIGN CHOICE, log 1. -/
def execCommitGranuleComplete (p : Fin 12) (granule : BitVec 23) (ok : Bool) (s : State) : Out :=
  .next (granuleDone s p granule.toNat ok)

/-- JOURNAL_RECORD_COMPLETE. -/
def execJournalRecordComplete (p : Fin 12) (granule : BitVec 23) (s : State) : Out := .next (journalDone s p granule.toNat)

/-- REFRESH (R338): a mapped granule whose age has reached REFRESH_H; while granules whose age the mount carried there are left,
one of them (R339). -/
def execRefresh (p : Fin 12) (granule : BitVec 23) (s : State) : Out :=
  let f := farPort s p
  let g := granule.toNat
  .next (match look f.tables.fwd g with
    | some x =>
      if regFld s Reg.FME_CFG 0 11 ≤ granuleAge f.tables x ∧ (f.first.isEmpty || f.first.contains g) = true then
        let s := startRefresh s p g
        let f := farPort s p
        if (look f.commits g).isSome then setFarPort s p { f with first := f.first.filter (fun y => decide (y ≠ g)) } else s
      else s
    | none => s)

/-- POWERED_HOUR (R338, R340): the count is stored in the 4 KiB header of the metadata area (log 73). -/
def execPoweredHour (p : Fin 12) (s : State) : Out :=
  .next (if portServes s p then
    let f := farPort s p
    let m := farModule s p
    let s := setFarModule (setFarPort s p { f with tables := { f.tables with hours := f.tables.hours + 1 } }) p { m with hours := m.hours + 1 }
    levelWear (chargeFme s 4096) p
  else s)

/-- FM576_EVENT (R338): the granules reported with low read margin are rewritten. -/
def execFm576Event (p : Fin 12) (granules : List (BitVec 23)) (s : State) : Out :=
  .next (granules.foldl (fun s g => if (look (farPort s p).tables.fwd g.toNat).isSome then startRefresh s p g.toNat else s) s)

/-- A write of FME_PERSIST (R345): discarded while 32,767 persists are outstanding. -/
def writePersist (s : State) (v : Word) : State :=
  if !bit v 0 then s
  else if 32767 ≤ s.far.persists.length then setRegBit s Reg.FME_STATUS 2
  else startPersist s

/-- PERSIST_REQ. -/
def execPersistReq (v : Word) (s : State) : Out := .next (whenLive s Reg.FME_PERSIST (fun s => writePersist s (v ||| 1#32)))

/-- PERSIST_COMPLETE. -/
def execPersistComplete (s : State) : Out := .next (endPersist s)

/-- FAR_PORT_LINK_LOSS (R347). -/
def execFarPortLinkLoss (p : Fin 12) (s : State) : Out := .next (if farState s p = 0 then s else stopPort s p 0 0)

/-- FAR_LINK_RETURN (R347): a port that is DOWN is trained and mounted again. -/
def execFarLinkReturn (p : Fin 12) (found : FarFound) (s : State) : Out :=
  .next (if farState s p = 0 ∧ 11 ≤ s.boot.done then trainPort s p found else s)

/-- FORMAT: the port's contents are erased, every logical granule is ZERO and every healthy physical granule free (R333, R356). -/
def formatPort (s : State) (p : Nat) : State :=
  let m := farModule s p
  let t := if 4 ≤ farState s p then (farPort s p).tables else m.ckpt
  let bad := t.phys.map (fun (x, r) => (x, if r.state = 1 then { r with state := 0 } else r))
  let t : FarTables := { fwd := [], phys := bad, hours := m.hours % 2048 }
  let s := dropFarLines s p
  let s := { s with far := { s.far with persists := s.far.persists.map (fun r => { r with covers := r.covers.filter (fun c => decide (c.1.1 ≠ p)) }) } }
  let f := farPort s p
  let s := setFarModule s p { m with header := .valid, media := [], ckpt := t, ckptSeq := 0, journal := [], readonly := false }
  let s := setFarPort (setRegFld s (Reg.FME_PORT_STAT p) 0 3 4) p { tables := t, width := f.width, sinceLevel := f.sinceLevel }
  recomputeTint (checkPool s p) 3

/-- UNMOUNT: a persist, a checkpoint, and the link goes down (R346, R350, R356). -/
def unmountPort (s : State) (p : Nat) : State :=
  let s := checkpoint (syncFar s) p
  let f := farPort s p
  let s := setRegFld (setRegFld (dropFarLines s p) (Reg.FME_PORT_STAT p) 0 3 0) (Reg.FME_PORT_STAT p) 4 3 0
  recomputeTint (setFarPort s p { width := f.width, sinceLevel := f.sinceLevel }) 3

/-- A write of FME_PORT_CMD (R356): 1 FORMAT, 2 UNMOUNT, 3 MOUNT; discarded with CMD_REFUSED where it may not act. -/
def writePortCmd (s : State) (p : Nat) (v : Word) : State :=
  let refused := setRegBit s (Reg.FME_PORT_STAT p) 9
  let st := farState s p
  match fld v 0 2 with
  | 0 => s
  | 1 => if s.items.itt.isEmpty ∧ (st = 1 ∨ st = 2 ∨ st = 4) then formatPort s p else refused
  | 2 => if s.items.itt.isEmpty ∧ (st = 4 ∨ st = 5) then unmountPort s p else refused
  | _ => if s.items.itt.isEmpty ∧ st = 0 ∧ (farPort s p).width ≠ 0 then mountPort s p (farPort s p).width else refused

/-- The written word with a command number in place of CMD. -/
def withCmd (v : Word) (c : Nat) : Word := setFld v 0 2 c

/-- FORMAT. -/
def execFormat (p : Fin 12) (v : Word) (s : State) : Out :=
  .next (whenLive s (Reg.FME_PORT_CMD p) (fun s => writePortCmd s p (withCmd v 1)))

/-- UNMOUNT. -/
def execUnmount (p : Fin 12) (v : Word) (s : State) : Out :=
  .next (whenLive s (Reg.FME_PORT_CMD p) (fun s => writePortCmd s p (withCmd v 2)))

/-- MOUNT. -/
def execMount (p : Fin 12) (v : Word) (s : State) : Out :=
  .next (whenLive s (Reg.FME_PORT_CMD p) (fun s => writePortCmd s p (withCmd v 3)))

end Sys2Proof.Machine
end

