-- ==== Sys2Proof/Machine/ThreadCode.lean ====
section
/-! DEFINITION. The 64-bit instruction word of a thread engine: the four forms, their fields, which words are legal and which
v registers a word names (R228 to R233). -/

namespace Sys2Proof

/-- The word of a form R instruction of class cls and operation op (R231). DEDUCED, log 23. -/
def RForm.encode (cls : BitVec 4) (op : BitVec 8) (r : RForm) : BitVec 64 :=
  cls ++ op ++ BitVec.ofBool r.g ++ BitVec.ofBool r.gn ++ r.gp ++ r.d ++ r.a ++ r.b ++ r.c
    ++ BitVec.ofBool r.ud ++ BitVec.ofBool r.ua ++ BitVec.ofBool r.ub ++ BitVec.ofBool r.uc ++ r.mod

/-- The form R fields of a word (R231). -/
def RForm.ofWord (w : BitVec 64) : RForm :=
  { g := w.getLsbD 51, gn := w.getLsbD 50, gp := w.extractLsb' 46 4, d := w.extractLsb' 38 8, a := w.extractLsb' 30 8,
    b := w.extractLsb' 22 8, c := w.extractLsb' 14 8, ud := w.getLsbD 13, ua := w.getLsbD 12, ub := w.getLsbD 11,
    uc := w.getLsbD 10, mod := w.extractLsb' 0 10 }

/-- The word of a form I instruction (R231). DEDUCED, log 23. -/
def IForm.encode (cls : BitVec 4) (op : BitVec 8) (i : IForm) : BitVec 64 :=
  cls ++ op ++ BitVec.ofBool i.g ++ BitVec.ofBool i.gn ++ i.gp ++ i.d ++ BitVec.ofBool i.ud ++ i.rsv ++ i.imm

/-- The form I fields of a word (R231). -/
def IForm.ofWord (w : BitVec 64) : IForm :=
  { g := w.getLsbD 51, gn := w.getLsbD 50, gp := w.extractLsb' 46 4, d := w.extractLsb' 38 8, ud := w.getLsbD 37,
    rsv := w.extractLsb' 32 5, imm := w.extractLsb' 0 32 }

/-- The word of a form M instruction (R231). DEDUCED, log 23. -/
def MForm.encode (cls : BitVec 4) (op : BitVec 8) (m : MForm) : BitVec 64 :=
  cls ++ op ++ BitVec.ofBool m.g ++ BitVec.ofBool m.gn ++ m.gp ++ m.d ++ m.a ++ m.b ++ m.off ++ m.size ++ m.hint
    ++ BitVec.ofBool m.w

/-- The form M fields of a word (R231). -/
def MForm.ofWord (w : BitVec 64) : MForm :=
  { g := w.getLsbD 51, gn := w.getLsbD 50, gp := w.extractLsb' 46 4, d := w.extractLsb' 38 8, a := w.extractLsb' 30 8,
    b := w.extractLsb' 22 8, off := w.extractLsb' 6 16, size := w.extractLsb' 3 3, hint := w.extractLsb' 1 2, w := w.getLsbD 0 }

/-- The word of a form A instruction (R231). DEDUCED, log 23. -/
def AForm.encode (cls : BitVec 4) (op : BitVec 8) (m : AForm) : BitVec 64 :=
  cls ++ op ++ BitVec.ofBool m.g ++ BitVec.ofBool m.gn ++ m.gp ++ m.d ++ m.a ++ m.b ++ m.c ++ m.e ++ m.order ++ m.scope
    ++ m.space

/-- The form A fields of a word (R231). -/
def AForm.ofWord (w : BitVec 64) : AForm :=
  { g := w.getLsbD 51, gn := w.getLsbD 50, gp := w.extractLsb' 46 4, d := w.extractLsb' 38 8, a := w.extractLsb' 30 8,
    b := w.extractLsb' 22 8, c := w.extractLsb' 14 8, e := w.extractLsb' 6 8, order := w.extractLsb' 4 2,
    scope := w.extractLsb' 2 2, space := w.extractLsb' 0 2 }

end Sys2Proof

namespace Sys2Proof.Machine

/-- CLASS of a word (R231). -/
def wordClass (w : BitVec 64) : Nat := fld w 60 4
/-- OP of a word (R231). -/
def wordOp (w : BitVec 64) : Nat := fld w 52 8

/-- The forms of R231. -/
inductive Form where
  | r | i | m | a
  deriving DecidableEq, Repr

/-- The form of a listed CLASS and OP; none for a reserved class or an OP that its class does not list (R232, R233, R236,
R238, R240, R243, R249, R252 to R254, R261). -/
def formOf (cls op : Nat) : Option Form :=
  match cls with
  | 0 => if op = 0x1A ∨ op = 0x1B then some .i else if op ≤ 0x1F then some .r else none
  | 1 => if op ≤ 0x0D ∨ (0x10 ≤ op ∧ op ≤ 0x12) then some .r else none
  | 2 => if op / 16 = 0 ∨ op / 16 = 2 ∨ op / 16 = 3 then some .r else none
  | 3 => if op = 0 ∨ op = 2 ∨ op = 4 then some .i else if op ≤ 6 then some .r else none
  | 4 => if op ≤ 1 then some .m else none
  | 5 => if op ≤ 1 then some .m else none
  | 6 => if op ≤ 1 then some .m else none
  | 7 => if op ≤ 0xD then some .a else none
  | 8 => if op = 0 then some .r else none
  | 9 => if op = 0 then some .r else none
  | 10 => if op ≤ 4 ∨ op = 8 ∨ op = 9 ∨ (0xC ≤ op ∧ op ≤ 0xE) then some .r else none
  | 11 => if op = 0 then some .i else if op = 1 then some .r else none
  | _ => none

/-- A format that cvt takes or gives (R240). -/
def cvtFormat (f : Nat) : Bool := decide (f ≤ 4) || decide (9 ≤ f ∧ f ≤ 11)

/-- A block-scaled format code (R44). -/
def narrowFormat (f : Nat) : Bool := decide (5 ≤ f ∧ f ≤ 8)

/-- A register number of a v pair or quad (R229). -/
def aligned (n : Nat) (r : BitVec 8) : Bool := decide (r.toNat % n = 0)

/-- The u registers that a class 0xA instruction takes from u(A) (R254, R257). -/
def arrayArgs (op : Nat) : Nat :=
  if op ≤ 2 then 16 else if op = 4 ∨ op = 0xE then 4 else if op = 0xC ∨ op = 0xD then 1 else 0

/-- A form R word is legal (R229, R233, R236, R237, R240, R241, R243, R252 to R254, R261): MOD bits without a meaning for the
instruction are reserved, and a narrow source, for whose scale cvt.blk has no operand, pairs with none of its targets (R52, R240;
DEDUCED, log 22). -/
def legalR (cls op : Nat) (r : RForm) : Bool :=
  let m := r.mod.toNat
  let uok := !(r.ud && decide (63 < r.d.toNat)) && !(r.ua && decide (63 < r.a.toNat)) && !(r.ub && decide (63 < r.b.toNat))
    && !(r.uc && decide (63 < r.c.toNat))
  let ok := match cls with
    | 0 => if op = 0x17 then decide (m < 6) else decide (m = 0)
    | 1 => if op = 8 then decide (m % 4 < 2 ∧ m / 4 < 7) else decide (m < 2)
    | 2 =>
      let src := op % 16
      let dst := m / 64
      let st := decide (m / 16 % 4 = 2)
      decide (m % 8 = 0) && decide (m / 16 % 4 ≠ 3) && (match op / 16 with
        | 0 => cvtFormat src && cvtFormat dst && !(st && !aligned 2 r.b)
        | 2 => narrowFormat src && cvtFormat dst && !(st && !aligned 2 r.c)
        | _ => cvtFormat src && narrowFormat dst && !(st && !aligned 2 r.b) && decide (r.c.toNat ≤ 63))
    | 3 => (if op = 6 then decide (m < 32) else decide (m = 0)) && !(decide (op = 1) && !aligned 2 r.a)
    | 8 => decide (m % 4 ≠ 0 ∧ m < 16)
    | 9 => decide (m < 32) && !(bit r.mod 4 && (bit r.mod 0 || decide (63 < r.a.toNat)))
    | 10 =>
      let n := arrayArgs op
      r.ua && decide (r.a.toNat + n ≤ 64 ∨ n = 0) && !(decide (op ≤ 2) && decide (r.a.toNat % 16 ≠ 0))
        && (if op = 3 ∨ op = 8 then decide (4 ≤ m) else decide (m < 4))
    | 11 => decide (m < 2)
    | _ => true
  uok && ok

/-- A form I word is legal (R229, R233, R243, R261). -/
def legalI (cls op : Nat) (i : IForm) : Bool :=
  let n := i.imm.toNat
  decide (i.rsv = 0) && !(i.ud && decide (63 < i.d.toNat)) && (match cls with
    | 3 => if op = 4 then decide (1 ≤ n ∧ n ≤ 4096) else decide (n % 8 = 0) && (decide (op = 0) || aligned 2 i.d)
    | 11 => decide (n < 256)
    | _ => true)

/-- The u pair of a global address (R229, R245). -/
def pairOk (a : BitVec 8) : Bool := aligned 2 a && decide (a.toNat < 64)

/-- A form M word is legal (R229, R233, R244, R245, R247). -/
def legalM (cls : Nat) (m : MForm) : Bool :=
  decide (m.size.toNat ≤ 4) && decide (m.hint.toNat ≤ 1) && (decide (cls = 6) || decide (m.hint = 0))
    && !(decide (cls ≠ 4) && m.w) && (decide (cls ≠ 6) || pairOk m.a)
    && (decide (m.size ≠ 3) || aligned 2 m.d) && (decide (m.size ≠ 4) || aligned 4 m.d)

/-- A form A word is legal (R233, R249, R250). -/
def legalA (op : Nat) (m : AForm) : Bool :=
  decide (m.space ≠ 3) && (decide (m.space ≠ 0) || pairOk m.a)
    && !(decide (op = 0xC) && bit m.order 1) && !(decide (op = 0xD) && bit m.order 0)

/-- A word is no illegal instruction (R233). DEDUCED, log 22. -/
def legalWord (w : BitVec 64) : Bool :=
  match formOf (wordClass w) (wordOp w) with
  | some .r => legalR (wordClass w) (wordOp w) (RForm.ofWord w)
  | some .i => legalI (wordClass w) (wordOp w) (IForm.ofWord w)
  | some .m => legalM (wordClass w) (MForm.ofWord w)
  | some .a => legalA (wordOp w) (AForm.ofWord w)
  | none => false

/-- How many v registers a form R instruction names at D, A, B and C (R228, R229, R236, R238, R240, R243, R254, R261). -/
def namesR (cls op : Nat) (r : RForm) : Nat × Nat × Nat × Nat :=
  match cls with
  | 0 =>
    if op = 5 then (1, 1, 1, 1) else if op = 9 ∨ op = 0x15 ∨ op = 0x16 ∨ op = 0x19 then (1, 1, 0, 0)
    else if op = 0x17 then (0, 1, 1, 0) else if 0x1C ≤ op ∧ op ≤ 0x1E then (0, 0, 0, 0) else if op = 0x1F then (1, 0, 0, 0)
    else (1, 1, 1, 0)
  | 1 =>
    if op = 3 ∨ op = 0x10 then (1, 1, 1, 1) else if op = 6 ∨ op = 7 ∨ (9 ≤ op ∧ op ≤ 0xC) then (1, 1, 0, 0)
    else if op = 8 then (0, 1, 1, 0) else (1, 1, 1, 0)
  | 2 =>
    let st := decide (r.mod.toNat / 16 % 4 = 2)
    match op / 16 with
    | 2 => (1, 1, 1, if st then 2 else 0)
    | _ => (1, 1, if st then 2 else 0, 0)
  | 3 => if op = 1 then (0, 2, 0, 0) else if op = 5 then (1, 0, 0, 0) else (0, 0, 0, 0)
  | 10 => if op = 3 ∨ op = 9 then (1, 0, 0, 0) else (0, 0, 0, 0)
  | 11 => (1, 0, 0, 0)
  | _ => (0, 0, 0, 0)

/-- The first v register number above all that a word names: the instruction needs VREGS to be at least this (R186). -/
def vregsNamed (w : BitVec 64) : Nat :=
  let top (n : Nat) (r : BitVec 8) : Nat := if n = 0 then 0 else r.toNat + n
  let cls := wordClass w
  let op := wordOp w
  match formOf cls op with
  | some .r =>
    let r := RForm.ofWord w
    let (d, a, b, c) := namesR cls op r
    let stoch := decide (cls = 2)
    max (max (if r.ud then 0 else top d r.d) (if r.ua then 0 else top a r.a))
      (max (if r.ub && !(stoch && decide (b = 2)) then 0 else top b r.b) (if r.uc && !(stoch && decide (c = 2)) then 0 else top c r.c))
  | some .i =>
    let i := IForm.ofWord w
    let n := if cls = 0 then 1 else if cls = 3 ∧ op = 2 then 2 else 0
    if i.ud && decide (cls = 0) then 0 else top n i.d
  | some .m =>
    let m := MForm.ofWord w
    max (top (max 1 (2 ^ m.size.toNat / 4)) m.d) (top 1 m.b)
  | some .a =>
    let m := AForm.ofWord w
    max (max (top 1 m.b) (if op = 0xD then 0 else top 1 m.d))
      (max (if op = 0xC then 0 else top 1 m.c) (if op = 0xA then top 1 m.e else 0))
  | none => 0

end Sys2Proof.Machine
end

