-- ==== Sys2Proof/Machine/EngineBase.lean ====
section
/-! DEFINITION. What every thread instruction shares: the choice of threads, fetch, the issue itself, traps, barriers and the
freeing of groups (chapter 6, R228 to R234). -/

namespace Sys2Proof.Machine

/-- NGRP + 1 of a launch record (R187). -/
def launchGroups (r : LaunchRec) : Nat := fld r 0 5 + 1
/-- LASTN + 1. -/
def launchLast (r : LaunchRec) : Nat := fld r 5 5 + 1
/-- VREGS (R186). -/
def launchVregs (r : LaunchRec) : Nat := 8 * (fld r 10 5 + 1)
/-- LSIZE, in KiB. -/
def launchLsize (r : LaunchRec) : Nat := fld r 16 9
/-- PC. -/
def launchPc (r : LaunchRec) : Nat := fld r 32 48
/-- ARGADDR. -/
def launchArgs (r : LaunchRec) : Nat := fld r 96 48
/-- TINT. -/
def launchTint (r : LaunchRec) : Nat := fld r 189 3
/-- AGRANT bit a. -/
def launchGrant (r : LaunchRec) (a : Nat) : Bool := bit r (224 + a)

/-- Count on an engine counter unless TE_CTRL.CNT_FREEZE holds it (R217, R223). -/
def countEngine (s : State) (e off k : Nat) : State := if regBit s (Reg.TE_CTRL e) 5 then s else addCounter s off k

/-- A v register of a thread. -/
def Thread.reg (t : Thread) (i : Nat) : Word := lookD t.v i 0

/-- Write a v register; zero is not listed. -/
def Thread.setReg (t : Thread) (i : Nat) (w : Word) : Thread := { t with v := putD 0 t.v i w }

/-- A predicate of a thread. -/
def Thread.pred (t : Thread) (i : Nat) : Bool := bit t.p (i % 16)

/-- Write a predicate. -/
def Thread.setPred (t : Thread) (i : Nat) (b : Bool) : Thread := { t with p := setFld t.p (i % 16) 1 (b2n b) }

/-- A u register of a group. -/
def Group.ureg (g : Group) (i : Nat) : Word := lookD g.u i 0

/-- Write a u register; zero is not listed. -/
def Group.setU (g : Group) (i : Nat) (w : Word) : Group := { g with u := putD 0 g.u i w }

/-- The thread in a lane. -/
def Group.th (g : Group) (l : Nat) : Thread := g.threads.getD l {}

/-- Change the thread in a lane. -/
def Group.modTh (g : Group) (l : Nat) (f : Thread → Thread) : Group := { g with threads := modAt g.threads l f }

/-- The thread is ready (R194); operands are always there (DESIGN CHOICE, log 12). -/
def Thread.ready (t : Thread) : Bool := !t.exited && t.bar.isNone && t.nap.isNone

/-- Lanes of the group. -/
def lanes32 : List Nat := List.range 32

/-- The ready lanes of a group. -/
def Group.readyLanes (g : Group) : List Nat := lanes32.filter (fun l => (g.th l).ready)

/-- The subset of a program counter. -/
def Group.subset (g : Group) (pc : Addr) : List Nat := g.readyLanes.filter (fun l => decide ((g.th l).pc = pc))

/-- The greatest age of some lanes. -/
def Group.maxAge (g : Group) (ls : List Nat) : Nat := maxNat (ls.map (fun l => (g.th l).age))

/-- Of two program counters, the one that R195 prefers. -/
def Group.prefers (g : Group) (p q : Addr) : Bool :=
  let a := g.subset p
  let b := g.subset q
  let sa := decide (64 ≤ g.maxAge a)
  let sb := decide (64 ≤ g.maxAge b)
  if sa && sb then decide (g.maxAge b < g.maxAge a) || (decide (g.maxAge a = g.maxAge b) && decide (p.toNat ≤ q.toNat))
  else if sa then true
  else if sb then false
  else decide (b.length < a.length) || (decide (a.length = b.length) && decide (p.toNat ≤ q.toNat))

/-- The subset that R195 picks; none while no thread is ready. DEDUCED, log 23. -/
def Group.pick (g : Group) : Option Subset :=
  match g.readyLanes.map (fun l => (g.th l).pc) with
  | [] => none
  | p :: t =>
    let pc := t.foldl (fun best q => if g.prefers best q then best else q) p
    some ⟨pc, g.subset pc, decide (64 ≤ g.maxAge (g.subset pc))⟩

/-- The group may issue (R207, R211, R212): it runs, or it is halted with a step waiting. -/
def Group.eligible (g : Group) : Bool :=
  !g.stopped && (decide (g.dbg = .running) || (decide (g.dbg = .halted) && g.stepPend))

/-- The group is ready (R192): a thread of it is, it has no instruction in issue, and the debugger does not hold it. -/
def Group.readyNow (g : Group) : Bool := g.eligible && g.inIssue.isNone && g.pick.isSome

/-- A promoted group that is ready goes before this one (R193): promoted groups go before the others, and the older of them first.
Among groups that are not promoted the model does not enforce the order of age (R192): which of the older ones still have an
instruction or an operand under way is a matter of time (DESIGN CHOICE, log 12). -/
def outranked (s : State) (e sl : Nat) (g : Group) : Bool :=
  (eng s e).groups.any (fun (i, h) => decide (i ≠ sl) && h.promoted && h.readyNow && (!g.promoted || decide (h.age < g.age)))

/-- Words that the instruction cache holds (R185). -/
def icacheWords : Nat := 8192

/-- A word enters the instruction cache; a full one gives up another (R185). DESIGN CHOICE, log 75. -/
def fillCache (c : Tbl (BitVec 64)) (pc : Addr) (w : BitVec 64) : Tbl (BitVec 64) :=
  if c.length < icacheWords ∨ (look c pc.toNat).isSome then put c pc.toNat w
  else put (c.eraseIdx (Config.icacheVictim pc % c.length)) pc.toNat w

/-- The instruction at an address, from the cache or from local memory; none where it cannot be fetched (R185, R208, R616,
DEDUCED, log 23). -/
def fetchWord (s : State) (e : Nat) (pc : Addr) : Option (BitVec 64) :=
  match look (eng s e).icache pc.toNat with
  | some w => some w
  | none =>
    if mapped s .teGlobal pc.toNat 8 && !readPoison s pc.toNat 8 then some (BitVec.ofNat 64 (ofBytes (readBytes s pc.toNat 8)))
    else none

/-- The block of a group. -/
def blockOf (s : State) (e : Nat) (g : Group) : Option Block := look (eng s e).blocks g.block

/-- Change the block of a number. -/
def setBlock (s : State) (e b : Nat) (x : Block) : State :=
  let g := eng s e
  setEng s e { g with blocks := put g.blocks b x }

/-- Change every group of a block. -/
def modBlockGroups (s : State) (e b : Nat) (f : Group → Group) : State :=
  let x := eng s e
  setEng s e { x with groups := x.groups.map (fun (i, g) => (i, if g.block = b then f g else g)) }

/-- A group of a block that a trap halts (R207, R211): an instruction in issue completes first. -/
def Group.trapHalt (g : Group) : Group :=
  { g with dbg := if g.inIssue.isSome then .halting else .halted, stepPend := false }

/-- A trap (R207, R219, R221): it is recorded in the group's slot, and pending; the block halts in debug mode with TRAP_HALT = 1,
and otherwise its item fails and its groups stop. -/
def trapGroup (s : State) (e sl lane code detail : Nat) (addr : Addr) : State :=
  match grp s e sl with
  | none => s
  | some g =>
    let k := launchKey g.launch
    let r : TrapRec := {
      code := BitVec.ofNat 8 code
      lane := ⟨lane % 32, by omega⟩
      detail := BitVec.ofNat 8 detail
      gidx := BitVec.ofNat 5 g.gidx
      pc := (g.th lane).pc
      addr := addr
      orig := k.orig
      item := k.item }
    let x := eng s e
    let s := setRegBit (setEng s e { x with traps := put x.traps sl r }) (Reg.TE_TRAP_PEND e (sl / 32)) (sl % 32)
    if debugMode s && regBit s (Reg.TE_DBG_CTRL e) 11 then
      let s := modBlockGroups s e g.block Group.trapHalt
      match blockOf s e g with
      | some b => setBlock s e g.block { b with trapped := some (BitVec.ofNat 8 code) }
      | none => s
    else
      let s := modBlockGroups s e g.block (fun h => { h with stopped := true })
      failItem s k 4 (code + engineNumber s e * 2 ^ 8)

/-- A fault of one thread in an instruction: its lane, trap code, detail and address (R208, R209). -/
structure LaneFault where
  lane : Nat
  code : Nat
  detail : Nat
  addr : Addr
  deriving DecidableEq, Repr

/-- What an instruction did: the group and the rest of the state after it, the faults, the program counters of threads that
branch, what follows once the group is stored, and whether it stays in issue instead, for which ring slots by lane. -/
structure IssueRes where
  st : State
  g : Group
  faults : List LaneFault := []
  pcs : List (Nat × Addr) := []
  post : State → State := id
  stall : Bool := false
  slots : List (Nat × Nat) := []

/-- The fault to record: the lowest lane, and its lowest code (R209). -/
def worstFault (fs : List LaneFault) : Option LaneFault :=
  fs.foldl (fun m f => match m with
    | none => some f
    | some x => if f.lane < x.lane ∨ (f.lane = x.lane ∧ f.code < x.code) then some f else some x) none

/-- The guard of a thread (R234). -/
def guardOf (w : BitVec 64) (t : Thread) : Bool :=
  if bit w 51 then t.pred (fld w 46 4) != bit w 50 else true

/-- An enabled breakpoint lies at an address, in debug mode (R210, R214, R227). -/
def breakpointAt (s : State) (e : Nat) (pc : Addr) : Bool :=
  debugMode s && (List.range 4).any (fun n =>
    regBit s (Reg.TE_BRK_LO e n) 0 &&
      decide (pc.toNat = regFld s (Reg.TE_BRK_LO e n) 3 29 * 8 + regFld s (Reg.TE_BRK_HI e n) 0 16 * 2 ^ 32))

/-- The counters of one group-issue (R223). -/
def countIssue (s : State) (e : Nat) (g : Group) (p : Subset) : State :=
  let s := countEngine s e (Reg.TE_CNT_ISSUE e) 1
  let live := (lanes32.filter (fun l => !(g.th l).exited)).length
  let s := countEngine s e (Reg.TE_CNT_PARTIAL e) (b2n (decide (p.lanes.length < live)))
  let s := countEngine s e (Reg.TE_CNT_STARVE e) (b2n p.starved)
  countEngine s e (Reg.TE_CNT_PROMOTE e) (b2n g.promoted)

/-- Ages and program counters after an issue (R195, R234): the lanes that fault keep their program counter. -/
def Group.advance (g : Group) (p : Subset) (faults : List LaneFault) (pcs : List (Nat × Addr)) : Group :=
  let step (l : Nat) (t : Thread) : Thread :=
    if p.lanes.contains l then
      let t := { t with age := 0 }
      if faults.any (fun f => f.lane == l) then t
      else { t with pc := match pcs.find? (fun x => x.1 == l) with
        | some x => x.2
        | none => t.pc + 8 }
    else { t with age := t.age + 1 }
  { g with threads := g.threads.zipIdx.map (fun (t, l) => step l t), promoted := false }

/-- The end of a step (R212): the group is halted again and STEP_DONE is set. -/
def endStep (s : State) (e : Nat) (stepping : Bool) : State :=
  if stepping then setRegBit s (Reg.TE_DBG_STAT e) 2 else s

/-- What an instruction leaves once it has issued. DEDUCED, log 33. -/
def finishIssue (e sl : Nat) (g0 : Group) (p : Subset) (r : IssueRes) : State :=
  let stepping := decide (g0.dbg = .halted) || (match g0.inIssue with
    | some x => x.step
    | none => false)
  let g := r.g.advance p r.faults r.pcs
  let g := { g with dbg := if stepping then .halted else g.dbg, inIssue := none, regFault := none }
  let g := { g with stopped := g.stopped || (match grp r.st e sl with
    | some h => h.stopped
    | none => false) }
  let s1 := setGrp (countIssue r.st e g0 p) e sl { g with stepPend := false, stepOver := false }
  let s2 := r.post (endStep s1 e stepping)
  match worstFault r.faults with
  | some f => trapGroup s2 e sl f.lane f.code f.detail f.addr
  | none => s2

/-- The instruction stays in issue (R192, R246, R274): it leaves only what it has recorded. One that its own effect has ended is
abandoned. -/
def stayInIssue (e sl : Nat) (g0 : Group) (p : Subset) (w : BitVec 64) (r : IssueRes) : State :=
  match grp r.st e sl with
  | some h =>
    let step := decide (g0.dbg = .halted) || (match g0.inIssue with
      | some x => x.step
      | none => false)
    let x : InIssue := { word := w, sub := p, slots := r.slots, step := step }
    if h.stopped then r.st
    else setGrp r.st e sl { h with inIssue := some x, stepPend := false, dbg := if h.dbg = .halted then .running else h.dbg }
  | none => r.st

/-- The lanes in which an instruction takes effect (R234, R208): those whose guard is true, without one whose registers hold an
uncorrectable error. -/
def effectLanes (g : Group) (p : Subset) (w : BitVec 64) : List Nat :=
  p.lanes.filter (fun l => guardOf w (g.th l) && decide (g.regFault.map Fin.val ≠ some l))

/-- The faults of a lane whose registers hold an uncorrectable error (R208). -/
def regFaults (g : Group) (p : Subset) : List LaneFault :=
  match g.regFault with
  | some l => if p.lanes.contains l.val then [⟨l, 0x0D, 0, 0⟩] else []
  | none => []

/-- The word w is carried out for a subset, or stays in issue. -/
def runWord (s : State) (e sl : Nat) (g : Group) (p : Subset) (w : BitVec 64) (body : State → Group → List Nat → IssueRes) : State :=
  let r := body s g (effectLanes g p w)
  if r.stall then stayInIssue e sl g p w r else finishIssue e sl g p { r with faults := r.faults ++ regFaults g p }

/-- A breakpoint is taken before its instruction executes (R209, R214): the next step goes over it. -/
def takeBreak (s : State) (e sl : Nat) (p : Subset) : State :=
  let t := trapGroup (setRegBit s (Reg.TE_DBG_STAT e) 4) e sl (p.lanes.headD 0) 0x0B 0 0
  match grp t e sl with
  | some h => setGrp t e sl { h with stepOver := true }
  | none => t

/-- A group that is ready, has no promoted group before it and picks a subset that satisfies ok goes on to run, or takes a breakpoint
(R192 to R195, R214). -/
def startIssue (s : State) (e sl : Nat) (ok : Subset → Bool) (run : Group → Subset → State) : State :=
  match grp s e sl with
  | none => s
  | some g =>
    match g.pick with
    | none => s
    | some p =>
      if !g.eligible || g.inIssue.isSome || outranked s e sl g || !ok p then s
      else if breakpointAt s e p.pc && !(g.stepOver && decide (g.dbg = .halted)) then takeBreak s e sl p
      else run g p

/-- The subset has issued the word w, which it fetched (R208, R233): an illegal word, or one that names a v register beyond VREGS,
traps. -/
def issueWord (s : State) (e sl : Nat) (w : BitVec 64) (body : State → Group → List Nat → IssueRes) (g : Group) (p : Subset) : State :=
  let x := eng s e
  let s := setEng s e { x with icache := fillCache x.icache p.pc w }
  if !legalWord w then finishIssue e sl g p { st := s, g := g, faults := p.lanes.map (fun l => ⟨l, 1, 0, 0⟩) }
  else if launchVregs g.launch < vregsNamed w then
    finishIssue e sl g p { st := s, g := g, faults := p.lanes.map (fun l => ⟨l, 3, 0, 0⟩) }
  else runWord s e sl g p w body

/-- The group in slot sl of engine e issues the instruction word w (R192 to R195, R207 to R209, R212, R214, R231 to R234): it
must be the word that the picked subset fetches, or the word that the group has in issue. An illegal word, or one that names a v
register beyond VREGS, traps. DEDUCED, log 23. DEDUCED, log 33. -/
def issue (s : State) (e sl : Nat) (w : BitVec 64) (body : State → Group → List Nat → IssueRes) : State :=
  match (grp s e sl).bind (fun g => g.inIssue.map (fun x => (g, x))) with
  | some (g, x) => if g.stopped || decide (x.word ≠ w) then s else runWord s e sl g x.sub w body
  | none => startIssue s e sl (fun p => decide (fetchWord s e p.pc = some w)) (issueWord s e sl w body)

/-- Every thread that a barrier counts (R202, R204): by slot, the lanes that have not exited and, in a masked one, lie in the
mask. -/
def barrierNeeds (s : State) (e sl : Nat) (g : Group) (b : BarWait) : List (Nat × Nat) :=
  let gs : List (Nat × Group) := if b.block then (eng s e).groups.filter (fun (_, h) => h.block = g.block) else [(sl, g)]
  let inMask (l : Nat) : Bool := match b.mask with
    | some m => bit m l
    | none => true
  (gs.map (fun (i, h) => (lanes32.filter (fun l => !(h.th l).exited && inMask l)).map (fun l => (i, l)))).flatten

/-- The thread waits at a barrier number of the group or block. -/
def waitsAt (t : Thread) (block : Bool) (num : Fin 8) : Bool :=
  match t.bar with
  | some w => decide (w.block = block) && decide (w.num = num)
  | none => false

/-- A thread waiting at a barrier number, if any: the form in which the generation was entered. -/
def barrierForm (s : State) (e sl : Nat) (g : Group) (block : Bool) (num : Fin 8) : Option BarWait :=
  let gs : List Group := if block then ((eng s e).groups.filter (fun (_, h) => h.block = g.block)).map (·.2)
    else ((grp s e sl).map (fun h => [h])).getD []
  ((gs.map (·.threads)).flatten.find? (fun t => waitsAt t block num)).bind (·.bar)

/-- Release a barrier whose threads have all arrived (R202 to R204): they are ready again. -/
def settleBarrier (s : State) (e sl : Nat) (block : Bool) (num : Fin 8) : State :=
  match grp s e sl with
  | none => s
  | some g =>
    match barrierForm s e sl g block num with
    | none => s
    | some b =>
      let here := barrierNeeds s e sl g b
      let arrived (x : Nat × Nat) : Bool := match grp s e x.1 with
        | some h => waitsAt (h.th x.2) block num
        | none => true
      if here.all arrived then
        let free (h : Group) : Group := { h with threads := h.threads.map (fun t => if waitsAt t block num then { t with bar := none } else t) }
        if block then modBlockGroups s e g.block free else setGrp s e sl (free g)
      else s

/-- Settle every barrier of a group and of its block, after an exit (R203). -/
def settleAll (s : State) (e sl : Nat) : State :=
  (List.range 8).foldl (fun s n =>
    let num : Fin 8 := ⟨n % 8, by omega⟩
    settleBarrier (settleBarrier s e sl false num) e sl true num) s

/-- A group leaves its slot (R190): its block goes with its last group. -/
def freeGroup (s : State) (e sl : Nat) : State :=
  match grp s e sl with
  | none => s
  | some g =>
    let x := eng s e
    let gs := del x.groups sl
    let bs := if gs.any (fun (_, h) => h.block = g.block) then x.blocks else del x.blocks g.block
    setEng s e { x with groups := gs, blocks := bs }

end Sys2Proof.Machine
end

