-- ==== Sys2Proof/Machine/Engines.lean ====
section
/-! DEFINITION. The meanings of the engine commands other than instructions: launch and freeing of groups, promotion, naps,
watchdogs and the debugger (chapter 6). -/

namespace Sys2Proof.Machine

/-- The engine is enabled (R216). -/
def engineEnabled (s : State) (e : Nat) : Bool := regBit s (Reg.TE_ID e) 16

/-- The word at fault of a launch record that is refused (R188). -/
def launchBad (r : LaunchRec) : Option Nat :=
  firstBad [(0, bit r 15 || decide (fld r 25 7 ≠ 0) || decide (8192 < launchGroups r * launchVregs r) || decide (384 < launchLsize r)),
    (1, decide (launchPc r % 8 ≠ 0)), (2, decide (fld r 80 16 ≠ 0)), (3, decide (launchArgs r % 64 ≠ 0)),
    (4, decide (fld r 144 16 ≠ 0)), (6, decide (fld r 208 16 ≠ 0)), (7, decide (fld r 228 28 ≠ 0))]

/-- Free group slots, lowest first. -/
def freeSlots (x : Engine) : List Nat := (List.range 48).filter (fun i => (look x.groups i).isNone)

/-- Group-registers in use (R186). -/
def usedRegs (x : Engine) : Nat := (x.groups.map (fun (_, g) => launchVregs g.launch)).foldl (· + ·) 0

/-- KiB of local store of the drain rings (R182, R185). -/
def ringKib (s : State) (e : Nat) : Nat := ((List.range 4).map (fun a => 4 * regFld s (Reg.TE_DRING_CFG e a) 8 6)).foldl (· + ·) 0

/-- KiB of local store free outside the rings (R218). -/
def localFree (s : State) (e : Nat) : Nat :=
  384 - (ringKib s e + ((eng s e).blocks.map (fun (_, b) => launchLsize b.launch)).foldl (· + ·) 0)

/-- What a record needs is free (R188). -/
def launchFits (s : State) (e : Nat) (r : LaunchRec) : Bool :=
  let x := eng s e
  decide (launchGroups r ≤ (freeSlots x).length) && decide (usedRegs x + launchGroups r * launchVregs r ≤ 8192)
    && decide (launchLsize r ≤ localFree s e)

/-- A thread at launch (R189). -/
def launchThread (r : LaunchRec) (gi lane : Nat) : Thread :=
  let idx := BitVec.ofNat 32 (32 * gi + lane)
  { v := if idx = 0 then [] else [(0, idx)]
    pc := BitVec.ofNat 48 (launchPc r)
    exited := decide (gi + 1 = launchGroups r) && decide (launchLast r ≤ lane) }

/-- A group at launch (R189). -/
def launchGroup (s : State) (e : Nat) (r : LaunchRec) (block gi : Nat) : Group :=
  let args := readBytes s (launchArgs r) 64
  let us : List (Nat × Word) := (List.range 16).map (fun i => (i, BitVec.ofNat 32 (ofBytes ((args.drop (4 * i)).take 4))))
  let us := us ++ [(16, BitVec.ofNat 32 gi), (17, BitVec.ofNat 32 (launchGroups r)), (18, BitVec.ofNat 32 (engineNumber s e))]
  { threads := tab 32 (launchThread r gi), u := us.filter (fun x => decide (x.2 ≠ 0)), launch := r, block := block, gidx := gi,
    age := (eng s e).nextAge + gi }

/-- Place every group of a block (R188, R189, R616): the cache is invalidated when the item has no other block here. -/
def placeBlock (s : State) (e : Nat) (r : LaunchRec) : State :=
  let x := eng s e
  let b := x.nextBlock
  let other := x.blocks.any (fun (_, y) => decide (launchKey y.launch = launchKey r))
  let gs := ((freeSlots x).take (launchGroups r)).zipIdx.foldl (fun gs (sl, gi) => put gs sl (launchGroup s e r b gi)) x.groups
  let blk : Block := { launch := r, groups := launchGroups r, base := s.fresh }
  let x := { x with groups := gs, blocks := put x.blocks b blk, nextBlock := b + 1, nextAge := x.nextAge + launchGroups r }
  let x := if other then x else { x with icache := [] }
  { setEng s e x with fresh := s.fresh + 1024 * launchLsize r }

/-- The engine takes a record, or leaves it held (R188, R486): none where it stays held, for want of room or of admission, with the
state in which the admission has been asked for. -/
def takeLaunch (s : State) (e : Nat) (r : LaunchRec) : Option State × State :=
  match launchBad r with
  | some w => (some (descFail s (launchKey r) 4 w), s)
  | none =>
    if !launchFits s e r then (none, s)
    else if (eng s e).groups.isEmpty then
      match requestStart s (.engine e) with
      | (true, t) => (some (placeBlock t e r), t)
      | (false, t) => (none, t)
    else (some (placeBlock s e r), s)

/-- Change the records held for an engine. -/
def setLaunchQ (s : State) (e : Nat) (q : List LaunchRec) : State :=
  let x := eng s e
  setEng s e { x with launchQ := q }

/-- The engine takes the records held for it in issue order, up to the first that it cannot (R188). Fuel bounds the records. -/
def takeHeld (s : State) (e : Nat) : Nat → State
  | 0 => s
  | fuel + 1 =>
    match (eng s e).launchQ with
    | [] => s
    | r :: q =>
      match takeLaunch (setLaunchQ s e q) e r with
      | (some t, _) => takeHeld t e fuel
      | (none, t) => setLaunchQ t e (r :: q)

/-- Every engine takes what it can of the records held for it. -/
def takeAllHeld (s : State) : State :=
  s.engines.foldl (fun s (e, x) => if x.fenced then s else takeHeld s e x.launchQ.length) s

/-- A launch record reaches an engine (R188 to R190, R486, R616): it is taken in issue order, when it fits; until then the dispatcher
holds it, and what is held is taken as room is freed or a start is admitted. -/
def dispatchLaunch (s : State) (e : Nat) (rec : LaunchRec) : State :=
  if !engineEnabled s e || (eng s e).fenced then s
  else
    let q := (eng s e).launchQ ++ [rec]
    takeHeld (setLaunchQ s e q) e q.length

/-- LAUNCH. -/
def execLaunch (e : Fin 50) (rec : LaunchRec) (s : State) : Out := .next (dispatchLaunch s e rec)

/-- GROUP_FREED (R188, R190, R191): a group whose threads have all exited, or whose item has ended, leaves its slot, and the engine
takes what now fits. -/
def execGroupFreed (e : Fin 50) (sl : Fin 48) (s : State) : Out :=
  .next (
    match grp s e sl with
    | some g =>
      if g.stopped || g.threads.all (·.exited) then takeHeld (freeGroup s e sl) e (eng s e).launchQ.length else s
    | none => s)

/-- GROUP_PROMOTION (R193): a group that has stayed ready for 4,096 cycles. -/
def execGroupPromotion (e : Fin 50) (sl : Fin 48) (s : State) : Out :=
  .next (
    match grp s e sl with
    | some g => if g.dbg = .running ∧ g.readyNow = true then setGrp s e sl { g with promoted := true } else s
    | none => s)

/-- NAP_END (R197). -/
def execNapEnd (e : Fin 50) (sl : Fin 48) (lane : Fin 32) (s : State) : Out :=
  .next (
    match grp s e sl with
    | some g => setGrp s e sl (g.modTh lane (fun t => { t with nap := none }))
    | none => s)

/-- BARRIER_TIMEOUT (R206, R211): the watchdog of a generation that has begun reaches its limit; it is held while a counted
group is halted. The trap names the first group with a thread not arrived and its lowest such lane. -/
def execBarrierTimeout (e : Fin 50) (sl : Fin 48) (block : Bool) (bar : Fin 8) (s : State) : Out :=
  .next (
    match grp s e sl with
    | none => s
    | some g =>
      match barrierForm s e sl g block bar with
      | none => s
      | some b =>
        let held := if block then (eng s e).groups.any (fun (_, h) => h.block = g.block && decide (h.dbg ≠ .running))
          else decide (g.dbg ≠ .running)
        let missing := (barrierNeeds s e sl g b).filter (fun x => match grp s e x.1 with
          | some h => !waitsAt (h.th x.2) block bar
          | none => false)
        let gidxOf (x : Nat × Nat) : Nat := match grp s e x.1 with
          | some h => h.gidx
          | none => 0
        let best := missing.foldl (fun m x => match m with
          | none => some x
          | some y => if gidxOf x < gidxOf y then some x else some y) none
        if held || g.stopped then s
        else match best with
          | some (i, l) => trapGroup s e i l 8 bar 0
          | none => s)

/-- Halt the group in a slot (R211, R212): a waiting step is cancelled. -/
def haltGroup (g : Group) : Group :=
  { g with dbg := if g.dbg = .running then .halting else g.dbg, stepPend := false }

/-- Resume the group in a slot (R207, R211): the item of a block that a trap halted fails then. -/
def resumeGroup (s : State) (e sl : Nat) : State :=
  match grp s e sl with
  | none => s
  | some g =>
    let s := setGrp s e sl { g with dbg := .running, stepPend := false, stepOver := false }
    match blockOf s e g with
    | some b =>
      match b.trapped with
      | some c =>
        let s := modBlockGroups (setBlock s e g.block { b with trapped := none }) e g.block (fun h => { h with stopped := true })
        failItem s (launchKey g.launch) 4 (c.toNat + engineNumber s e * 2 ^ 8)
      | none => s
    | none => s

/-- A write of TE_DBG_CTRL (R210 to R212, R224): in debug mode only. -/
def writeDbgCtrl (s : State) (e : Nat) (v : Word) : State :=
  if !debugMode s then s
  else
    let s := storeReg s (Reg.TE_DBG_CTRL e) v
    let sl := regFld s (Reg.TE_DBG_CTRL e) 0 6
    let one (f : Group → Group) (s : State) : State := match grp s e sl with
      | some g => setGrp s e sl (f g)
      | none => s
    let all := (eng s e).groups.map (·.1)
    let s := if bit v 8 then one haltGroup s else s
    let s := if bit v 9 then resumeGroup s e sl else s
    let s := if bit v 10 then one (fun g => if g.dbg = .halted then { g with stepPend := true } else g) s else s
    let s := if bit v 12 then all.foldl (fun s i => match grp s e i with
      | some g => setGrp s e i (haltGroup g)
      | none => s) s else s
    if bit v 13 then all.foldl (fun s i => match grp s e i with
      | some g => if g.dbg = .halted then resumeGroup s e i else s
      | none => s) s else s

/-- DBG_HALT (R210, R211, R224). -/
def execDbgHalt (e : Fin 50) (v : Word) (s : State) : Out :=
  .next (whenLive s (Reg.TE_DBG_CTRL e) (fun s => writeDbgCtrl s e (v ||| 0x100#32)))

/-- HALT_COMPLETE (R211, R274): the halting group is halted once no instruction of it is in issue. -/
def execHaltComplete (e : Fin 50) (sl : Fin 48) (s : State) : Out :=
  .next (
    match grp s e sl with
    | some g => if g.dbg = .halting ∧ g.inIssue = none then setGrp s e sl { g with dbg := .halted } else s
    | none => s)

/-- DBG_RESUME (R207, R211, R224). -/
def execDbgResume (e : Fin 50) (v : Word) (s : State) : Out :=
  .next (whenLive s (Reg.TE_DBG_CTRL e) (fun s => writeDbgCtrl s e (v ||| 0x200#32)))

/-- DBG_STEP (R212, R224). -/
def execDbgStep (e : Fin 50) (v : Word) (s : State) : Out :=
  .next (whenLive s (Reg.TE_DBG_CTRL e) (fun s => writeDbgCtrl s e (v ||| 0x400#32)))

/-- HALT_ALL (R211, R224). -/
def execHaltAll (e : Fin 50) (v : Word) (s : State) : Out :=
  .next (whenLive s (Reg.TE_DBG_CTRL e) (fun s => writeDbgCtrl s e (v ||| 0x1000#32)))

/-- RESUME_ALL (R211, R224). -/
def execResumeAll (e : Fin 50) (v : Word) (s : State) : Out :=
  .next (whenLive s (Reg.TE_DBG_CTRL e) (fun s => writeDbgCtrl s e (v ||| 0x2000#32)))

/-- A write of TE_DBG_DATA (R210, R213, R226): the slot is halted and KIND is 0 to 2. -/
def writeDbgData (s : State) (e : Nat) (v : Word) : State :=
  let sl := regFld s (Reg.TE_DBG_CTRL e) 0 6
  let lane := regFld s (Reg.TE_DBG_SEL e) 0 5
  let i := regFld s (Reg.TE_DBG_SEL e) 8 8
  match grp s e sl with
  | none => s
  | some g =>
    if !debugMode s || decide (g.dbg ≠ .halted) then s
    else match regFld s (Reg.TE_DBG_SEL e) 5 3 with
      | 0 => if i < launchVregs g.launch then setGrp s e sl (g.modTh lane (fun t => t.setReg i v)) else s
      | 1 => setGrp s e sl (g.modTh lane (fun t => { t with p := v.extractLsb' 0 16 }))
      | 2 => if i < 64 then setGrp s e sl (g.setU i v) else s
      | _ => s

/-- DBG_DATA_WRITE (R226). -/
def execDbgDataWrite (e : Fin 50) (v : Word) (s : State) : Out := .next (whenLive s (Reg.TE_DBG_DATA e) (fun s => writeDbgData s e v))

/-- What TE_DBG_DATA shows (R213, R226). Whether a thread that is otherwise ready waits for operands is a matter of time while its
group runs (free, log 12). -/
def dbgData (s : State) (e : Nat) : Word :=
  match grp s e (regFld s (Reg.TE_DBG_CTRL e) 0 6) with
  | none => 0
  | some g =>
    let t := g.th (regFld s (Reg.TE_DBG_SEL e) 0 5)
    let i := regFld s (Reg.TE_DBG_SEL e) 8 8
    match regFld s (Reg.TE_DBG_SEL e) 5 3 with
      | 0 => t.reg i
      | 1 => t.p.setWidth 32
      | 2 => g.ureg i
      | 3 => t.pc.extractLsb' 0 32
      | 4 => (t.pc.extractLsb' 32 16).setWidth 32
      | 5 => if t.exited then 4 else if t.bar.isSome then 2 else if t.nap.isSome then 3
        else if g.dbg = .halted then 0 else BitVec.ofNat 32 (b2n (Config.freeBool s.fresh))
      | _ => 0

/-- The six counters of an engine (R223). -/
def engineCounters (e : Nat) : List Nat :=
  [Reg.TE_CNT_ISSUE e, Reg.TE_CNT_NOREADY e, Reg.TE_CNT_PARTIAL e, Reg.TE_CNT_STARVE e, Reg.TE_CNT_PROMOTE e, Reg.TE_CNT_BARWAIT e]

/-- A write of TE_CTRL (R217): CNT_CLEAR sets the counters to zero. -/
def writeTeCtrl (s : State) (e : Nat) (v : Word) : State :=
  let s := storeReg s (Reg.TE_CTRL e) v
  if bit v 6 then (engineCounters e).foldl (fun s o => setCounter s o 0) s else s

/-- TE_CNT_CLEAR (R217, R223). -/
def execTeCntClear (e : Fin 50) (v : Word) (s : State) : Out := .next (whenLive s (Reg.TE_CTRL e) (fun s => writeTeCtrl s e (v ||| 0x40#32)))

end Sys2Proof.Machine
end

