-- ==== Sys2Proof/Machine/Power.lean ====
section
/-! DEFINITION. Power delivery: phases, staging, the slew governor, efficiency mode and deep idle (R476 to R504, R593). -/

namespace Sys2Proof.Machine

/-- The mesh stop of a region (R21): row × 16 + column. -/
def regionStop (p : Nat) : Nat :=
  let c8 : List Nat := [1, 2, 4, 5, 10, 11, 13, 14]
  let c10 : List Nat := [1, 2, 4, 5, 7, 8, 10, 11, 13, 14]
  if p < 24 then (1 + p / 8) * 16 + c8.getD (p % 8) 0
  else if p < 34 then 4 * 16 + c10.getD (p - 24) 0
  else (5 + (p - 34) / 8) * 16 + c8.getD ((p - 34) % 8) 0

/-- Two regions are neighbours (R484): next to each other in a row or a column. -/
def neighbours (p q : Nat) : Bool :=
  let a := regionStop p
  let b := regionStop q
  (decide (a / 16 = b / 16) && (decide (a + 1 = b) || decide (b + 1 = a))) || decide (a + 16 = b) || decide (b + 16 = a)

/-- A region is at peak (R484): its latest sample exceeds 90 % of its limit. -/
def atPeak (s : State) (p : Nat) : Bool := decide ((if regionState s p = rgCapped then 216 else 360) < lookD s.power.current p 0)

/-- Some neighbour is at peak. -/
def neighbourPeak (s : State) (p : Nat) : Bool := (List.range 50).any (fun q => neighbours p q && atPeak s q)

/-- PHASE_FAIL (R476, R477, R480, R483): a slice's second failure leaves the slice to be retired. -/
def execPhaseFail (ph : Phase) (s : State) : Out :=
  .next (
    if !s.pins.coreUp then s
    else match ph with
      | .logic p k => oneLogic s p k
      | .mem p k => oneMem s p k
      | .sliceMem i k =>
        let m := lookD s.power.sliceMemFail i.val 0
        if m.testBit k.val then s
        else raisePwr { s with power := { s.power with sliceMemFail := put s.power.sliceMemFail i.val (m + 2 ^ k.val) } } 0)

/-- CURRENT_SAMPLE (R478): the cap pause of a capped region follows its current. -/
def execCurrentSample (p : Fin 50) (tenthAmps : Nat) (s : State) : Out :=
  .next (
    if !s.pins.coreUp then s
    else
      let s := { s with power := { s.power with current := put s.power.current p tenthAmps } }
      let off := Reg.PWR_REGION p
      let n := regFld s off 16 4
      if regionState s p ≠ rgCapped then s
      else if 240 < tenthAmps then movePause s p (fun s => setRegFld s off 16 4 (min 15 (n + 1)))
      else if tenthAmps < 216 then movePause s p (fun s => setRegFld s off 16 4 (n - 1))
      else s)

/-- The region that is staged next (R482): the lowest of those that wait. DEDUCED, log 72. -/
def nextStaging (s : State) : Option (Fin 50 × Option (Fin 48)) :=
  if s.power.staging.isSome then none
  else s.power.toStage.foldl (fun b x => match b with
    | some y => if x.1.val < y.1.val then some x else some y
    | none => some x) none

/-- STAGING (R482 to R484): the self-test of the next region, and its staging where enough phases work. -/
def execStaging (p : Fin 50) (logicFails : Byte) (memFails : BitVec 4) (neighbourPeaks : Bool) (s : State) : Out :=
  .next (
    match nextStaging s with
    | none => s
    | some (q, l) =>
      if q ≠ p ∨ s.pins.coreUp = false ∨ s.power.deep = .entering ∨ s.power.deep = .deep then s
      else
        let s := setRegionState s p rgTest
        let s := selfTest s p logicFails memFails
        if !regionAlive s p then s
        else
          let half := neighbourPeaks && neighbourPeak s p
          let s := setRegFld (setRegionState s p rgStaging) (Reg.PWR_REGION p) 3 1 (b2n half)
          let w := s.power
          { s with power := { w with toStage := w.toStage.filter (fun x => decide (x.1 ≠ p)), staging := some ⟨p, 0, half, l⟩ } })

/-- A mode move starts where EFF asks for one, no region stages, and deep idle is not in effect (R492). -/
def tryMove (s : State) : State :=
  let eff := regBit s Reg.PWR_CTRL 0
  if s.power.move.isNone && s.power.staging.isNone && decide (s.power.deep = .none) && decide (9 ≤ s.boot.done)
      && decide (eff ≠ effMode s) then
    setRegFld { s with power := { s.power with move := some eff } } Reg.PWR_STATUS 0 2 3
  else s

/-- Step 8 has closed (R482): the region runs, capped where two phases have failed, its counters read zero, and its bank is to be
zeroed. -/
def regionOn (s : State) (p : Nat) (l : Option Nat) : State :=
  let capped := decide (2 ≤ failCount s p)
  let s := setRegionState s p (if capped then rgCapped else rgOn)
  let s := if capped then raisePwr s 2 else s
  let s := clearRegion s p false
  let s := ((List.range 4).map (fun i => arrayCounters (4 * p + i))).flatten.foldl (fun s o => setCounter s o 0) s
  let s := (engineCounters p).foldl (fun s o => setCounter s o 0) s
  match l with
  | some r =>
    let s := numberRegion s p none
    { s with power := { s.power with zeroing := insNat s.power.zeroing r } }
  | none => s

/-- STAGING_STEP (R482, R483): one header step closes. -/
def execStagingStep (p : Fin 50) (s : State) : Out :=
  .next (
    match s.power.staging with
    | none => s
    | some x =>
      if x.region ≠ p then s
      else if x.steps + 1 < 8 then { s with power := { s.power with staging := some { x with steps := x.steps + 1 } } }
      else tryMove (regionOn { s with power := { s.power with staging := none } } p (x.logical.map (·.val))))

/-- A region begins to accept work as logical region r (R18, R287). -/
def enableRegion (s : State) (p r : Nat) : State :=
  countRegions (clearBank (setRegWord (numberRegion s p (some r)) (Reg.REP_REGION r) (BitVec.ofNat 32 (p + 64))) r)

/-- BANK_ZEROING_COMPLETE (R287). -/
def execBankZeroingComplete (r : Fin 48) (s : State) : Out :=
  .next (
    if s.power.zeroing.contains r.val then
      let s := { s with power := { s.power with zeroing := s.power.zeroing.filter (· ≠ r.val) } }
      enableRegion s (regFld s (Reg.REP_REGION r) 0 6) r
    else s)

/-- A held start is still wanted. -/
def stillWanted (s : State) : Starter → Bool
  | .array n => !(arr s n).streaming && arrayWorks (arr s n)
  | .engine e => !(eng s e).launchQ.isEmpty

/-- Take an amount out of a list, first element first. -/
def takeOut : Nat → List Nat → List Nat
  | _, [] => []
  | n, x :: t => (x - n) :: takeOut (n - x) t

/-- The allowance of a new tick (R486): UP over 10 µs and what the previous 4 ticks left, the oldest being used first. -/
def nextAllowance (s : State) : PowerSt :=
  let p := s.power
  let spent := p.unused.foldl (· + ·) 0 - p.allow
  let left := (takeOut spent p.unused.reverse).reverse
  let l := (regFld s Reg.PWR_GOV_CFG 0 12 :: left).take 5
  { p with unused := l, allow := l.foldl (· + ·) 0, tickEst := 0 }

/-- Change the rating pause, which every region's arrays take (R487). -/
def setRatingPause (s : State) (n : Nat) : State :=
  let was := (List.range 50).map (pauseWanted s)
  (List.range 50).foldl (fun s p => pauseMoved s p (was.getD p 0)) { s with power := { s.power with ratingPause := n } }

/-- The rating pause (R487). -/
def ratePause (s : State) : State :=
  let pm := measuredPower s
  let r := regFld s Reg.PWR_RATING 0 12
  if 100 * r < pm then raisePwr (setRatingPause s (min 15 (s.power.ratingPause + 1))) 4
  else if pm < 95 * r then setRatingPause s (s.power.ratingPause - 1)
  else s

/-- Power that an array under full floor duty draws, in units of 0.01 W (R488). DEDUCED, log 40. -/
def floorWatts : Nat := 340

/-- Power of the floor activity in force. -/
def floorDraw (s : State) : Nat := (s.arrays.map (fun x => x.2.floorDuty * floorWatts / 16)).foldl (· + ·) 0

/-- The arrays in logical order that can take floor duty (R488): idle ones of regions that are on. -/
def floorArrays (s : State) : List Nat :=
  ((List.range 48).map (fun r => match physRegion s r with
    | some p => if regionState s p = rgOn then (List.range 4).map (fun i => 4 * p + i) else []
    | none => [])).flatten.filter (fun n => !arrayWorks (arr s n))

/-- Give an array floor duty in sixteenths; pause insertion that holds its idle slots refuses it (R35). -/
def giveDuty (s : State) (n duty : Nat) : State :=
  let a := arr s n
  if a.idleHold = .pause then (if duty = 0 then s else logConflict s .idleSlots n .pauseInsertion .rampFloor)
  else setArr s n { a with floorDuty := duty, idleHold := if duty = 0 then .none else .floor }

/-- Spread power over idle arrays in order: the state, and what they cannot draw. DEDUCED, log 40. -/
def spreadFloor (s : State) : Nat → List Nat → State × Nat
  | rest, [] => (s, rest)
  | rest, n :: t =>
    let duty := min 16 (ceilDiv (16 * rest) floorWatts)
    let s' := giveDuty s n duty
    if (arr s' n).idleHold = .floor then spreadFloor s' (rest - min rest floorWatts) t else spreadFloor s' rest t

/-- End all floor duty. -/
def clearFloor (s : State) : State :=
  { s with arrays := s.arrays.map (fun (n, a) => (n, if a.idleHold = .floor then { a with floorDuty := 0, idleHold := .none } else a)) }

/-- The ramp floor in a tick (R488, R489). DEDUCED, log 40. -/
def floorTick (s : State) : State :=
  let pw := measuredPower s - floorDraw s
  let pf := max (s.power.floorTarget - regFld s Reg.PWR_GOV_CFG 12 12) pw
  let age := match s.power.floorTicks with
    | some n => n + 1
    | none => 0
  let s := clearFloor s
  if !(regBit s Reg.PWR_CTRL 1 && regBit s Reg.PWR_CTRL 2) || decide (pf ≤ pw) || decide (100 * regFld s Reg.PWR_GOV_CFG 24 8 ≤ age) then
    { s with power := { s.power with floorTarget := pw, floorTicks := none } }
  else
    let s := { s with power := { s.power with floorTarget := pf, floorTicks := some age } }
    let (s, rest) := spreadFloor s (pf - pw) (floorArrays s)
    if 0 < rest then addCounter (raisePwr s 3) Reg.PWR_CNT_SHORT 1 else s

/-- A blade is outside 38 to 62 V (R593). -/
def bladeOut (v : Nat) : Bool := decide (v < 380) || decide (620 < v)

/-- Cycles in which a start was held (R486, R491, R503): at most those of a number of ticks, how many is a matter of time (free, log
12). -/
def countHeld (s : State) (ticks : Nat) : State :=
  if s.power.held.isEmpty then s
  else
    let (w, s) := freeWord s
    addCounter s Reg.PWR_CNT_HOLD (1 + w.toNat % (5000 * ticks))

/-- What a tick of 5,000 MCLK cycles has counted (R503). -/
def countTick (s : State) : State :=
  let s := countHeld s 1
  if floorActive s then addCounter s Reg.PWR_CNT_FLOOR 5000 else s

/-- The governor's tick (R485 to R489). DESIGN CHOICE, log 41. -/
def governorTick (s : State) (volt1 volt2 watts : Nat) : State :=
  let s := countTick s
  let (b, s) := if volt1 = volt2 then (true, s) else freeBool s
  let s := { s with power := { s.power with samples := (watts :: s.power.samples).take 4 } }
  let s := setRegFld (setRegFld s Reg.PWR_INPUT 0 12 (measuredPower s / 100)) Reg.PWR_INPUT 12 10 (if b then volt1 else volt2)
  let s := { s with power := nextAllowance s }
  let s := { s with power := { s.power with held := s.power.held.filter (stillWanted s) } }
  let s := takeAllHeld (admitHeld s s.power.held)
  floorTick (ratePause s)

/-- GOVERNOR_TICK (R485, R591, R593): beyond the absolute limits nothing holds; two samples out of range in a row drop the rails;
a start that waits for the input begins once both blades are in range. DESIGN CHOICE, log 11. -/
def execGovernorTick (volt1 volt2 watts : Nat) (s : State) : Out :=
  if 800 < volt1 ∨ 800 < volt2 then .fault .beyondAbsoluteLimits
  else
    let out := bladeOut volt1 || bladeOut volt2
    let n := if out then s.pins.outSamples + 1 else 0
    let s := { s with pins := { s.pins with outSamples := n } }
    let inRange (v : Nat) : Bool := decide (400 ≤ v) && decide (v ≤ 600)
    .next (
      if !s.pins.coreUp then
        if s.pins.inputDue && inRange volt1 && inRange volt2 then { s with pins := { s.pins with inputDue := false, startDue := true } } else s
      else if 2 ≤ n then
        let s := deviceFault (logEvent s 7 0 [BitVec.ofNat 32 volt1, BitVec.ofNat 32 volt2]) 7
        { s with pins := { s.pins with inputDue := true, outSamples := 0 } }
      else governorTick s volt1 volt2 watts)

/-- RAMP_PHASE_END (R491). -/
def execRampPhaseEnd (s : State) : Out :=
  .next (
    if s.power.phaseWait then
      let s := countHeld { s with power := { s.power with phaseWait := false } } 2550
      takeAllHeld (admitHeld s s.power.held)
    else s)

/-- A write of PWR_CTRL (R492, R498). -/
def writePwrCtrl (s : State) (v : Word) : State := tryMove (storeReg s Reg.PWR_CTRL v)

/-- EFF_WRITE. -/
def execEffWrite (v : Word) (s : State) : Out := .next (whenLive s Reg.PWR_CTRL (fun s => writePwrCtrl s v))

/-- Nothing issues (R492): every array has stopped at a column boundary. An engine is between two instructions. -/
def issueStopped (s : State) : Bool := s.arrays.all (fun x => !x.2.streaming && !x.2.stopping)

/-- MODE_MOVE_COMPLETE (R492): once issue has stopped, ACLK and VDD_LOGIC change and the arrays that stopped for the move resume.
DEDUCED, log 77. -/
def execModeMoveComplete (s : State) : Out :=
  .next (
    match s.power.move with
    | none => s
    | some e =>
      if !issueStopped s then s
      else
        let ns := s.power.paused
        let s := setVdd { s with power := { s.power with move := none, paused := [] } } (if e then 1600 else s.aclkMhz)
        let s := setRegFld s Reg.PWR_STATUS 0 2 (b2n e)
        tryMove (raisePwr (ns.foldl resumeArray s) 5))

/-- Deep idle may begin (R494). DEDUCED, log 48. -/
def mayDeep (s : State) : Bool :=
  s.items.itt.isEmpty && s.items.orig.isEmpty && !isManager s && s.power.staging.isNone && s.power.toStage.isEmpty && s.power.move.isNone
    && decide (s.power.deep = .none) && decide (15 ≤ s.boot.done)

/-- Entry into deep idle begins (R495): the persist and the INVAL flush, LEAVE, and the ports go down. -/
def beginDeep (s : State) : State :=
  let s := flushInvalidate (syncFar { s with power := { s.power with deep := .entering } })
  let s := if isAssigned s then sendControl s (managerId s) [] 0x0C 0 (serialWords (ownSerial s)) else s
  let s := dropIdentity s
  let s := (List.range 16).foldl (fun s q => if 2 ≤ portState s q then downPort s q else s) s
  let back := ((List.range 12).filter (portServes s)).map (fun p => (p, farState s p, (farPort s p).width))
  let s := back.foldl (fun s x => setRegFld (setRegFld s (Reg.FME_PORT_STAT x.1) 0 3 0) (Reg.FME_PORT_STAT x.1) 4 3 0) s
  recomputeTint { s with power := { s.power with farBack := back }, pins := { s.pins with fmPerst := false } } 3

/-- Resume from deep idle (R496): regions wait to be staged again, the far ports mount from the tables kept, the Avolmoth ports
train, and the device waits to join. -/
def beginWake (s : State) : State :=
  let s := { s with power := { s.power with deep := .resuming, wakePend := false, toStage := s.power.asleep, asleep := [] }, pins := { s.pins with fmPerst := true } }
  let s := s.power.farBack.foldl (fun s (p, st, w) =>
    setRegFld (setRegFld s (Reg.FME_PORT_STAT p) 0 3 st) (Reg.FME_PORT_STAT p) 4 3 w) s
  let s := setVdd (recomputeTint { s with power := { s.power with farBack := [] } } 3) s.aclkMhz
  let s := (List.range 16).foldl (fun s q => if regBit s (Reg.FAB_PORT_CTRL q) 0 then startTraining s q else s) s
  setRegFld s Reg.FAB_JOIN_STAT 0 2 1

/-- WAKE is requested (R496): during entry it takes effect once entry completes. -/
def requestWake (s : State) : State :=
  match s.power.deep with
  | .deep => beginWake s
  | .entering => { s with power := { s.power with wakePend := true } }
  | _ => s

/-- A write of PWR_CMD (R494, R496, R498). DEDUCED, log 52. -/
def writePwrCmd (s : State) (v : Word) : State :=
  let s := if bit v 0 then (if mayDeep s then beginDeep s else raisePwr s 6) else s
  if bit v 1 then requestWake s else s

/-- DEEP. -/
def execDeep (v : Word) (s : State) : Out := .next (whenLive s Reg.PWR_CMD (fun s => writePwrCmd s (v ||| 1#32)))

/-- WAKE. -/
def execWake (v : Word) (s : State) : Out := .next (whenLive s Reg.PWR_CMD (fun s => writePwrCmd s (v ||| 2#32)))

/-- Region and Rilaz SRAMs lose their power (R495): the hold window, the banks and every SRAM of the regions. -/
def gateSrams (s : State) : State :=
  let s := { s with mem := s.mem.filter (fun x => decide (x.1 < holdBase)), poison := s.poison.filter (fun a => decide (a < holdBase)) }
  let s := { s with
    arrays := (s.arrays.filter (fun x => x.2.fenced)).map (fun x => (x.1, { fenced := true }))
    engines := (s.engines.filter (fun x => x.2.fenced)).map (fun x => (x.1, { fenced := true }))
    sc := {} }
  (List.range 48).foldl (fun s r => match physRegion s r with
    | some p =>
      let s := { s with power := { s.power with asleep := s.power.asleep ++ [(Fin.ofNat 50 p, some (Fin.ofNat 48 r))] } }
      setRegionState (numberRegion (clrRegBit s (Reg.REP_REGION r) 6) p none) p rgDark
    | none => s) s

/-- Every mover queue is empty. -/
def moversEmpty (s : State) : Bool := s.movers.all (fun x => x.2.isEmpty)

/-- No request waits at a port of the SC: host accesses received before entry complete (R582). -/
def portsEmpty (s : State) : Bool := s.sc.held.isEmpty && s.sc.host.isEmpty

/-- DEEP_IDLE_ENTERED (R306, R495, R582): once the mover queues are empty, no access waits, and what they wrote is flushed. -/
def execDeepIdleEntered (s : State) : Out :=
  .next (
    if s.power.deep = .entering ∧ moversEmpty s = true ∧ portsEmpty s = true then
      let s := flushInvalidate { s with power := { s.power with deep := .deep } }
      let s := setVdd (setRegFld (gateSrams s) Reg.PWR_STATUS 0 2 2) 1600
      if s.power.wakePend then beginWake s else s
    else s)

/-- WAKE_DONE (R496, R497): every region is staged and the device has joined. -/
def execWakeDone (s : State) : Out :=
  .next (
    if decide (s.power.deep = .resuming) && s.power.toStage.isEmpty && s.power.staging.isNone && s.power.zeroing.isEmpty
        && decide (joinState s = 2) then
      let s := setRegFld { s with power := { s.power with deep := .none } } Reg.PWR_STATUS 0 2 0
      tryMove (raisePwr s 7)
    else s)

end Sys2Proof.Machine
end

