-- ==== Sys2Proof/Machine/RegView.lean ====
section
/-! DEFINITION. What a read of a register returns (R9, R10, R13, R14, R529): the stored word, or the word that the state shows. -/

namespace Sys2Proof.Machine

/-- TA_STATUS.STATE (R104). Where several of its values hold at once the table gives no precedence: the model shows fenced, stopping,
streaming, loading, stopped, ramping down in that order; for a preload or a drain it has no value, and none of them shows for one
(DESIGN CHOICE, log 74). -/
def arrayState (s : State) (n : Nat) : Nat :=
  let a := arr s n
  if a.fenced then 6
  else if a.stopping then 3
  else if a.streaming then 2
  else if (match a.queue with
      | e :: _ => decide (descOp e.desc = 1) && !heldByStop a e
      | [] => false) then 1
  else if a.halted then 4
  else match a.ramp with
    | .down _ _ => 5
    | _ => 0

/-- A register of an array: its offset in the array's block (R102 to R107). -/
def arrayView (s : State) (n o : Nat) (w : Word) : Word :=
  match o with
  | 0x8 => setFld w 0 3 (arrayState s n)
  | 0xC => setFld w 0 5 (arr s n).queue.length
  | _ => w

/-- The trap record that the trap registers of an engine show (R220, R221). -/
def shownTrap (s : State) (e : Nat) : Option TrapRec :=
  let sl := regFld s (Reg.TE_TRAP_SEL e) 0 6
  if regBit s (Reg.TE_TRAP_PEND e (sl / 32)) (sl % 32) then look (eng s e).traps sl else none

/-- A trap register of an engine (R221, R222). -/
def trapView (s : State) (e o : Nat) : Word :=
  match shownTrap s e with
  | none => 0
  | some t => match o with
    | 0x1C => BitVec.ofNat 32 (t.code.toNat + t.lane * 2 ^ 8 + t.detail.toNat * 2 ^ 16 + t.gidx.toNat * 2 ^ 24)
    | 0x20 => t.pc.extractLsb' 0 32
    | 0x24 => (t.pc.extractLsb' 32 16).setWidth 32
    | 0x28 => t.addr.extractLsb' 0 32
    | 0x2C => (t.addr.extractLsb' 32 16).setWidth 32
    | _ => BitVec.ofNat 32 (t.orig.toNat + t.item.toNat * 2 ^ 16)

/-- TE_DBG_STAT (R225): STEP_PEND shows a step that waits for a ready thread. -/
def dbgStat (s : State) (e : Nat) (w : Word) : Word :=
  match grp s e (regFld s (Reg.TE_DBG_CTRL e) 0 6) with
  | none => setFld (setFld (setFld w 0 2 0) 3 1 0) 16 5 0
  | some g =>
    let st := match g.dbg with
      | .running => 1
      | .halting => 2
      | .halted => 3
    setFld (setFld (setFld w 0 2 st) 3 1 (b2n (g.stepPend && g.pick.isNone))) 16 5 g.gidx

/-- TE_OCC (R218). -/
def engineOcc (s : State) (e : Nat) : Word :=
  let x := eng s e
  BitVec.ofNat 32 (x.groups.length + (1024 - usedRegs x / 8) * 2 ^ 8 + localFree s e * 2 ^ 20)

/-- TE_DRING_STAT (R183). -/
def dringStat (s : State) (e a : Nat) (w : Word) : Word :=
  setFld (setFld w 0 9 (ringFree s e a)) 16 5 (ring s e a).fifo.length

/-- A register of an engine: its offset in the engine's block (R183, R215 to R226). -/
def engineView (s : State) (e o : Nat) (w : Word) : Word :=
  if o = 0x8 then engineOcc s e
  else if 0x1C ≤ o ∧ o ≤ 0x30 then trapView s e o
  else if o = 0x104 then dbgStat s e w
  else if o = 0x10C then dbgData s e
  else if 0xF004 ≤ o ∧ o < 0xF040 ∧ o % 0x10 = 4 then dringStat s e ((o - 0xF004) / 0x10) w
  else w

/-- PWR_STATUS.GOV (R499). -/
def govState (s : State) : Nat :=
  if floorActive s then 4
  else if s.power.phaseWait then 1
  else if !s.power.held.isEmpty || !s.power.granted.isEmpty then 2
  else if governorRest s then 0
  else 3

/-- A register of the tints and dispatcher block: its offset in the block (R180, R314, R390). -/
def dispView (s : State) (o : Nat) (w : Word) : Word :=
  if 0x70 ≤ o ∧ o < 0x80 then
    let r := (o - 0x70) / 4
    BitVec.ofNat 32 (guarOf s 7 r + ceilOf s 7 r * 2 ^ 16)
  else if o = 0x404 then setFld (setFld w 0 14 s.items.itt.length) 16 14 s.items.orig.length
  else if o = 0xC000 then setFld w 0 13 s.items.trig.length
  else w

/-- The highest WEAR of a granule that is not retired (R356). -/
def maxWear (t : FarTables) : Nat := maxNat ((t.phys.filter (fun x => decide (x.2.state < 2))).map (fun x => x.2.wear))

/-- A register of the far-memory engine: its offset in the block (R356); a port that is not mounted shows no pool. -/
def farView (s : State) (o : Nat) (w : Word) : Word :=
  let p := (o - 0x100) / 0x10
  if o < 0x100 ∨ 0x1C0 ≤ o ∨ !portServes s p then w
  else match o % 0x10 with
    | 4 => BitVec.ofNat 32 (poolSize (farPort s p).tables)
    | 8 => BitVec.ofNat 32 (maxWear (farPort s p).tables)
    | _ => w

/-- A register of the errors and repair block (R472). -/
def repView (s : State) (off : Nat) (w : Word) : Word :=
  if off = Reg.REP_STATUS then setFld (setFld w 0 8 (min 255 s.pend.length)) 16 16 (liveRecords s).length
  else if off = Reg.REP_PEND then ((s.pend[regFld s Reg.REP_PEND_SEL 0 8]?).map (·.what)).getD 0
  else w

/-- GLB_CAUSE with the bits that follow their sources (R590). -/
def causeWord (s : State) : Word := BitVec.ofNat 32 (((List.range 8).map (fun g => b2n (causeBit s g) * 2 ^ g)).foldl (· + ·) 0)

/-- What the word of a register at an aligned BAR0 offset reads as (R9, R14); zero where none is defined. -/
def regView (s : State) (off : Nat) : Word :=
  if (findReg regMap off).isNone then 0
  else
    let w := regWord s off
    if off = Reg.GLB_CAUSE then causeWord s
    else if off = Reg.PWR_STATUS then setFld w 2 3 (govState s)
    else if off < 0x400000 then w
    else if off < 0x600000 then repView s off w
    else if off < 0x800000 then dispView s (off - 0x600000) w
    else if off < 0xE00000 then w
    else if off < 0x1000000 then farView s (off - 0xE00000) w
    else if off < 0x2000000 then arrayView s ((off - 0x1000000) / 0x4000) ((off - 0x1000000) % 0x4000) w
    else if off < 0x3000000 then engineView s ((off - 0x2000000) / 0x10000) ((off - 0x2000000) % 0x10000) w
    else if 0x3008000 ≤ off ∧ off < 0x300A000 ∧ (off - 0x3008000) % 0x100 = 0x44 then
      setFld w 0 6 (lookD s.movers ((off - 0x3008000) / 0x100) []).length
    else w

/-- What a live register reads as; a block that is not live reads zero (R529). -/
def liveView (s : State) (off : Nat) : Word := if blockLive s off then regView s off else 0

/-- One byte of the register space (R13). -/
def regByte (s : State) (a : Nat) : Byte := (liveView s (a / 4 * 4)).extractLsb' (8 * (a % 4)) 8

/-- A read of n bytes at any offset, byte by byte (R13, R14, R529). -/
def regRead (s : State) (off n : Nat) : Nat := ofBytes (tab n (fun i => regByte s (off + i)))

end Sys2Proof.Machine
end

