-- ==== Sys2Proof/Machine/Flags.lean ====
section
/-! DEFINITION. Floating-point arithmetic of the thread instructions and the conditions it sets (R237 to R240). -/

namespace Sys2Proof.Machine

/-- The bits of STAT for some conditions (R239, R242). -/
def FpFlags.bits (f : FpFlags) : BitVec 5 :=
  BitVec.ofNat 5 (b2n f.invalid + 2 * b2n f.divZero + 4 * b2n f.overflow + 8 * b2n f.underflow + 16 * b2n f.inexact)

/-- The rounding of a class 0x1 instruction: MOD[1:0] (R237). -/
def fpMode (m : BitVec 10) : RMode := if bit m 0 then .zero else .nearest

/-- A result that is tiny (R239): rounded to the precision of the format with an unbounded exponent, it is below the smallest
normal. -/
def Fmt.tiny (f : Fmt) (mode : RMode) (m : Nat) (e : Int) : Bool :=
  match f.layout with
  | none => false
  | some (_, mb, bias) =>
    let q := e + Nat.log2 m - mb
    let r := (roundAt mode 0 m e q).1
    decide (q + Nat.log2 r < 1 - (bias : Int))

/-- Round an exact result into a format (R39, R53, R61, R239): an overflow gives an infinity, or the largest finite value
when rounding toward zero. -/
def Fmt.round (f : Fmt) (mode : RMode) (v : Val) : Nat × FpFlags :=
  let w := f.width
  match v with
  | .nan => (f.nanEnc, {})
  | .inf neg => (withSign neg w f.infEnc, {})
  | .num neg m e =>
    let (enc, inx) := f.encMag mode 0 m e
    if m = 0 then (withSign neg w 0, {})
    else if f.maxEnc < enc then
      (withSign neg w (if mode = .zero then f.maxEnc else f.infEnc), { overflow := true, inexact := true })
    else (withSign neg w enc, { underflow := inx && f.tiny mode m e, inexact := inx })

/-- The negative of a value. -/
def Val.neg : Val → Val
  | .nan => .nan
  | .inf n => .inf (!n)
  | .num n m e => .num (!n) m e

/-- Signed multiple of 2^q of a finite value, q at or below its exponent. -/
def signedAt (neg : Bool) (m : Nat) (e q : Int) : Int :=
  let x : Int := (m <<< (e - q).toNat : Nat)
  if neg then -x else x

/-- Exact sum, and whether it is invalid (R239): an exact zero is +0 unless both operands are negative zeros. DEDUCED, log 46. -/
def Val.add (a b : Val) : Val × Bool :=
  match a, b with
  | .nan, _ => (.nan, false)
  | _, .nan => (.nan, false)
  | .inf x, .inf y => if x = y then (.inf x, false) else (.nan, true)
  | .inf x, _ => (.inf x, false)
  | _, .inf y => (.inf y, false)
  | .num x m e, .num y n f =>
    let q := min e f
    let t := signedAt x m e q + signedAt y n f q
    (.num (if t = 0 then x && y && decide (m = 0 ∧ n = 0) else decide (t < 0)) t.natAbs q, false)

/-- Exact product, and whether it is invalid. DEDUCED, log 46. -/
def Val.mul (a b : Val) : Val × Bool :=
  match a, b with
  | .nan, _ => (.nan, false)
  | _, .nan => (.nan, false)
  | .inf x, .inf y => (.inf (x != y), false)
  | .inf x, .num y n _ => if n = 0 then (.nan, true) else (.inf (x != y), false)
  | .num x m _, .inf y => if m = 0 then (.nan, true) else (.inf (x != y), false)
  | .num x m e, .num y n f => (.num (x != y) (m * n) (e + f), false)

/-- a × b + c with one rounding to come; a NaN operand is never invalid (R39). DEDUCED, log 46. -/
def Val.fma (a b c : Val) : Val × Bool :=
  let (p, bad) := a.mul b
  let (t, bad') := p.add c
  (t, !c.isNan && (bad || bad'))

/-- The value of a quotient of positive integers, whose bits below 2^-k only show that they are not all zero. -/
def quotient (neg : Bool) (m n k : Nat) (e : Int) : Val :=
  let q := (m <<< k) / n
  .num neg (2 * q + b2n (decide ((m <<< k) % n ≠ 0))) (e - k - 1)

/-- Quotient, whether it is invalid, and whether a finite number is divided by zero. -/
def Val.div (a b : Val) : Val × Bool × Bool :=
  match a, b with
  | .nan, _ => (.nan, false, false)
  | _, .nan => (.nan, false, false)
  | .inf _, .inf _ => (.nan, true, false)
  | .inf x, .num y _ _ => (.inf (x != y), false, false)
  | .num x _ _, .inf y => (.num (x != y) 0 0, false, false)
  | .num x m e, .num y n f =>
    if n = 0 then (if m = 0 then (.nan, true, false) else (.inf (x != y), false, true))
    else if m = 0 then (.num (x != y) 0 0, false, false)
    else (quotient (x != y) m n 64 (e - f), false, false)

/-- Two finite or infinite values in order: −1, 0 or 1; none when either is a NaN. -/
def Val.cmp (a b : Val) : Option Int :=
  let rank (v : Val) : Int := match v with
    | .inf true => -1
    | .inf false => 1
    | _ => 0
  match a, b with
  | .nan, _ => none
  | _, .nan => none
  | .num x m e, .num y n f =>
    let q := min e f
    let t := signedAt x m e q - signedAt y n f q
    some (if t < 0 then -1 else if t = 0 then 0 else 1)
  | a, b => some (if rank a < rank b then -1 else if rank a = rank b then 0 else 1)

/-- The integer square root by Newton's steps from above; fuel bounds them. -/
def sqrtLoop (n : Nat) : Nat → Nat → Nat
  | 0, x => x
  | fuel + 1, x =>
    let y := (x + n / x) / 2
    if y < x then sqrtLoop n fuel y else x

/-- floor(sqrt n). -/
def isqrt (n : Nat) : Nat := if n = 0 then 0 else sqrtLoop n 600 (2 ^ (Nat.log2 n / 2 + 1))

/-- The integer part of a finite value, toward negative infinity, and its fraction in units of 2^-150. -/
def floorFrac (neg : Bool) (m : Nat) (e : Int) : Int × Nat :=
  let x : Int := if e ≥ -150 then signedAt neg m e (-150) else (if neg then -1 else 0)
  (x / (2 ^ 150 : Nat), (x % (2 ^ 150 : Nat)).toNat)

/-- 2^f in units of 2^-128, for a fraction f of n bits: the product of 2^(2^-i) over its set bits, highest first. -/
def exp2Frac (f : Nat) : Nat → Nat → Nat → Nat
  | 0, _, p => p
  | n + 1, root, p =>
    let r := isqrt (root <<< 128)
    exp2Frac f n r (if f.testBit n then (p * r) >>> 128 else p)

/-- 2^x of a finite value, its bits beyond 2^-128 shown only as one more. -/
def exp2Val (neg : Bool) (m : Nat) (e : Int) : Val :=
  let (n, f) := floorFrac neg m e
  if 128 ≤ n then .num false 1 200
  else if n < -160 then .num false 1 (-200)
  else if f = 0 then .num false 1 n
  else .num false (2 * exp2Frac f 150 (2 <<< 128) (1 <<< 128) + 1) (n - 129)

/-- The first n bits of log2 of t / 2^256, 1 ≤ t / 2^256 < 2, by repeated squaring. -/
def log2Bits : Nat → Nat → Nat → Nat
  | 0, _, acc => acc
  | n + 1, t, acc =>
    let u := (t * t) >>> 256
    if 2 ^ 257 ≤ u then log2Bits n (u / 2) (2 * acc + 1) else log2Bits n u (2 * acc)

/-- log2 of a positive value, its bits beyond 2^-100 shown only as one more. -/
def log2Val (m : Nat) (e : Int) : Val :=
  let k := Nat.log2 m
  let whole : Int := e + k
  if m = 2 ^ k then .ofInt whole
  else
    let x : Int := whole * (2 ^ 100 : Nat) + (log2Bits 100 (m <<< (256 - k)) 0 : Nat)
    if x < 0 then .num true (2 * (-x - 1).toNat + 1) (-101) else .num false (2 * x.toNat + 1) (-101)

/-- 1 / x of a nonzero finite value. -/
def rcpVal (neg : Bool) (m : Nat) (e : Int) : Val := quotient neg 1 m 100 (-e)

/-- 1 / sqrt x of a positive value. -/
def rsqrtVal (m : Nat) (e : Int) : Val :=
  let m := if e % 2 = 0 then m else 2 * m
  let h : Int := if e % 2 = 0 then e / 2 else (e - 1) / 2
  let q := isqrt (2 ^ 200 / m)
  .num false (2 * q + b2n (decide (q * q * m ≠ 2 ^ 200))) (-h - 101)

/-- The four functions whose result is within one unit in the last place (R238). -/
inductive Approx where
  | exp2 | log2 | rcp | rsqrt
  deriving DecidableEq, Repr

/-- OP of a function (R238). -/
def Approx.op : Approx → Nat
  | .exp2 => 9 | .log2 => 10 | .rcp => 11 | .rsqrt => 12

/-- The FP32 magnitudes that a function may return for a finite exact result (R238): its neighbours, and a value whose
distance is no more than one unit in the last place. DEDUCED, log 15. -/
def approxSet (m : Nat) (e : Int) : List Nat :=
  let (lo, inx) := Fmt.fp32.encMag .zero 0 m e
  let near := (Fmt.fp32.encMag .nearest 0 m e).1
  let edge := decide (lo % 2 ^ 23 = 0) && decide (2 ^ 23 < lo)
  if inx then [lo, lo + 1] ++ (if edge && decide (near = lo) then [lo - 1] else [])
  else [lo, lo + 1, lo - 1] ++ (if edge then [lo - 2] else [])

/-- The result of a function whose exact value is given, and its conditions (R238, R239, log 15). -/
def approxRound (f : Approx) (mode : RMode) (x : Word) (v : Val) : Nat × FpFlags :=
  match v with
  | .num neg m e =>
    let (r, fl) := Fmt.fp32.round mode v
    if m = 0 ∨ fl.overflow then (r, fl)
    else
      let set := (approxSet m e).filter (fun c => decide (c ≤ Fmt.fp32.maxEnc))
      let c := set.getD (Config.approxChoice (f.op + 16 * b2n (decide (mode = .zero))) x % set.length) 0
      let exact := !fl.inexact && decide (Fmt.fp32.decode c = Fmt.fp32.decode (r % 2 ^ 31))
      (withSign neg 32 c, { underflow := !exact && Fmt.fp32.tiny mode m e, inexact := !exact })
  | v => Fmt.fp32.round mode v

/-- exp2, log2, rcp and rsqrt with their special cases (R238, R239). DEDUCED, log 15. -/
def approxFn (f : Approx) (mode : RMode) (x : Word) : Nat × FpFlags :=
  let bad : Nat × FpFlags := (Fmt.fp32.nanEnc, { invalid := true })
  match f, Fmt.fp32.decode x.toNat with
  | _, .nan => (Fmt.fp32.nanEnc, {})
  | .exp2, .inf true => (0, {})
  | .exp2, .inf false => (Fmt.fp32.infEnc, {})
  | .exp2, .num n m e => approxRound f mode x (exp2Val n m e)
  | .log2, .inf true => bad
  | .log2, .inf false => (Fmt.fp32.infEnc, {})
  | .log2, .num n m e =>
    if m = 0 then (withSign true 32 Fmt.fp32.infEnc, { divZero := true })
    else if n then bad else approxRound f mode x (log2Val m e)
  | .rcp, .inf n => (withSign n 32 0, {})
  | .rcp, .num n m e =>
    if m = 0 then (withSign n 32 Fmt.fp32.infEnc, { divZero := true }) else approxRound f mode x (rcpVal n m e)
  | .rsqrt, .inf true => bad
  | .rsqrt, .inf false => (0, {})
  | .rsqrt, .num n m e =>
    if m = 0 then (withSign n 32 Fmt.fp32.infEnc, { divZero := true })
    else if n then bad else approxRound f mode x (rsqrtVal m e)

/-- Two-operand operations of class 0x1 that round once. -/
inductive FpOp where
  | add | sub | mul | div
  deriving DecidableEq, Repr

/-- A rounded sum, difference, product or quotient in a format (R238, R239). -/
def fpArith (f : Fmt) (op : FpOp) (mode : RMode) (a b : Nat) : Nat × FpFlags :=
  let x := f.decode a
  let y := f.decode b
  match op with
  | .add => let (v, bad) := x.add y
    let (r, fl) := f.round mode v
    (r, { fl with invalid := bad })
  | .sub => let (v, bad) := x.add y.neg
    let (r, fl) := f.round mode v
    (r, { fl with invalid := bad })
  | .mul => let (v, bad) := x.mul y
    let (r, fl) := f.round mode v
    (r, { fl with invalid := bad })
  | .div => let (v, bad, dz) := x.div y
    let (r, fl) := f.round mode v
    (r, { fl with invalid := bad, divZero := dz })

/-- A rounded multiply-add in a format (R238, R239). -/
def fpFma (f : Fmt) (mode : RMode) (a b c : Nat) : Nat × FpFlags :=
  let (v, bad) := (f.decode a).fma (f.decode b) (f.decode c)
  let (r, fl) := f.round mode v
  (r, { fl with invalid := bad })

/-- fmin and fmax (R238): −0 below +0, a NaN gives the other operand, two NaNs the canonical NaN. -/
def fpPick (wantMax : Bool) (a b : Word) : Word :=
  match (Fmt.fp32.decode a.toNat).isNan, (Fmt.fp32.decode b.toNat).isNan with
  | true, true => BitVec.ofNat 32 Fmt.fp32.nanEnc
  | true, false => b
  | false, true => a
  | false, false =>
    let less := match (Fmt.fp32.decode a.toNat).cmp (Fmt.fp32.decode b.toNat) with
      | some c => decide (c < 0) || (decide (c = 0) && bit a 31 && !bit b 31)
      | none => false
    if less != wantMax then a else b

/-- The conditions of fcmp (R238). -/
def fpCond (c : Nat) (a b : Word) : Bool :=
  match (Fmt.fp32.decode a.toNat).cmp (Fmt.fp32.decode b.toNat) with
  | none => decide (c = 1 ∨ c = 6)
  | some o =>
    match c with
    | 0 => decide (o = 0) | 1 => decide (o ≠ 0) | 2 => decide (o < 0) | 3 => decide (o ≤ 0)
    | 4 => decide (0 < o) | 5 => decide (0 ≤ o) | _ => false

/-- An operation on the two BF16 halves of a register (R238): the word and the conditions of both. -/
def onHalves (f : Nat → Nat → Nat → Nat × FpFlags) (a b c : Word) : Nat × FpFlags :=
  let (lo, fl) := f (fld a 0 16) (fld b 0 16) (fld c 0 16)
  let (hi, fh) := f (fld a 16 16) (fld b 16 16) (fld c 16 16)
  (lo + hi * 2 ^ 16, fl.or fh)

/-- The E8M0 code of a value (R240). -/
def toE8m0 (v : Val) : Nat × FpFlags :=
  match v with
  | .num _ m e =>
    if m = 0 then (255, { invalid := true })
    else
      let l := e + Nat.log2 m
      if l < -127 then (0, { underflow := true, inexact := true })
      else ((min l 127 + 127).toNat, { inexact := decide (m ≠ 2 ^ Nat.log2 m ∨ 127 < l) })
  | _ => (255, { invalid := true })

/-- Convert a value for cvt and cvt.nar (R240). -/
def cvtValue (f : Fmt) (mode : RMode) (ovf : Bool) (r24 : Nat) (v : Val) : Nat × FpFlags :=
  if f = .e8m0 then toE8m0 v else f.convert mode ovf r24 v

/-- The value of a block-scaled element under its E8M0 scale (R43, R44). -/
def narrowVal (f : Fmt) (code scale : Nat) : Val :=
  match Fmt.e8m0.decode scale with
  | .num _ _ k => (f.decode (code % 2 ^ f.width)).scale k
  | _ => .nan

end Sys2Proof.Machine
end

