-- ==== Sys2Proof/Machine/Tasks.lean ====
section
/-! DEFINITION. Task descriptors and the checks of acceptance (R158, R159, R164, R169, R172, R175, R367 to R372). -/

namespace Sys2Proof.Machine

/-- Field of a word of a task descriptor (R368). -/
def tw (t : TaskDesc) (word lo w : Nat) : Nat := fld t (32 * word + lo) w

/-- KIND: 1 product, 2 chain, 3 program, 4 move. -/
def tkKind (t : TaskDesc) : Nat := tw t 0 0 4
/-- PERSIST. -/
def tkPersist (t : TaskDesc) : Bool := bit t 4
/-- OUTMODE. -/
def tkOutmode (t : TaskDesc) : Bool := bit t 5
/-- NARM. -/
def tkNarm (t : TaskDesc) : Nat := tw t 0 8 8
/-- NREC. -/
def tkNrec (t : TaskDesc) : Nat := tw t 0 16 3
/-- NARR. -/
def tkNarr (t : TaskDesc) : Nat := tw t 0 19 8
/-- SIGTAG. -/
def tkSigtag (t : TaskDesc) : Nat := tw t 2 0 16
/-- OTAG. -/
def tkOtag (t : TaskDesc) : Nat := tw t 2 16 16
/-- OORIG, OITEM and OLOT. -/
def tkConsumer (t : TaskDesc) : ItemKey := ⟨t.extractLsb' 96 16, t.extractLsb' 112 13, t.extractLsb' 1728 16⟩
/-- RADDR. -/
def tkRaddr (t : TaskDesc) : Nat := tw t 52 0 64
/-- REGIONS. -/
def tkRegions (t : TaskDesc) : Nat := tw t 54 16 6
/-- Launch record i of a program. -/
def tkLaunch (t : TaskDesc) (i : Nat) : LaunchRec := t.extractLsb' (128 + 256 * i) 256
/-- Mover descriptor i of a move. -/
def tkMove (t : TaskDesc) (i : Nat) : Desc := t.extractLsb' (128 + 512 * i) 512

/-- First word of product block i (R368). -/
def pbWord (i : Nat) : Nat := 4 + 16 * i
/-- Field of a product block (R369). -/
def pf (t : TaskDesc) (i word lo w : Nat) : Nat := tw t (pbWord i + word) lo w
/-- Field of the fusion block (R158). -/
def ff (t : TaskDesc) (word lo w : Nat) : Nat := tw t (36 + word) lo w

/-- CHAIN: 1 lake, 2 mordant. -/
def fuChain (t : TaskDesc) : Nat := ff t 0 0 2
/-- IFMT. -/
def fuIfmt (t : TaskDesc) : Option Fmt := Fmt.ofCode (ff t 0 16 4)
/-- OFMT. -/
def fuOfmt (t : TaskDesc) : Option Fmt := Fmt.ofCode (ff t 0 24 4)
/-- M, N and K of product i. -/
def pbM (t : TaskDesc) (i : Nat) : Nat := pf t i 1 0 32
/-- N. -/
def pbN (t : TaskDesc) (i : Nat) : Nat := pf t i 2 0 32
/-- K. -/
def pbK (t : TaskDesc) (i : Nat) : Nat := pf t i 3 0 32

/-- Products of the task (R368). -/
def tkProducts (t : TaskDesc) : Nat := if tkKind t = 1 then 1 else if tkKind t = 2 then 2 else 0

/-- OADDR of the product that makes the output. -/
def tkOaddr (t : TaskDesc) : Nat := pf t (tkProducts t - 1) 14 0 64

/-- Round up to 64 bytes. -/
def up64 (n : Nat) : Nat := (n + 63) / 64 * 64

/-- Bytes of the output (R369): rows of N elements at a pitch rounded up to 64; a narrow output's scales follow, one row each. -/
def outBytes (t : TaskDesc) : Nat :=
  let i := tkProducts t - 1
  match fuOfmt t with
  | some f => pbM t i * (up64 (f.rowBytes (pbN t i)) + (if f.narrow then up64 (ceilDiv (pbN t i) 32) else 0))
  | none => 0

/-- DETAIL of a descriptor failure (R379). -/
def dfDetail (source word : Nat) : Nat := source * 2 ^ 16 + word

/-- The first check that fails, as its DETAIL. -/
def firstFail (l : List (Bool × Nat)) : Option Nat := (l.find? (fun x => x.1)).map (fun x => x.2)

/-- Reserved fields of the descriptor outside its blocks: word, bit, width (R368). -/
def taskReserved : List (Nat × Nat × Nat) :=
  [(0, 6, 2), (0, 27, 5), (3, 29, 3), (54, 22, 10)] ++ (List.range 9).map (fun i => (55 + i, 0, 32))

/-- Words that R368 gives as zero for the kind. -/
def taskUnused (t : TaskDesc) : List (Nat × Nat × Nat) :=
  let words (a n : Nat) : List (Nat × Nat × Nat) := (List.range n).map (fun i => (a + i, 0, 32))
  (if tkKind t = 1 then words 20 16 else []) ++ (if 3 ≤ tkKind t then words 36 16 else [])

/-- The checks on the fields of the descriptor itself (R368). -/
def taskFields (t : TaskDesc) : List (Bool × Nat) :=
  let k := tkKind t
  let zero (x : Nat × Nat × Nat) : Bool × Nat := (decide (tw t x.1 x.2.1 x.2.2 ≠ 0), dfDetail 0 x.1)
  let nrec := tkNrec t
  let nrecBad := match k with
    | 3 => decide (nrec = 0 ∨ 4 < nrec)
    | 4 => decide (nrec = 0 ∨ 2 < nrec)
    | _ => decide (nrec ≠ 0)
  [(decide (k = 0 ∨ 4 < k), 0), (decide (64 < tkNarm t), 0), (nrecBad, 0), (decide (k ≤ 2) && decide (192 < tkNarr t), 0),
    (decide (k = 3) && decide (tkRegions t = 0 ∨ 48 < tkRegions t), dfDetail 0 54)]
    ++ taskReserved.map zero ++ (taskUnused t).map zero

/-- Arm entry i of a WORK payload: TAG and EXPECT (R367). -/
def armEntry (payload : List Byte) (i : Nat) : Nat × Nat :=
  let w := ofBytes ((payload.drop (256 + 4 * i)).take 4)
  (nfld w 0 16, nfld w 16 16)

/-- The arm list (R367). -/
def armList (t : TaskDesc) (payload : List Byte) : List (Nat × Nat) := (List.range (tkNarm t)).map (armEntry payload)

/-- The checks on the arm list (R367): tags and counts nonzero, no tag twice; the later of two equal tags is at fault. -/
def armChecks (arms : List (Nat × Nat)) : List (Bool × Nat) :=
  arms.zipIdx.map (fun (x, i) => (decide (x.1 = 0) || decide (x.2 = 0) || (arms.take i).any (fun y => decide (y.1 = x.1)), dfDetail 0 (64 + i)))

/-- Rows that movers must be able to read. -/
def readable (s : State) (addr pitch rows len : Nat) : Bool := decide (len = 0) || mvSpan s false addr pitch rows len

/-- The checks on product block i (R45, R47, R49, R87, R276, R369): formats, shape, pitches, addresses. DEDUCED, log 21. -/
def productChecks (s : State) (t : TaskDesc) (i : Nat) : List (Bool × Nat) :=
  let b := pbWord i
  let w (j : Nat) : Nat := dfDetail 0 (b + j)
  let zero (j lo n : Nat) : Bool × Nat := (decide (pf t i j lo n ≠ 0), w j)
  let first := decide (i = 0)
  let reserved := [zero 0 26 6, zero 5 16 16, zero 8 16 16, zero 11 16 16, zero 13 16 16]
  let xf := if first then Fmt.ofCode (pf t i 0 0 4) else fuIfmt t
  match xf, Fmt.ofCode (pf t i 0 4 4) with
  | some xf, some wf =>
    let k := pbK t i
    let cmode := pf t i 0 8 3
    let scaleRow := ceilDiv k 32
    let fmtBad := decide (xf.rateClass = none) || decide (wf.rateClass = none)
    let modeBad := decide (6 ≤ cmode) || (decide (cmode ≠ 0) && !(decide (xf = .int8) && decide (wf = .int8)))
    let operand (f : Fmt) (rows addr pitch saddr ja js : Nat) : List (Bool × Nat) :=
      [(f.narrow && decide (addr % 64 ≠ 0), w ja), (f.narrow && decide (saddr % 64 ≠ 0), w js),
        (f.narrow != decide (saddr ≠ 0), w js), (!readable s addr pitch rows (f.rowBytes k), w ja), (f.narrow && !readable s saddr (up64 scaleRow) rows scaleRow, w js)]
    reserved ++ [(fmtBad, dfDetail 6 (if first then b else 36)), (decide (xf.rateClass ≠ wf.rateClass), if first then w 0 else dfDetail 6 36),
      (modeBad, w 0), (decide (pbM t i = 0), w 1), (decide (pbN t i = 0), w 2),
      (first && decide (pf t i 6 0 32 % 64 ≠ 0), w 6), (decide (pf t i 9 0 32 % 64 ≠ 0), w 9)]
      ++ (if first then operand xf (pbM t i) (pf t i 4 0 48) (pf t i 6 0 32) (pf t i 10 0 48) 4 10 else [])
      ++ operand wf (pbN t i) (pf t i 7 0 48) (pf t i 9 0 32) (pf t i 12 0 48) 7 12
  | _, _ => [(true, dfDetail 6 (if first then b else 36))]

/-- Bytes of 128 rows of the intermediate as the staged path writes them (R172): the rows, and in the narrow class 8 scale bytes of
each row for each K tile of 256 (R75). -/
def stageBytes (t : TaskDesc) (f : Fmt) : Nat :=
  let n := pbN t 0
  128 * up64 (f.rowBytes n) + (if f.narrow then 128 * 8 * ceilDiv n 256 else 0)

/-- A lake chain takes the direct path (R169). -/
def lakeDirect (t : TaskDesc) (f : Fmt) : Bool :=
  let n := pbN t 0
  decide (ff t 0 2 2 ≠ 2) && decide (n ≤ (if f.narrow then 256 else 128)) && (!f.narrow || decide (n % 32 = 0))

/-- The conditions of a lake chain and of a mordant chain (R159, R169, R172, R175). -/
def chainChecks (t : TaskDesc) : List (Bool × Nat) :=
  match fuIfmt t with
  | none => []
  | some f =>
    let stage := ff t 7 0 23
    let shape := [(decide (pbK t 1 ≠ pbN t 0), dfDetail 0 23), (decide (pbM t 1 ≠ pbM t 0), dfDetail 0 21)]
    if fuChain t = 1 then
      shape ++ [(!lakeDirect t f && decide (ff t 0 2 2 = 1), dfDetail 6 36),
        (decide (2 ^ 23 < stage + stageBytes t f), dfDetail 6 43)]
    else if fuChain t = 2 then
      let qk := match Fmt.ofCode (pf t 0 0 0 4) with
        | some x => x.narrow
        | none => false
      shape ++ [(decide (ff t 0 14 2 = 3) && !f.narrow, dfDetail 6 36), (decide ((if qk then 256 else 128) < pbK t 0), dfDetail 6 36),
        (decide (256 < pbN t 1), dfDetail 6 36)]
    else []

/-- The checks on the fusion block (R158 to R160, R276). Bias and scale belong to the output of product 0, which in a lake chain is the
intermediate (R170). -/
def fusionChecks (s : State) (t : TaskDesc) : List (Bool × Nat) :=
  let z (j lo n : Nat) : Bool × Nat := (decide (ff t j lo n ≠ 0), dfDetail 6 (36 + j))
  let reserved := [z 0 23 1, z 0 31 1, z 5 4 28, z 6 23 9, z 7 23 9, z 9 16 16, z 11 16 16, z 12 0 32, z 13 0 32, z 14 0 32, z 15 0 32]
  let int8 (lo : Nat) : Bool := decide (Fmt.ofCode (pf t 0 0 lo 4) = some .int8)
  let bias := ff t 0 8 2
  let iscale := ff t 0 10 2
  let enc := [decide (fuChain t = 3), decide (ff t 0 2 2 = 3), decide (6 ≤ ff t 0 4 4), decide (bias = 3), decide (iscale = 3),
    decide (2 ≤ ff t 0 12 2), decide (ff t 0 20 2 = 3), decide (ff t 0 28 2 = 3),
    (fuIfmt t).isNone].any id
  let outBad := match fuOfmt t with
    | some f => decide (f = .e8m0)
    | none => true
  let last := if fuChain t = 2 then 1 else 0
  let spill := ff t 6 0 23
  let kindBad := decide (tkKind t = 2) != decide (fuChain t ≠ 0)
  let scaleOk := reachAll s .teGlobal false (ff t 8 0 48 + 4 * (if iscale = 2 then pbM t last else 1)) 64 (ff t 8 0 48)
  let biasOk := reachAll s (if bias = 1 then .mover else .teGlobal) false (ff t 10 0 48 + 4 * pbN t last) 64 (ff t 10 0 48)
  reserved ++ [(enc, dfDetail 6 36), (kindBad, 0), (decide (iscale ≠ 0) && !(int8 0 && int8 4), dfDetail 6 36), (outBad, dfDetail 6 36),
    (decide (spill % 64 ≠ 0) || decide (2 ^ 23 < spill + 2 ^ 17), dfDetail 6 42), (decide (ff t 7 0 23 % 64 ≠ 0), dfDetail 6 43)]
    ++ chainChecks t ++ [(decide (iscale ≠ 0) && !scaleOk, dfDetail 6 44), (decide (bias ≠ 0) && !biasOk, dfDetail 6 46)]

/-- The checks on the output (R276, R369 to R371). -/
def outputChecks (s : State) (t : TaskDesc) : List (Bool × Nat) :=
  let w := dfDetail 0 (pbWord (tkProducts t - 1) + 14)
  let n := outBytes t
  let a := tkOaddr t % 2 ^ 48
  if tkOutmode t then [(decide (16384 < n), 0)]
  else if tkOaddr t / 2 ^ 48 = ownId s then [(!reachAll s .mover true (a + n) 64 a, w)]
  else [(decide (65536 * 16384 < n), w)]

/-- Every check of acceptance on a task (R367 to R372): the DETAIL of the first that fails. DEDUCED, log 38. -/
def taskRefusal (s : State) (t : TaskDesc) (arms : List (Nat × Nat)) : Option Nat :=
  firstFail (taskFields t ++ armChecks arms ++ (if tkKind t ≤ 2 then
    ((List.range (tkProducts t)).map (productChecks s t)).flatten ++ fusionChecks s t ++ outputChecks s t else []))

end Sys2Proof.Machine
end

