-- ==== Sys2Proof/Machine/Standard.lean ====
section
/-! DEFINITION. The results of the standard tasks: products, lake chains and mordant chains with the standard firmware's epilogues
(R42, R45, R101, R114 to R126, R158, R160 to R162, R169, R170, R173, R175 to R180, R369). No definition here reads LPATH, an array, a
region or a lot: the bits depend on none of them (R58, R121, R162, R173, R179). -/

namespace Sys2Proof.Machine

/-- An operand: the code and the scale of element k of vector i, a row of X or a column of W. -/
abbrev Operand := Nat → Nat → Nat × Byte

/-- An operand in memory (R45 to R47, R369). -/
def operandAt (s : State) (f : Fmt) (addr pitch saddr spitch : Nat) : Operand := fun i k =>
  let p := k * f.width
  (nfld (ofBytes (readBytes s (addr + i * pitch + p / 8) (ceilDiv (p % 8 + f.width) 8))) (p % 8) f.width,
    if f.narrow then readByte s (saddr + i * spitch + k / 32) else 0)

/-- X of product i (R369). -/
def taskX (s : State) (t : TaskDesc) (i : Nat) (f : Fmt) : Operand :=
  operandAt s f (pf t i 4 0 48) (pf t i 6 0 32) (pf t i 10 0 48) (up64 (ceilDiv (pbK t i) 32))

/-- W of product i (R369). -/
def taskW (s : State) (t : TaskDesc) (i : Nat) (f : Fmt) : Operand :=
  operandAt s f (pf t i 7 0 48) (pf t i 9 0 32) (pf t i 12 0 48) (up64 (ceilDiv (pbK t i) 32))

/-- An FP32 word in memory. -/
def fp32At (s : State) (a : Nat) : Nat := ofBytes (readBytes s a 4)

/-- What the entries of a product have in common: formats, cell mode, K, and the anchor of its columns. -/
structure ProductForm where
  xf : Fmt
  wf : Fmt
  cmode : Nat
  k : Nat
  anchor : BitVec 10

/-- K values of a tile (R65). -/
def Fmt.tileK (f : Fmt) : Nat := if f.narrow then 256 else 128

/-- The accumulator entry of output element (i, j) once its K tiles have entered it in ascending order, after a preload where one is
given; with K = 0 it is the preload or zero (R69, R87, R101, R114, R118 to R121, R133). The order of the tiles can show only in an
entry with SAT (R121, DESIGN CHOICE, log 76). -/
def productEntry (p : ProductForm) (x w : Operand) (pre : Option Nat) (i j : Nat) : AccEntry :=
  let c : ColRec := { anchor := p.anchor }
  let first : AccEntry := match pre with
    | some b => AccEntry.replace (preloadSum c.grid (Fmt.fp32.decode b))
    | none => if p.k = 0 then {} else startEntry p.cmode
  let kt := p.xf.tileK
  let tile (e : AccEntry) (t : Nat) : AccEntry :=
    let ks := (List.range (min kt (p.k - t * kt))).map (fun k => t * kt + k)
    let pair (k : Nat) : Val × Val := (scaledVal p.xf (x i k).1 (x i k).2, scaledVal p.wf (w j k).1 (w j k).2)
    combineRow p.cmode c (ks.map pair) (ks.map (fun k => (sext 8 (x i k).1, sext 8 (w j k).1))) e
  (List.range (ceilDiv p.k kt)).foldl tile first

/-- An FP32 value with the flags that its element has brought so far, laid out as R138 does. -/
abbrev Slot := Nat × Nat

/-- The conversion flags in the layout of R138. -/
def convFlags (f : FpFlags) : Nat := 32 * b2n f.invalid + 64 * b2n f.overflow + 128 * b2n f.underflow + 256 * b2n f.inexact

/-- The slot value of an output element: its entry drained to FP32 with RMODE 0b00 and OVF 0 (R136, R138, R160). -/
def productSlot (p : ProductForm) (x w : Operand) (pre : Option Nat) (i j : Nat) : Slot :=
  let e := productEntry p x w pre i j
  let (y, fl) := Fmt.fp32.convert .nearest false 0 (drainVal e { anchor := p.anchor })
  (y, drainFlags { prod := decide (p.k ≠ 0) } [e] [fl])

/-- The greatest exponent bound of the elements of some vectors (R123). -/
def greatest (f : Fmt) (x : Operand) (n k : Nat) : Option Int :=
  ((List.range n).flatMap (fun i => (List.range k).map (fun j => expBound f (x i j).1 (x i j).2))).foldl
    (fun m e => match m, e with
      | some a, some b => some (max a b)
      | none, b => b
      | a, none => a) none

/-- The anchor of a product's columns (R112, R122, R123): 80 in EXI, else the given one, or the one that a pre-scan of its operands and
of its preload values gives. -/
def productAnchor (t : TaskDesc) (i : Nat) (xf wf : Fmt) (x w : Operand) (pre : List Nat) : BitVec 10 :=
  if xf.rateClass = some .eight then 80
  else if pf t i 0 11 1 = 1 then
    let eb := greatest .fp32 (fun _ j => (pre.getD j 0, 0)) 1 pre.length
    BitVec.ofInt 10 (prescanAnchor (greatest xf x (pbM t i) (pbK t i)) (greatest wf w (pbN t i) (pbK t i)) eb (max 1 (pbK t i)))
  else BitVec.ofNat 10 (pf t i 0 12 10)

/-- The form of product i with an X of a format. -/
def productForm (t : TaskDesc) (i : Nat) (xf wf : Fmt) (x w : Operand) (pre : List Nat) : ProductForm :=
  { xf := xf, wf := wf, cmode := pf t i 0 8 3, k := pbK t i, anchor := productAnchor t i xf wf x w pre }

/-- The elementwise functions (R161): FUNC on an FP32 value, under a firmware version. -/
def stdFunc (t : TaskDesc) (version : Word) (y : Nat) : Nat :=
  let w := BitVec.ofNat 32 y
  match ff t 0 4 4 with
  | 1 => (fpPick true w 0).toNat
  | 2 => (Config.gelu version w).toNat
  | 3 => (Config.silu version w).toNat
  | 4 => (fpPick false (fpPick true w (BitVec.ofNat 32 (ff t 1 0 32))) (BitVec.ofNat 32 (ff t 2 0 32))).toNat
  | 5 => (fpArith .fp32 .mul .nearest y y).1
  | _ => y

/-- The bias of the first n output columns (R158). -/
def biasRow (s : State) (t : TaskDesc) (n : Nat) : List Nat := tab n (fun j => fp32At s (ff t 10 0 48 + 4 * j))

/-- The steps of R160 from the slot value up to func, for row i and column j (R42). -/
def stdStep (s : State) (t : TaskDesc) (i j y : Nat) : Nat :=
  let a := ff t 8 0 48
  let y := match ff t 0 10 2 with
    | 0 => y
    | 1 => (fpArith .fp32 .mul .nearest y (fp32At s a)).1
    | _ => (fpArith .fp32 .mul .nearest y (fp32At s (a + 4 * i))).1
  let y := if ff t 0 8 2 = 2 then (fpArith .fp32 .add .nearest y (fp32At s (ff t 10 0 48 + 4 * j))).1 else y
  stdFunc t (regWord s Reg.GLB_TEFW) y

/-- How a conversion of an output or an intermediate rounds: format, mode, overflow control, and the key and tensor index of its
draws (R56, R60, R158, R180). -/
structure ConvForm where
  f : Fmt
  mode : RMode
  ovf : Bool
  k0 : BitVec 64
  tens : Nat

/-- The conversion of the task's output (R158, R160, R180). -/
def outForm (e : IttEntry) (f : Fmt) : ConvForm :=
  let t := e.task
  { f := f, mode := (RMode.ofCode (ff t 0 28 2)).getD .nearest, ovf := decide (ff t 0 30 1 = 1),
    k0 := drawK0 (tw t 1 0 32) e.key.orig.toNat e.key.item.toNat, tens := pf t (tkProducts t - 1) 0 22 4 }

/-- The conversion of the intermediate (R158, R170, R180). -/
def midForm (e : IttEntry) (f : Fmt) : ConvForm :=
  let t := e.task
  { f := f, mode := (RMode.ofCode (ff t 0 20 2)).getD .nearest, ovf := decide (ff t 0 22 1 = 1),
    k0 := drawK0 (ff t 4 0 32) e.key.orig.toNat e.key.item.toNat, tens := ff t 5 0 4 }

/-- Convert the FP32 values of one row from a column on (R50 to R64): the codes with their scales, and the flags. A narrow target is
converted by blocks of 32 consecutive columns. -/
def convertRow (c : ConvForm) (row col : Nat) (ys : List Nat) : List (Nat × Byte) × Nat :=
  let xs := ys.zipIdx.map (fun (y, j) => (Fmt.fp32.decode y, draw c.k0 (drawK1 row (col + j) c.tens)))
  let rs : List ((Nat × Byte) × FpFlags) :=
    if c.f.narrow then
      (chunks 32 (xs.length / 32 + 1) xs).flatMap (fun b =>
        let (sc, es) := convertBlock c.f c.mode (b.map (·.2)) (b.map (·.1))
        es.map (fun x => ((x.1, BitVec.ofNat 8 sc), x.2)))
    else xs.map (fun (v, r) =>
      let (y, fl) := c.f.convert c.mode c.ovf r v
      ((y, 0), fl))
  (rs.map (·.1), convFlags ((rs.map (·.2)).foldl FpFlags.or {}))

/-- The rows of the output as FP32 values, each with its flags, before the conversion to OFMT. -/
abbrev StdRows := List (List Nat × Nat)

/-- The flags of some elements together. -/
def orFlags (l : List Nat) : Nat := l.foldl (· ||| ·) 0

/-- The values of a row of slots, with their flags. -/
def gather (l : List Slot) : List Nat × Nat := (l.map (·.1), orFlags (l.map (·.2)))

/-- Product 0 with the steps of R160 up to func: a product's output, or the intermediate of a lake chain (R160, R170). -/
def firstRows (s : State) (t : TaskDesc) (xf wf : Fmt) : StdRows :=
  let x := taskX s t 0 xf
  let w := taskW s t 0 wf
  let pre := if ff t 0 8 2 = 1 then biasRow s t (pbN t 0) else []
  let p := productForm t 0 xf wf x w pre
  tab (pbM t 0) (fun i => gather (tab (pbN t 0) (fun j =>
    let (y, fl) := productSlot p x w pre[j]? i j
    (stdStep s t i j y, fl))))

/-- An operand given by its rows. -/
def rowsOperand (h : List (List (Nat × Byte))) : Operand := fun i k => (h.getD i []).getD k (0, 0)

/-- A lake chain (R170, R173): H is converted once to IFMT on either path, and the second product drains it. -/
def lakeRows (s : State) (e : IttEntry) (xf wf hf vf : Fmt) : StdRows :=
  let t := e.task
  let h := (firstRows s t xf wf).zipIdx.map (fun (r, i) =>
    let (cs, fl) := convertRow (midForm e hf) i 0 r.1
    (cs, r.2 ||| fl))
  let x := rowsOperand (h.map (·.1))
  let w := taskW s t 1 vf
  let p := productForm t 1 hf vf x w []
  tab (pbM t 0) (fun i =>
    let (ys, fl) := gather (tab (pbN t 1) (fun j => productSlot p x w none i j))
    (ys, fl ||| (h.getD i ([], 0)).2))

/-- Key position k is masked for query position q (R177). -/
def maskedKey (t : TaskDesc) (q k : Nat) : Bool := decide (ff t 0 12 2 = 1) && decide (q < k)

/-- Keys of a key tile (R158). -/
def keyTile (t : TaskDesc) : Nat := 32 <<< ff t 0 14 2

/-- A key tile is masked for every row of the query tile of 128 rows that row i lies in (R176, R177). -/
def skipsTile (t : TaskDesc) (i first : Nat) : Bool := maskedKey t (min (pbM t 0) (i / 128 * 128 + 128) - 1) first

/-- What one key tile brings to a query row (R176): its first key, alpha, ls, the weights ph and their flags. -/
structure KeyStep where
  first : Nat
  alpha : Nat
  ls : Nat
  ph : List (Nat × Byte)
  flags : Nat

/-- −infinity and one in FP32. -/
def fp32NegInf : Nat := 0xFF800000
/-- One. -/
def fp32One : Nat := 0x3F800000
/-- log2(e), rounded to FP32 (DEDUCED, log 76). -/
def fp32Log2e : Nat := 0x3FB8AA3B

/-- One FP32 operation, rounded to nearest even. -/
def std (op : FpOp) (a b : Nat) : Nat := (fpArith .fp32 op .nearest a b).1

/-- exp2 of the thread engines (R176, R238). -/
def stdExp2 (a : Nat) : Nat := (approxFn .exp2 .nearest (BitVec.ofNat 32 a)).1

/-- The greater of two FP32 values. -/
def stdMax (a b : Nat) : Nat := (fpPick true (BitVec.ofNat 32 a) (BitVec.ofNat 32 b)).toNat

/-- One key tile of a query row (R176): the running maximum after it, and what it brings. -/
def keyStep (e : IttEntry) (hf : Fmt) (score : Nat → Slot) (i first m : Nat) : Nat × KeyStep :=
  let t := e.task
  let sg := std .mul (ff t 3 0 32) fp32Log2e
  let ks := (List.range (min (keyTile t) (pbN t 0 - first))).map (fun j => first + j)
  let sc := ks.map (fun k => if maskedKey t i k then fp32NegInf else std .mul sg (score k).1)
  let mn := sc.foldl stdMax m
  let dead := decide (mn = fp32NegInf)
  let alpha := if dead then fp32One else stdExp2 (std .sub m mn)
  let (ph, fl) := convertRow (midForm e hf) i first (sc.map (fun y => if dead then 0 else stdExp2 (std .sub y mn)))
  let ls := ph.foldl (fun l x => (Fmt.fp32.round .nearest ((Fmt.fp32.decode l).add (scaledVal hf x.1 x.2)).1).1) 0
  (mn, { first := first, alpha := alpha, ls := ls, ph := ph, flags := fl ||| orFlags (ks.map (fun k => (score k).2)) })

/-- The key tiles of a query row in ascending order, those skipped left out (R176, R177). -/
def keySteps (e : IttEntry) (hf : Fmt) (score : Nat → Slot) (i : Nat) : List KeyStep :=
  let t := e.task
  let ts := ((List.range (ceilDiv (pbN t 0) (keyTile t))).map (fun x => x * keyTile t)).filter (fun f => !skipsTile t i f)
  (ts.foldl (fun (acc : Nat × List KeyStep) f =>
    let (m, k) := keyStep e hf score i f acc.1
    (m, acc.2 ++ [k])) (fp32NegInf, [])).2

/-- The outputs of a query row, in ascending t (R176): l and o corrected by each tile, and o / l, or +0 where l is +0. -/
def mordantRow (t : TaskDesc) (p : ProductForm) (v : Operand) (ks : List KeyStep) : List Nat × Nat :=
  let fma (a b c : Nat) : Nat := (fpFma .fp32 .nearest a b c).1
  let l := ks.foldl (fun l k => fma l k.alpha k.ls) 0
  let part (k : KeyStep) (c : Nat) : Slot :=
    productSlot { p with k := k.ph.length } (fun _ j => k.ph.getD j (0, 0)) (fun c j => v c (k.first + j)) none 0 c
  let col (c : Nat) : Slot :=
    let o := ks.foldl (fun o k => fma o k.alpha (part k c).1) 0
    (if l = 0 then 0 else std .div o l, orFlags (ks.map (fun k => (part k c).2)))
  let (ys, fl) := gather (tab (pbN t 1) col)
  (ys, fl ||| orFlags (ks.map (·.flags)))

/-- A row with no unmasked key (R178). -/
def emptyRow (t : TaskDesc) (i : Nat) : Bool := (List.range (pbN t 0)).all (fun k => maskedKey t i k)

/-- A mordant chain (R176 to R179). Scale, bias and FUNC have no place in it (DEDUCED, log 76); an anchor that the pre-scan derives for
the second product takes the weights of every tile (DESIGN CHOICE, log 76). -/
def mordantRows (s : State) (e : IttEntry) (xf wf hf vf : Fmt) : StdRows :=
  let t := e.task
  let x := taskX s t 0 xf
  let w := taskW s t 0 wf
  let v := taskW s t 1 vf
  let p := productForm t 0 xf wf x w []
  let ks := tab (pbM t 0) (fun i => keySteps e hf (fun k => productSlot p x w none i k) i)
  let ph : Operand := rowsOperand (ks.map (fun l => (l.map (·.ph)).flatten))
  let q := productForm t 1 hf vf ph v []
  ks.zipIdx.map (fun (l, i) =>
    let (ys, fl) := mordantRow t q v l
    (ys, fl ||| 512 * b2n (emptyRow t i)))

/-- The rows of a standard task's output in FP32 (R160, R170, R176). -/
def stdRows (s : State) (e : IttEntry) : StdRows :=
  let t := e.task
  match Fmt.ofCode (pf t 0 0 0 4), Fmt.ofCode (pf t 0 0 4 4) with
  | some xf, some wf =>
    if tkKind t = 1 then firstRows s t xf wf
    else match fuIfmt t, Fmt.ofCode (pf t 1 0 4 4) with
      | some hf, some vf => if fuChain t = 1 then lakeRows s e xf wf hf vf else mordantRows s e xf wf hf vf
      | _, _ => []
  | _, _ => []

/-- A standard task's output (R46, R160, R369): each row's bytes, the bytes of its scales where OFMT is narrow, and its flags. -/
def stdOutput (s : State) (e : IttEntry) : List (List Byte × List Byte × Nat) :=
  match fuOfmt e.task with
  | none => []
  | some f => (stdRows s e).zipIdx.map (fun (r, i) =>
    let (cs, fl) := convertRow (outForm e f) i 0 r.1
    let scales := if f.narrow then (chunks 32 (cs.length / 32 + 1) cs).filterMap (fun b => b.head?.map (·.2)) else []
    (f.pack (cs.map (·.1)), scales, r.2 ||| fl))

/-- The pieces of the output, each at its place from the start of the output (R369): rows, then the scale rows of a narrow output. -/
def stdPieces (t : TaskDesc) (out : List (List Byte × List Byte × Nat)) : List (Nat × List Byte) :=
  let n := pbN t (tkProducts t - 1)
  match fuOfmt t with
  | none => []
  | some f =>
    let pitch := up64 (f.rowBytes n)
    let spitch := up64 (ceilDiv n 32)
    out.zipIdx.map (fun (r, i) => (i * pitch, r.1))
      ++ (if f.narrow then out.zipIdx.map (fun (r, i) => (out.length * pitch + i * spitch, r.2.1)) else [])

end Sys2Proof.Machine
end

