-- ==== Sys2Proof/Machine/Items.lean ====
section
/-! DEFINITION. The meanings of the packet and item commands (chapter 10, R149 to R151, R163 to R168). -/

namespace Sys2Proof.Machine

/-- A packet discarded under R361, R362 or R363 is counted. -/
def dropPacket (s : State) : State := addCounter s Reg.DSP_CNT_CRCDROP 1

/-- The packet is for this device. -/
def forMe (s : State) (p : Packet) : Bool := decide (p.dst.toNat = ownId s)

/-- What R363 finds at fault in a packet that its destination checks: a code and its DETAIL. -/
def packetFault (p : Packet) : Option (Nat × Nat) :=
  let typ := p.typ.toNat
  let tint := p.tint.toNat
  let noPay := decide (p.plen ≠ 0)
  if typ = ptWork then
    let narm := ofBytes ((p.payload.drop 1).take 1)
    if tint = 7 then some (0x14, 0)
    else if p.plen < 4 ∨ p.plen ≠ 4 + ceilDiv (4 * narm) 64 ∨ 256 < p.plen then some (0x15, 1)
    else none
  else if typ = ptData then (if tint = 7 ∨ p.plen = 0 ∨ 256 < p.plen then some (0x15, 1) else none)
  else if typ = ptResult then (if tint = 7 ∨ 256 < p.plen then some (0x15, 1) else none)
  else if typ = ptLot then
    (if tint ≠ 7 ∨ noPay then some (0x15, 1) else if 2 ≤ p.state then some (0x15, 8) else none)
  else if typ = ptAck ∨ typ = ptNack then (if tint ≠ 7 ∨ noPay then some (0x15, 1) else none)
  else if typ = ptControl then (if tint ≠ 7 ∨ 256 < p.plen then some (0x15, 1) else none)
  else some (0x15, 1)

/-- A packet reaches its destination (R361 to R363): dropped on a bad CRC, answered by NACK or dropped where it is malformed,
else handled; it leaves the receive buffer of its port unless f keeps it there (none). A packet for another device is not
handled here. -/
def receive (s : State) (port : Fin 17) (typ : Nat) (p : Packet) (f : State → Option State) : State :=
  if !forMe s p || decide (p.typ.toNat ≠ typ) then s
  else if !p.sound then dropPacket (takeFrom s port p)
  else match packetFault p with
    | some (c, d) =>
      let s := takeFrom s port p
      if typ = ptAck ∨ typ = ptNack ∨ typ = ptControl then dropPacket s else sendNack s p c d
    | none => (match f s with
      | some t => takeFrom t port p
      | none => s)

/-- Same originator and item number. -/
def ItemKey.same (a b : ItemKey) : Bool := decide (a.orig = b.orig) && decide (a.item = b.item)

/-- A key that R366 takes as ended: the recent-end list holds its lot or a later one, or the ITT a later one. -/
def keyEnded (s : State) (k : ItemKey) : Bool :=
  s.items.recent.any (fun r => ItemKey.same r k && decide (k.lot.toNat ≤ r.lot.toNat))
    || s.items.itt.any (fun e => ItemKey.same e.key k && decide (k.lot.toNat < e.key.lot.toNat))

/-- The live entries of an item at lots below one end as SUPERSEDED (R366, R382). -/
def supersede (s : State) (k : ItemKey) : State :=
  (s.items.itt.filter (fun e => ItemKey.same e.key k && decide (e.key.lot.toNat < k.lot.toNat))).foldl
    (fun s e => endItem s e.key .superseded 0 0) s

/-- The number of the start-up step (R379, R560). -/
def bootStep (s : State) : Nat := regFld s Reg.BOOT_STEP 0 4

/-- A slice or a controller is to be retired (R291, R327, R447, R480). -/
def retiring (s : State) : Bool :=
  !s.near.failing.isEmpty || (List.range 12).any (fun c => (decide (ctlState s c = 2) || decide (ctlState s c = 3))
      && decide (regFld s (Reg.ERR_BKT (BktClass.nearUe.first + c)) 16 16 ≠ 0))
    || (List.range 64).any (fun i => regBit s (Reg.RLZ_SC_ID i) 16
      && (decide (2 ≤ slicePhases s i) || decide (vcMode s i false = 3) || decide (vcMode s i true = 3)))

/-- WORK packets are taken (R372, R495): READY, ACCEPT, no change of the hold window, no retirement under way, no deep idle.
DEDUCED, log 38. -/
def acceptsWork (s : State) : Bool :=
  decide (15 ≤ s.boot.done) && regBit s Reg.DSP_ITEM_CFG 28 && !regBit s Reg.RLZ_STATUS 17 && !retiring s
    && decide (s.power.deep = .none)

/-- Accept a WORK packet (R164, R372, R373, R491). -/
def acceptWork (s : State) (port : Fin 17) (p : Packet) (t : TaskDesc) (arms : List (Nat × Nat)) : State :=
  let k := p.key
  let s := startCommand s
  let e : IttEntry := { key := k, tint := p.tint, state := .accepted, code := 0, detail := 0, flags := 0, resends := 0, srcPort := port,
                        task := t, persist := none, out := none }
  let s := { s with items := { s.items with itt := s.items.itt ++ [e] } }
  let s := arms.foldl (fun s (tag, n) => armTag s k tag n) s
  let sig := tkSigtag t
  let s := if sig = 0 ∨ (trigOf s k sig).isSome then s
    else { s with items := { s.items with trig := s.items.trig ++ [⟨k, BitVec.ofNat 16 sig, none, 0⟩] } }
  sendAck s p

/-- A WORK packet that has passed R363 (R366, R367, R372). -/
def handleWork (port : Fin 17) (p : Packet) (s : State) : State :=
  let k := p.key
  if (ittOf s k).isSome then sendAck s p
  else if keyEnded s k then sendNack s p 0x17 0
  else
    let s := supersede s k
    let t : TaskDesc := BitVec.ofNat 2048 (ofBytes (p.payload.take 256))
    let arms := armList t p.payload
    let tags := arms.map (·.1) ++ (if tkSigtag t = 0 then [] else [tkSigtag t])
    let new := (tags.eraseDups.filter (fun x => (trigOf s k x).isNone)).length
    if !acceptsWork s then sendNack s p 0x13 (bootStep s)
    else if 8192 ≤ s.items.itt.length then sendNack (setRegBit s Reg.DSP_ITEM_STAT 14) p 0x10 0
    else if 4096 < s.items.trig.length + new then sendNack (setRegBit s Reg.DSP_TRIG_STAT 16) p 0x11 0
    else match taskRefusal s t arms with
      | some d => sendNack s p 0x01 d
      | none => acceptWork s port p t arms

/-- WORK. -/
def execWork (port : Fin 17) (pkt : Packet) (s : State) : Out := .next (receive s port ptWork pkt (fun s => some (handleWork port pkt s)))

/-- The mover that places a payload: the one of movers 24 to 31 with the fewest descriptors, lowest number first. DESIGN CHOICE, log 47. -/
def dataMover (s : State) : Option Nat :=
  let n (m : Nat) : Nat := (mvQueue s m).length
  let best := (List.range 7).foldl (fun b i => if n (25 + i) < n b then 25 + i else b) 24
  if n best < 32 then some best else none

/-- Give a DATA packet to a mover (R295); a tag takes its entry in the trigger table at once. A packet that finds every queue
full stays in the router. -/
def placeData (port : Fin 17) (p : Packet) (s : State) : Option State :=
  match dataMover s with
  | none => none
  | some m =>
    let t := p.tag.toNat
    let s := if t = 0 ∨ (trigOf s p.key t).isSome then s
      else { s with items := { s.items with trig := s.items.trig ++ [⟨p.key, p.tag, none, 0⟩] } }
    some (setMvQueue s m (mvQueue s m ++ [{ desc := 0, src := .packet port p }]))

/-- A DATA packet that has passed R363 (R167, R379). -/
def handleData (port : Fin 17) (p : Packet) (s : State) : Option State :=
  let t := p.tag.toNat
  let placed (s : State) : Option State :=
    if reachAll s .mover true (p.addr + p.payload.length) 64 p.addr then placeData port p s else some (sendNack s p 0x16 0)
  if t = 0 then placed s
  else if keyEnded s p.key then some (sendAck (setRegBit s Reg.DSP_TRIG_STAT 17) p)
  else if (ittOf s p.key).isNone then some (sendNack s p 0x12 t)
  else if trigFull s && (trigOf s p.key t).isNone then some (sendNack (setRegBit s Reg.DSP_TRIG_STAT 16) p 0x11 0)
  else placed s

/-- DATA. -/
def execData (port : Fin 17) (pkt : Packet) (s : State) : Out := .next (receive s port ptData pkt (handleData port pkt))

/-- A launch record with the item's own values (R368). -/
def ownLaunch (e : IttEntry) (r : LaunchRec) : LaunchRec :=
  setFld (setFld (setFld (setFld r 160 16 e.key.orig.toNat) 176 13 e.key.item.toNat) 189 3 e.tint.toNat) 192 16 e.key.lot.toNat

/-- A mover descriptor with the item's own values (R296, R368). -/
def ownMove (e : IttEntry) (d : Desc) : Desc :=
  setFld (setFld (setFld (setFld d 448 16 e.key.orig.toNat) 480 13 e.key.item.toNat) 493 16 e.key.lot.toNat) 10 3 e.tint.toNat

/-- An array descriptor with the item's own values (R79). -/
def ownDesc (e : IttEntry) (d : Desc) : Desc :=
  setFld (setFld (setFld (setFld d 416 16 e.key.orig.toNat) 432 13 e.key.item.toNat) 445 3 e.tint.toNat) 448 16 e.key.lot.toNat

/-- What the dispatcher queues, with the item's own values. -/
def ownAct (e : IttEntry) : DispatchAct → DispatchAct
  | .queue n d => .queue n (ownDesc e d)
  | .launch x r => .launch x (ownLaunch e r)
  | .mover m d => .mover m (ownMove e d)
  | .prescan t k l => .prescan t k (l.map (fun (x, r) => (x, ownLaunch e r)))
  | .prologue x r tag g => .prologue x (ownLaunch e r) tag (g.map (fun (n, d) => (n, ownDesc e d)))

/-- The engine of a launch. -/
def actEngine : DispatchAct → Option (Fin 50)
  | .launch e _ => some e
  | _ => none

/-- The descriptors that a part of a plan queues, each with its array. -/
def actDescs : DispatchAct → List (Fin 200 × Desc)
  | .queue n d => [(n, d)]
  | .prologue _ _ _ g => g
  | _ => []

/-- The arrays that a plan uses. -/
def actArrays (acts : List DispatchAct) : List Nat := ((acts.flatMap actDescs).map (fun x => x.1.val)).eraseDups

/-- The arrays on which an item has descriptors or columns. -/
def itemArrays (s : State) (k : ItemKey) : List Nat :=
  let mine (e : QEntry) : Bool := decide (descKey e.desc = k)
  (s.arrays.filter (fun x => x.2.queue.any mine || x.2.inflight.any mine || x.2.cols.any (fun c => c.2.ownedBy k))).map (·.1)
    ++ (s.items.heldDesc.filter (fun x => decide (descKey x.2 = k))).map (fun x => x.1.val)

/-- The regions whose arrays run the item's products, with the plan. -/
def planRegions (s : State) (k : ItemKey) (acts : List DispatchAct) : List Nat :=
  ((actArrays acts ++ itemArrays s k).map (fun n => n / 4)).eraseDups

/-- A pre-scan that the plan may launch (R150): of a product whose anchor the pre-scan derives, with its K, once; one block on the
engine of each region that the product uses, of as many groups each, since their shares are equal. -/
def prescanOk (s : State) (e : IttEntry) (regions : List Nat) : DispatchAct → Bool
  | .prescan t k l =>
    let es := l.map (fun x => x.1.val)
    decide (t.val < tkProducts e.task) && decide (k.toNat = pbK e.task t.val) && decide (pf e.task t.val 0 11 1 = 1)
      && !l.isEmpty && !s.items.anchors.any (fun x => decide (x.key = e.key) && decide (x.t = t))
      && decide (es.eraseDups.length = es.length) && es.all (fun x => regions.contains x) && decide (es.length = regions.length)
      && l.all (fun x => l.all (fun y => decide (launchGroups x.2 = launchGroups y.2)))
  | _ => true

/-- Prologue and epilogue groups run on the engines of the regions that run the product (R149), and what depends on a prologue carries
TRIG and the tag that it signals (R151). -/
def launchOk (regions : List Nat) : DispatchAct → Bool
  | .launch x _ => regions.contains x.val
  | .prologue x _ tag g => regions.contains x.val && decide (tag ≠ 0) && g.all (fun y => descTrig y.2 && decide (descTag y.2 = tag.toNat))
  | _ => true

/-- No epilogue group is launched on a region after a descriptor for one of its arrays (R149). -/
def epilogueFirst : List DispatchAct → Bool
  | [] => true
  | a :: t => (actDescs a).all (fun x => t.all (fun b => match actEngine b with
    | some e => decide (e.val ≠ x.1.val / 4)
    | none => true)) && epilogueFirst t

/-- The bias enters product 0 by a preload (R160). -/
def biasPreload (t : TaskDesc) : Bool := decide (ff t 0 8 2 = 1) && decide (fuChain t ≠ 2)

/-- The tile at an address is one of the staged intermediate (R172): its offset in its bank lies in the area at STAGE_OFF. -/
def inStage (t : TaskDesc) (f : Fmt) (a : Nat) : Bool :=
  let o := (a - pbBase) % pbSize
  decide (pbBase ≤ a) && decide (ff t 7 0 23 ≤ o) && decide (o < ff t 7 0 23 + stageBytes t f)

/-- The part of a lake chain that a pass of product i plays (R169, R170, R172): product 0 loads no lake tile; product 1 takes the lake tile
of all N1 values on the direct path, and tiles of the staged intermediate on the other. -/
def lakePassOk (t : TaskDesc) (d : Desc) (i : Nat) : Bool :=
  match fuIfmt t with
  | none => false
  | some f =>
    let staged := !lakeDirect t f && decide (descXsrc d = 0) && inStage t f (descAddr d)
    if i = 0 then decide (descXsrc d ≠ 2) && !staged
    else if lakeDirect t f then decide (descXsrc d ≠ 0) && decide (descKt d = pbN t 0)
    else decide (descXsrc d = 1) || staged

/-- A pass is one that product i can have: its formats and cell mode (R369), a K that is not 0 (R101), CLEAR = 1 for every key tile of
a mordant chain (R175), no claim of columns that a bias preload claims (R160), and its part in a lake chain. -/
def passOk (t : TaskDesc) (d : Desc) (i : Nat) : Bool :=
  let xf := if i = 0 then Fmt.ofCode (pf t 0 0 0 4) else fuIfmt t
  decide (descFmt d 4 = xf) && decide (descFmt d 8 = Fmt.ofCode (pf t i 0 4 4)) && decide (descCmode d = pf t i 0 8 3)
    && decide (pbK t i ≠ 0) && (decide (fuChain t ≠ 2) || descClear d) && !(i == 0 && biasPreload t && descClear d)
    && (decide (fuChain t ≠ 1) || lakePassOk t d i)

/-- A descriptor is one that the dispatcher issues for a product or chain (R101, R160, R169 to R175): a pass of one of its products; a
preload of the bias, one value per column with ADD = 0, or of zeros; a drain to the ring in FP32 with RMODE 0b00 and OVF 0, which
in a chain releases its columns. -/
def descOk (t : TaskDesc) (d : Desc) : Bool :=
  match descOp d with
  | 1 => (List.range (tkProducts t)).any (passOk t d)
  | 2 => decide (fld d 11 1 = 0) && (if biasPreload t then decide (fld d 9 2 = 1) && decide (descFmt d 4 = some .fp32) else decide (fld d 9 2 = 3))
  | _ => descToRing d && decide (descFmt d 4 = some .fp32) && decide (fld d 8 3 = 0) && (decide (fuChain t = 0) || decide (fld d 11 1 = 0))

/-- The descriptors of one array accumulate the whole K of product 0 for each tile that it claims there (R169): sums holds, by EBASE,
the K values that the passes of the last claim have had so far, and first whether the active tile is one of product 0. -/
def wholeK (t : TaskDesc) : List Desc → Bool → Tbl Nat → Bool
  | [], _, sums => sums.all (fun x => decide (x.2 = pbK t 0))
  | d :: l, first, sums =>
    let eb := descEbase d
    let done := decide (lookD sums eb (pbK t 0) = pbK t 0)
    match descOp d with
    | 1 =>
      let mine := if descXsrc d = 1 then first else passOk t d 0 && !passOk t d 1
      if !mine then wholeK t l false sums
      else if descClear d then done && wholeK t l true (put sums eb (descKt d))
      else (look sums eb).isSome && wholeK t l true (put sums eb (lookD sums eb 0 + descKt d))
    | 2 => done && wholeK t l first (put sums eb 0)
    | _ => wholeK t l first sums

/-- In a lake chain the whole K of a 128-row tile of X accumulates on one array (R169). -/
def tileTogether (t : TaskDesc) (l : List (Fin 200 × Desc)) : Bool :=
  decide (fuChain t ≠ 1) || (l.map (fun x => x.1)).all (fun n => wholeK t ((l.filter (fun x => decide (x.1 = n))).map (·.2)) false [])

/-- The plan is one that the task gives (R101, R149 to R151, R160, R169, R368): every record of a program on each of REGIONS engines, the
descriptors of a move in order, or for a product or chain descriptors, launches and moves on at most NARR arrays. -/
def planOk (s : State) (e : IttEntry) (acts : List DispatchAct) : Bool :=
  let t := e.task
  let own := acts.map (ownAct e)
  match tkKind t with
  | 3 =>
    let es := (acts.filterMap actEngine).eraseDups
    let recs := (List.range (tkNrec t)).map (fun i => ownLaunch e (tkLaunch t i))
    decide (e.state = .accepted) && decide (es.length = tkRegions t) && es.all (fun x => engineEnabled s x)
      && decide (own = (es.map (fun x => recs.map (fun r => DispatchAct.launch x r))).flatten)
  | 4 =>
    let ds := acts.filterMap (fun a => match a with
      | .mover _ d => some (ownMove e d)
      | _ => none)
    decide (e.state = .accepted) && decide (acts.length = ds.length) && decide (ds = (List.range (tkNrec t)).map (fun i => ownMove e (tkMove t i)))
  | _ =>
    let regions := planRegions s e.key acts
    let descs := acts.flatMap actDescs
    !acts.isEmpty && acts.all (prescanOk s e regions) && acts.all (launchOk regions) && epilogueFirst acts
      && descs.all (fun x => descOk t x.2) && tileTogether t descs
      && (decide (tkNarr t = 0) || decide ((actArrays acts ++ itemArrays s e.key).eraseDups.length ≤ tkNarr t))

/-- Queue one part of the plan. -/
def runAct (k : ItemKey) (s : State) : DispatchAct → State
  | .queue n d => dispatchDesc s n d
  | .launch e r => dispatchLaunch s e r
  | .mover m d => submitItem s m d
  | .prescan t kk l =>
    let x : AnchorEntry := { key := k, t := t, k := kk, waiting := l.map (·.1), ex := none, ew := none, eb := none, anchor := none }
    let s := { s with items := { s.items with anchors := s.items.anchors ++ [x] } }
    l.foldl (fun s (e, r) => dispatchLaunch s e r) s
  | .prologue e r _ g => g.foldl (fun s (n, d) => dispatchDesc s n d) (dispatchLaunch s e r)

/-- ITEM_DISPATCH (R149 to R151, R368, R374, R491). -/
def execItemDispatch (key : ItemKey) (acts : List DispatchAct) (s : State) : Out :=
  .next (match ittOf s key with
    | some e =>
      if e.live && e.out.isNone && !s.power.phaseWait && planOk s e acts then
        (acts.map (ownAct e)).foldl (runAct key) (setItt s key (fun e => { e with state := .running }))
      else s
    | none => s)

/-- Nothing of an item's work is left on this device (R22, R371). -/
def workDone (s : State) (k : ItemKey) : Bool :=
  let mine (e : QEntry) : Bool := decide (descKey e.desc = k)
  let arrBusy (a : ArraySt) : Bool := a.queue.any mine || a.inflight.any mine || a.saved.any (fun x => mine x.entry) || a.resumeHeld.any mine || a.preload.toList.any mine
    || a.drains.any (fun r => mine r.entry) || a.lake.toList.any (fun l => !l.done && decide (l.tile.key = k))
  let engBusy (x : Engine) : Bool := x.groups.any (fun g => decide (launchKey g.2.launch = k)) || x.launchQ.any (fun r => decide (launchKey r = k))
  let mvBusy (q : List MoverEntry) : Bool := q.any (fun e => decide (e.src = .dispatcher) && !e.ended && decide (moverKey e.desc = k))
  !s.arrays.any (fun x => arrBusy x.2) && !s.engines.any (fun x => engBusy x.2) && !s.movers.any (fun x => mvBusy x.2)
    && !s.items.heldDesc.any (fun x => decide (descKey x.2 = k)) && !s.items.heldMover.any (fun x => decide (moverKey x.2 = k))

/-- The output leaves as DATA packets (R370). -/
def outputAway (s : State) (t : TaskDesc) : Bool :=
  decide (tkProducts t ≠ 0) && !tkOutmode t && decide (tkOaddr t / 2 ^ 48 ≠ ownId s)

/-- The inline output of a program is at most 16 KiB, and there is none without OUTMODE (R371). A product or chain has no such operand:
its output is that of its standard task. DEDUCED, log 38. -/
def outputFits (t : TaskDesc) (n : Nat) : Bool := decide (tkProducts t ≠ 0) || (if tkOutmode t then decide (n ≤ 16384) else decide (n = 0))

/-- Send the output as DATA packets of at most 16 KiB (R370). -/
def sendOutput (s : State) (e : IttEntry) (out : List Byte) : State :=
  let t := e.task
  let a := tkOaddr t % 2 ^ 48
  let tag := tkOtag t
  let key := if tag = 0 then e.key else tkConsumer t
  let q : PktSpec := { dst := tkOaddr t / 2 ^ 48, typ := ptData, tint := e.tint.toNat, key := key, tag := tag, owner := some e.key }
  (chunks 16384 (out.length / 16384 + 1) out).zipIdx.foldl (fun s (b, i) => sendKept s { q with addr := a + 16384 * i, payload := b }) s

/-- Persist k is complete (R345). -/
def persistDone (s : State) (k : BitVec 16) : Bool :=
  decide ((regFld s Reg.FME_PERSIST_STAT 16 16 + 65536 - k.toNat) % 65536 < 32768)

/-- A standard task's output as the bytes that leave inline or as DATA packets (R369 to R371): the padding of its rows is open. -/
def outputBytes (s : State) (ps : List (Nat × List Byte)) : List Byte :=
  ps.flatMap (fun (o, b) => b ++ tab (up64 b.length - b.length) (fun i => Config.freeByte (s.fresh + o + b.length + i)))

/-- A standard task's output is written at its local address (R369, R370). DESIGN CHOICE, log 76. -/
def writeOutput (s : State) (e : IttEntry) (ps : List (Nat × List Byte)) : State :=
  let a := tkOaddr e.task % 2 ^ 48
  ps.foldl (fun s (o, b) => noteFar (writeBytes s (a + o) b false) e.key (a + o)) s

/-- The output of a standard task leaves or is written, and its flags reach the item (R160, R180, R369 to R371, R380): what leaves
inline, and the state. -/
def putOutput (s : State) (e : IttEntry) : List Byte × State :=
  let out := stdOutput s e
  let ps := stdPieces e.task out
  let bs := outputBytes s ps
  let s := addFlags s e.key (orFlags (out.map (fun r => r.2.2)))
  let s := { s with fresh := s.fresh + outBytes e.task }
  if tkOutmode e.task then (bs, s)
  else if outputAway s e.task then ([], sendOutput s e bs)
  else ([], writeOutput s e ps)

/-- The work of an item is complete: its output leaves, and its persist starts (R346, R370, R371). -/
def finishWork (s : State) (e : IttEntry) (given : List Byte) : State :=
  let k := e.key
  let (out, s) := if tkProducts e.task = 0 then (given, s) else putOutput s e
  let s := setItt s k (fun e => { e with out := some out })
  if tkPersist e.task then
    let s := startPersist s
    setItt s k (fun e => { e with persist := some (BitVec.ofNat 16 (regFld s Reg.FME_PERSIST_STAT 0 16)) })
  else s

/-- Send the RESULT of an item whose work is complete once its DATA packets are acknowledged and its persist is done (R371). -/
def sendDone (s : State) (k : ItemKey) : State :=
  match ittOf s k with
  | some e =>
    let acked := !s.items.sent.any (fun x => decide (x.owner = some k))
    let kept := match e.persist with
      | some n => persistDone s n
      | none => true
    match e.out with
    | some out =>
      if e.live && acked && kept then
        let f (e : IttEntry) : IttEntry := { e with state := .done }
        sendResult (setItt (endWork s k) k f) (f e) (if out.isEmpty then 0 else tkRaddr e.task % 2 ^ 48) out
      else s
    | none => s
  | none => s

/-- ITEM_COMPLETE (R22, R346, R371): the work completes, and the RESULT goes as soon as nothing holds it back. -/
def execItemComplete (key : ItemKey) (inline : List Byte) (s : State) : Out :=
  .next (match ittOf s key with
    | some e =>
      match e.out with
      | some _ => sendDone s key
      | none =>
        if decide (e.state = .running) && workDone s key && outputFits e.task inline.length
            && (!tkPersist e.task || decide (s.far.persists.length < 32767)) then sendDone (finishWork s e inline) key
        else s
    | none => s)

/-- The lots that an origination entry has issued name a device for a lot. -/
def OrigEntry.device (o : OrigEntry) (lot : BitVec 16) : Option (BitVec 16) :=
  (o.issued.find? (fun x => decide (x.1 = lot))).map (·.2)

/-- A RESULT that the originator has no use for is counted as late (R366, R377). -/
def lateResult (s : State) : State := setRegBit s Reg.DSP_ITEM_STAT 30

/-- A RESULT that has passed R363 (R366, R371, R377, R383): always acknowledged. -/
def handleResult (p : Packet) (s : State) : State :=
  let s := sendAck s p
  match (if p.key.orig.toNat = ownId s then origOf s p.key.item else none) with
  | none => lateResult s
  | some o =>
    if o.decided || (o.device p.key.lot).isNone || o.ended.contains p.key.lot then lateResult s
    else
      let o := { o with ended := o.ended ++ [p.key.lot] }
      let s := setOrig s p.key.item o
      let lot := p.key.lot.toNat
      if p.key.lot ≠ o.lot then
        let q : CqSpec := { item := p.key.item, state := ItemState.superseded.code, code := p.code.toNat, detail := p.detail.toNat }
        dueEntry s o.cq { q with lot := lot, exec := p.src.toNat, flags := p.flags.toNat, cookie := o.cookie } none
      else
        let st : ItemState := if p.state = ItemState.done.code then .done else .failed
        let n := p.payload.length
        let s := if st = .done ∧ n ≠ 0 ∧ mappedW s .mover p.addr n = true then writeBytes s p.addr p.payload false else s
        decideItem s p.key.item o st p.code.toNat p.detail.toNat lot p.src.toNat p.flags.toNat

/-- RESULT. -/
def execResult (port : Fin 17) (pkt : Packet) (s : State) : Out :=
  .next (receive s port ptResult pkt (fun s => some (handleResult pkt s)))

/-- The kept packet that an answer names (R364). -/
def answered (p : Packet) (x : SentPkt) : Bool :=
  decide (x.pkt.dst = p.src) && decide (x.pkt.typ = p.atype) && decide (x.pkt.key = p.key) && decide (x.pkt.pseq = p.ackseq)

/-- Stop keeping a packet. -/
def forget (s : State) (x : SentPkt) : State :=
  { s with items := { s.items with sent := dropFirst (fun y => decide (y = x)) s.items.sent } }

/-- Change a kept packet. -/
def setSent (s : State) (x y : SentPkt) : State :=
  { s with items := { s.items with sent := s.items.sent.map (fun z => if z = x then y else z) } }

/-- A WORK fails at the originator while its lot is current (R364). -/
def failWork (s : State) (p : Packet) (code detail : Nat) : State :=
  match origOf s p.key.item with
  | some o =>
    if o.decided || decide (o.lot ≠ p.key.lot) then s
    else decideItem s p.key.item o .failed code detail p.key.lot.toNat p.dst.toNat 0
  | none => s

/-- The sender's attempts end with a code, none where no answer came (R364, R365, R373). -/
def giveUp (s : State) (x : SentPkt) (nack : Option (Byte × BitVec 24)) : State :=
  let s := forget s x
  let (code, detail) : Nat × Nat := match nack with
    | some (c, d) => (c.toNat, d.toNat)
    | none => (0x0C, x.pkt.dst.toNat)
  let typ := x.pkt.typ.toNat
  if typ = ptWork then failWork s x.pkt code detail
  else if typ = ptData then
    match x.owner with
    | some k => failItem s k code detail
    | none => s
  else if typ = ptResult then leaveItt (setRegBit s Reg.DSP_ITEM_STAT 15) x.pkt.key
  else s

/-- An ACK frees the sender's copy (R364, R373, R374): a WORK is accepted, an ITT entry leaves with its RESULT. One of a CONTROL
packet answers a LEFT (R422). -/
def handleAck (p : Packet) (s : State) : State :=
  if p.atype = 6 then leftAnswered s p.src p.ackseq
  else match s.items.sent.find? (answered p) with
  | none => s
  | some x =>
    let s := forget s x
    let typ := x.pkt.typ.toNat
    if typ = ptResult then leaveItt s p.key
    else if typ = ptWork then
      match origOf s p.key.item with
      | some o => if o.lot = p.key.lot ∧ o.state = .issued then setOrig s p.key.item { o with state := .accepted } else s
      | none => s
    else s

/-- ACK. -/
def execAck (port : Fin 17) (pkt : Packet) (s : State) : Out :=
  .next (receive s port ptAck pkt (fun s => some (handleAck pkt s)))

/-- NACK codes that are retryable (R379). -/
def retryable (c : Nat) : Bool := decide (0x10 ≤ c) && decide (c ≤ 0x13)

/-- A NACK (R364): a retryable code is remembered until the resend, any other ends the attempts. -/
def handleNack (p : Packet) (s : State) : State :=
  match s.items.sent.find? (answered p) with
  | none => s
  | some x =>
    if retryable p.code.toNat then setSent s x { x with nack := some (p.code, p.detail), retry := true }
    else giveUp s x (some (p.code, p.detail))

/-- NACK. -/
def execNack (port : Fin 17) (pkt : Packet) (s : State) : Out :=
  .next (receive s port ptNack pkt (fun s => some (handleNack pkt s)))

/-- A LOT packet (R382, R388): older lots end as SUPERSEDED; where no entry matches, the lot it withdraws is remembered. -/
def handleLot (p : Packet) (s : State) : State :=
  let k := p.key
  let s := if s.items.itt.any (fun e => ItemKey.same e.key k) then supersede s k
    else if k.lot = 0 then s
    else addRecent s { k with lot := k.lot - 1 }
  sendAck s p

/-- LOT. -/
def execLot (port : Fin 17) (pkt : Packet) (s : State) : Out :=
  .next (receive s port ptLot pkt (fun s => some (handleLot pkt s)))

/-- Resend a kept packet, or count the silence of a tagged DATA packet (R364, R365); a RESULT's resends show in its entry. -/
def resend (s : State) (x : SentPkt) : State :=
  let silent := decide (x.pkt.typ.toNat = ptData) && decide (x.pkt.tag ≠ 0) && !x.retry
  let s := setSent s x { x with resends := x.resends + 1, retry := false }
  let s := if x.pkt.typ.toNat = ptResult then setItt s x.pkt.key (fun e => { e with resends := BitVec.ofNat 4 (x.resends + 1) }) else s
  if silent then s else addCounter (emit s (.packet x.pkt)) Reg.DSP_CNT_RESENT 1

/-- RESEND_TIMEOUT (R364, R365): the resend interval of a kept packet ends. -/
def execResendTimeout (key : ItemKey) (typ : BitVec 4) (pseq : BitVec 16) (s : State) : Out :=
  .next (match s.items.sent.find? (fun x => decide (x.pkt.key = key) && decide (x.pkt.typ = typ) && decide (x.pkt.pseq = pseq)) with
    | none => s
    | some x =>
      if regFld s Reg.DSP_ITEM_CFG 24 4 ≤ x.resends then
        giveUp s x (if x.pkt.typ.toNat = ptWork then x.nack else none)
      else resend s x)

/-- Send a LOT packet (R377, R381): ACTION 0 withdraw, 1 cancel; the lot counts as used. -/
def sendLot (s : State) (item : BitVec 13) (dst lot action : Nat) : State :=
  let key : ItemKey := ⟨BitVec.ofNat 16 (ownId s), item, BitVec.ofNat 16 lot⟩
  let s := { s with items := { s.items with lots := put s.items.lots item.toNat (max lot (lookD s.items.lots item.toNat 0)) } }
  sendKept s { dst := dst, typ := ptLot, tint := 7, key := key, state := action }

/-- ITEM_TIMEOUT (R377). -/
def execItemTimeout (item : BitVec 13) (s : State) : Out :=
  .next (match origOf s item with
    | some o =>
      if o.decided then s
      else
        let s := if o.lot.toNat < 0xFFFF then sendLot s item o.dst.toNat (o.lot.toNat + 1) 0 else s
        decideItem s item o .abandoned 0 0 o.lot.toNat o.dst.toNat 0
    | none => s)

/-- The control messages of R411. -/
def knownMsg (m : Nat) : Bool := (decide (1 ≤ m) && decide (m ≤ 0xE)) || decide (m = 0x20)

/-- CRC_DROP (R361 to R363, R411): a packet with a failing CRC, a reserved TYPE or an unknown MSG is discarded and counted. -/
def execCrcDrop (port : Fin 17) (pkt : Packet) (s : State) : Out :=
  .next (
    let t := pkt.typ.toNat
    let unknown := decide (t = ptControl) && !knownMsg (pkt.payWord 0 % 256)
    if (forMe s pkt || pkt.pathMode) && (!pkt.sound || decide (t = 0 ∨ 8 ≤ t) || unknown) then dropPacket (takeFrom s port pkt) else s)

end Sys2Proof.Machine
end

