-- ==== Sys2Proof/Machine/Rings.lean ====
section
/-! DEFINITION. The meanings of the ring commands: submission entries, completion entries, ring registers (R381, R384 to R387,
R392, R569, R574). -/

namespace Sys2Proof.Machine

/-- OPC of a submission entry (R384). -/
def sqOpc (e : Desc) : Nat := fld e 0 4
/-- CQ. -/
def sqCq (e : Desc) : Fin 64 := Fin.ofNat 64 (fld e 8 6)
/-- TIMEOUT. -/
def sqTimeout (e : Desc) : BitVec 16 := e.extractLsb' 16 16
/-- DST or NEWDST. -/
def sqDst (e : Desc) : BitVec 16 := e.extractLsb' 32 16
/-- ITEM. -/
def sqItem (e : Desc) : BitVec 13 := e.extractLsb' 48 13
/-- COOKIE. -/
def sqCookie (e : Desc) : BitVec 64 := e.extractLsb' 64 64
/-- DLEN. -/
def sqDlen (e : Desc) : Nat := fld e 192 9

/-- The submission ring has entries that the stop may read (R387). -/
def ringHasWork (s : State) (r : Nat) : Bool :=
  ringOn s r && decide (regFld s (Reg.DSP_SQ_HEAD r) 0 16 ≠ regFld s (Reg.DSP_SQ_TAIL r) 0 16)

/-- The ring whose entry the stop takes next (R385, R569): in ascending order after the ring served last. -/
def nextRing (s : State) : Option Nat :=
  if s.host.bme && s.pins.coreUp && decide (s.power.deep ≠ .deep) then
    ((List.range 64).map (fun i => (s.items.lastRing.val + 1 + i) % 64)).find? (ringHasWork s)
  else none

/-- The stop reads an entry of a ring (R385, R387). -/
def takeEntry (s : State) (r : Fin 64) : State :=
  let head := (regFld s (Reg.DSP_SQ_HEAD r) 0 16 + 1) % sqSize s r
  setRegFld { s with items := { s.items with lastRing := r } } (Reg.DSP_SQ_HEAD r) 0 16 head

/-- A rejected entry produces one completion entry on the ring it was read from (R385, R386). -/
def rejectEntry (s : State) (r : Fin 64) (item : BitVec 13) (cookie : BitVec 64) (code detail : Nat) : State :=
  let q : CqSpec := { item := item, state := ItemState.failed.code, rejected := true }
  dueEntry s r { q with code := code, detail := detail, cookie := cookie } none

/-- Check 2 of R385: the lowest word with an offending field. -/
def entryBadWord (s : State) (e : Desc) : Option Nat :=
  let submit := decide (sqOpc e = 1)
  let z (word lo w : Nat) : Bool := decide (fld e (32 * word + lo) w ≠ 0)
  let w0 := !(decide (1 ≤ sqOpc e) && decide (sqOpc e ≤ 3)) || z 0 7 1 || z 0 14 2 || !ringOn s (sqCq e)
  let w6 := z 6 9 23 || (submit && !(decide (4 ≤ sqDlen e) && decide (sqDlen e ≤ 8)))
  firstBad ([(0, w0), (1, z 1 29 3), (4, submit && z 4 0 6), (6, w6)] ++ (List.range 9).map (fun i => (7 + i, z (7 + i) 0 32)))

/-- The highest lot that an item number has used, none before its first item (R358). -/
def lastLot (s : State) (i : BitVec 13) : Option Nat := look s.items.lots i.toNat

/-- Checks 2 to 4 of R385: the rejection code and its DETAIL. -/
def entryFault (s : State) (e : Desc) : Option (Nat × Nat) :=
  match entryBadWord s e with
  | some w => some (0x23, w)
  | none =>
    if sqOpc e = 1 then
      if fld e 4 3 = 7 then some (0x14, 0)
      else if (origOf s (sqItem e)).isSome then some (0x20, 0)
      else if (match lastLot s (sqItem e) with | some l => decide (0xFFFF ≤ l) | none => false) then some (0x21, 0)
      else none
    else match origOf s (sqItem e) with
      | none => some (0x22, 0)
      | some o => if o.decided then some (0x22, 0) else if o.lot = 0xFFFF#16 then some (0x21, 0) else none

/-- Issue a lot of an item: its WORK is sent and its timer starts (R358, R377, R381). -/
def issueLot (s : State) (i : BitVec 13) (o : OrigEntry) (lot : Nat) (dst : BitVec 16) : State :=
  let l := BitVec.ofNat 16 lot
  let o := { o with lot := l, dst := dst, state := .issued, issued := o.issued ++ [(l, dst)] }
  let s := setOrig s i o
  let s := { s with items := { s.items with lots := put s.items.lots i.toNat lot } }
  let key : ItemKey := ⟨BitVec.ofNat 16 (ownId s), i, l⟩
  sendKept s { dst := dst.toNat, typ := ptWork, tint := o.tint.toNat, key := key, payload := o.payload }

/-- A SUBMIT entry that passes every check: the item takes its number (R357, R358, R385). -/
def submitItemEntry (s : State) (e : Desc) (payload : List Byte) : State :=
  let i := sqItem e
  let lot := match lastLot s i with
    | some l => l + 1
    | none => 0
  let o : OrigEntry := {
    lot := BitVec.ofNat 16 lot, dst := sqDst e, state := .issued, cq := sqCq e, cookie := sqCookie e, timeout := sqTimeout e,
    tint := e.extractLsb' 4 3, payload := payload, decided := false, issued := [], ended := [] }
  issueLot s i o lot (sqDst e)

/-- The stop may take this entry of this ring now, and its OPC is the command's. -/
def entryTaken (s : State) (r : Fin 64) (e : Desc) (opc : Nat) : Bool := decide (nextRing s = some r.val) && decide (sqOpc e = opc)

/-- Reject the entry or act on it (R385). -/
def serveEntry (s : State) (r : Fin 64) (e : Desc) (f : State → State) : State :=
  let s := takeEntry s r
  match entryFault s e with
  | some (c, d) => rejectEntry s r (sqItem e) (sqCookie e) c d
  | none => f s

/-- SUBMIT (R385): payload is what the host memory at DESC holds. -/
def execSubmit (ring : Fin 64) (entry : Desc) (payload : List Byte) (s : State) : Out :=
  .next (
    if entryTaken s ring entry 1 && ((entryFault s entry).isSome || decide (payload.length = 64 * sqDlen entry)) then
      serveEntry s ring entry (fun s => submitItemEntry s entry payload)
    else s)

/-- The kept WORK packets of an item are no longer resent (R388). -/
def forgetWork (s : State) (i : BitVec 13) : State :=
  let mine (x : SentPkt) : Bool := decide (x.pkt.typ.toNat = ptWork) && decide (x.pkt.key.item = i) && decide (x.pkt.key.orig.toNat = ownId s)
  { s with items := { s.items with sent := s.items.sent.filter (fun x => !mine x) } }

/-- MIGRATE (R381, R385, R388): LOT withdraw goes to the old device, WORK at the next lot to the new one. -/
def execMigrate (ring : Fin 64) (entry : Desc) (s : State) : Out :=
  .next (
    if entryTaken s ring entry 2 then
      serveEntry s ring entry (fun s =>
        let i := sqItem entry
        match origOf s i with
        | some o =>
          let lot := o.lot.toNat + 1
          let s := sendLot (forgetWork s i) i o.dst.toNat lot 0
          issueLot s i { o with timeout := sqTimeout entry, cq := sqCq entry, cookie := sqCookie entry } lot (sqDst entry)
        | none => s)
    else s)

/-- CANCEL (R381): LOT cancel goes to the executing device and the final entry is decided at once. -/
def execCancel (ring : Fin 64) (entry : Desc) (s : State) : Out :=
  .next (
    if entryTaken s ring entry 3 then
      serveEntry s ring entry (fun s =>
        let i := sqItem entry
        match origOf s i with
        | some o =>
          let s := sendLot s i o.dst.toNat (o.lot.toNat + 1) 1
          decideItem s i o .failed 0x0B 0 o.lot.toNat o.dst.toNat 0
        | none => s)
    else s)

/-- BAD_ENTRY (R385): an entry whose OPC is reserved. -/
def execBadEntry (ring : Fin 64) (entry : Desc) (s : State) : Out :=
  .next (
    if decide (nextRing s = some ring.val) && !(decide (1 ≤ sqOpc entry) && decide (sqOpc entry ≤ 3)) then serveEntry s ring entry id else s)

/-- COMPLETION_TIMEOUT (R385, R392, R574): the entry, or the payload of a SUBMIT entry that passes checks 2 to 4, cannot be read.
What a rejection of an unread entry reports as ITEM and COOKIE is left open. DESIGN CHOICE, log 49. -/
def execCompletionTimeout (ring : Fin 64) (entry : Option Desc) (s : State) : Out :=
  .next (
    if nextRing s ≠ some ring.val then s
    else match entry with
      | none =>
        let s := setRegBit (takeEntry s ring) (Reg.DSP_RING_STAT ring) 2
        let (a, s) := freeWord s
        let (b, s) := freeWord s
        let (c, s) := freeWord s
        rejectEntry s ring (a.setWidth 13) (b ++ c) 0x23 0xFF
      | some e =>
        if sqOpc e ≠ 1 ∨ (entryFault s e).isSome then s
        else rejectEntry (setRegBit (takeEntry s ring) (Reg.DSP_RING_STAT ring) 2) ring (sqItem e) (sqCookie e) 0x23 0xFF)

/-- COMPLETION_ENTRY_WRITE (R386, R387, R569). -/
def execCompletionEntryWrite (ring : Fin 64) (s : State) : Out := .next (writeEntry s ring)

/-- A pointer or configuration write is discarded (R387, R392). -/
def ptrErr (s : State) (r : Nat) : State := setRegBit s (Reg.DSP_RING_STAT r) 0

/-- A write of DSP_SQ_TAIL (R387): on the way forward to the entry just behind the head. -/
def writeSqTail (s : State) (r : Nat) (v : Word) : State :=
  let n := sqSize s r
  let x := fld v 0 16
  let tail := regFld s (Reg.DSP_SQ_TAIL r) 0 16
  let head := regFld s (Reg.DSP_SQ_HEAD r) 0 16
  if n ≤ x ∨ (head + 2 * n - 1 - tail) % n < (x + n - tail) % n then ptrErr s r
  else setRegFld s (Reg.DSP_SQ_TAIL r) 0 16 x

/-- SQ_TAIL_WRITE. -/
def execSqTailWrite (ring : Fin 64) (v : Word) (s : State) : Out :=
  .next (whenLive s (Reg.DSP_SQ_TAIL ring) (fun s => writeSqTail s ring v))

/-- A write of DSP_CQ_HEAD (R387): on the way forward to the tail. -/
def writeCqHead (s : State) (r : Nat) (v : Word) : State :=
  let n := cqSize s r
  let x := fld v 0 16
  let head := regFld s (Reg.DSP_CQ_HEAD r) 0 16
  let tail := regFld s (Reg.DSP_CQ_TAIL r) 0 16
  if n ≤ x ∨ (tail + n - head) % n < (x + n - head) % n then ptrErr s r
  else setRegFld s (Reg.DSP_CQ_HEAD r) 0 16 x

/-- CQ_HEAD_WRITE. -/
def execCqHeadWrite (ring : Fin 64) (v : Word) (s : State) : Out :=
  .next (whenLive s (Reg.DSP_CQ_HEAD ring) (fun s => writeCqHead s ring v))

/-- Enabling a ring pair sets its four pointers to 0 and starts the first pass (R387). -/
def enableRing (s : State) (r : Nat) : State :=
  let s := [Reg.DSP_SQ_TAIL r, Reg.DSP_SQ_HEAD r, Reg.DSP_CQ_TAIL r, Reg.DSP_CQ_HEAD r].foldl (fun s o => setRegWord s o 0) s
  { s with items := { s.items with wraps := del s.items.wraps r } }

/-- A write of DSP_RING_CFG (R387, R392). -/
def writeRingCfg (s : State) (r : Nat) (v : Word) : State :=
  let off := Reg.DSP_RING_CFG r
  let on := ringOn s r
  if on && (decide (fld v 0 5 ≠ regFld s off 0 5) || decide (fld v 8 5 ≠ regFld s off 8 5)) then ptrErr s r
  else
    let s := storeReg s off v
    if !on && ringOn s r then enableRing s r
    else if on && !ringOn s r && s.items.held.any (fun h => decide (h.ring.val = r)) then setRegBit s (Reg.DSP_RING_STAT r) 1
    else s

/-- RING_CFG_WRITE. -/
def execRingCfgWrite (ring : Fin 64) (v : Word) (s : State) : Out :=
  .next (whenLive s (Reg.DSP_RING_CFG ring) (fun s => writeRingCfg s ring v))

/-- The base register of a ring pair. -/
def ringBaseOff (r : Nat) : RingBase → Nat
  | .sqLo => Reg.DSP_SQ_BASE_LO r
  | .sqHi => Reg.DSP_SQ_BASE_HI r
  | .cqLo => Reg.DSP_CQ_BASE_LO r
  | .cqHi => Reg.DSP_CQ_BASE_HI r

/-- A write of a ring base register (R392): discarded while the pair is enabled. -/
def writeRingBase (s : State) (r : Nat) (which : RingBase) (v : Word) : State :=
  if ringOn s r then ptrErr s r else storeReg s (ringBaseOff r which) v

/-- RING_BASE_WRITE. -/
def execRingBaseWrite (ring : Fin 64) (which : RingBase) (v : Word) (s : State) : Out :=
  .next (whenLive s (ringBaseOff ring which) (fun s => writeRingBase s ring which v))

end Sys2Proof.Machine
end

