-- ==== Sys2Proof/Machine/Security.lean ====
section
/-! DEFINITION. Flash commands, measurements, attestation, the relay, and unlock and fuse tokens (R538, R544, R547 to R558,
R562 to R565). -/

namespace Sys2Proof.Machine

/-- The bytes of n words of registers from an offset, lowest first (R564). -/
def regBytes (s : State) (off n : Nat) : List Byte := (List.range n).flatMap (fun i => toBytes 4 (regWord s (off + 4 * i)).toNat)

/-- Fill n words of registers from an offset with bytes (R564). -/
def setRegBytes (s : State) (off n : Nat) (bs : List Byte) : State :=
  (List.range n).foldl (fun s i => setRegWord s (off + 4 * i) (BitVec.ofNat 32 (ofBytes ((bs.drop (4 * i)).take 4)))) s

/-- SHAKE256 with a 64-byte output (R544, R548). -/
def digest (x : List Byte) : List Byte := tab 64 (fun i => (Config.shake256 x).getD i 0)

/-- Measurement register Mm (R548, R564). -/
def measurement (s : State) (m : Nat) : List Byte := regBytes s (Reg.SEC_MEAS m 0) 16

/-- Extend Mm by an object (R548). DESIGN CHOICE, log 60. -/
def extend (s : State) (m : Nat) (x : List Byte) : State :=
  setRegBytes s (Reg.SEC_MEAS m 0) 16 (digest (measurement s m ++ digest x))

/-- Bytes of flash (R537). -/
def flashBytes (s : State) (off n : Nat) : List Byte := tab n (fun i => lookD s.boot.flash (off + i) 0xFF#8)

/-- Put bytes into flash. -/
def setFlash (f : Tbl Byte) (off : Nat) : List Byte → Tbl Byte
  | [] => f
  | b :: t => setFlash (putD 0xFF#8 f off b) (off + 1) t

/-- The image slot used by the current start (R538). DEDUCED, log 55. -/
def slotInUse (s : State) : Option Nat := s.boot.image.map (fun i => i.slot.val)

/-- The host may write the sector: it is of an image slot not in use, or, for an erase, of the saved-training area (R538). DEDUCED, log 55. -/
def flashAllowed (s : State) (sector : Nat) (erase : Bool) : Bool :=
  if sector < 0x4000000 then decide (slotInUse s ≠ some (sector / 0x2000000))
  else erase && decide (sector < 0x4400000)

/-- A flash command (R538, R562). -/
def flashCommand (s : State) (erase : Bool) : State :=
  let sector := regFld s Reg.BOOT_FL_OFF 12 15 * 4096
  if s.boot.flashOp.isSome || !flashAllowed s sector erase then setRegBit s Reg.BOOT_FL_STAT 1
  else
    let data := if erase then none else some (regBytes s (Reg.BOOT_FL_BUF 0) 1024)
    setRegBit { s with boot := { s.boot with flashOp := some ⟨sector, data⟩ } } Reg.BOOT_FL_STAT 0

/-- A write of BOOT_FL_CMD: PROG, then ERASE (R562). DEDUCED, log 52. -/
def writeFlCmd (s : State) (v : Word) : State :=
  let s := if bit v 0 then flashCommand s false else s
  if bit v 1 then flashCommand s true else s

/-- A sector of 4 KiB whose contents the spec leaves open (DESIGN CHOICE, log 30). -/
def openSector (s : State) : List Byte × State :=
  (tab 4096 (fun i => Config.freeByte (s.fresh + i)), { s with fresh := s.fresh + 4096 })

/-- Any erase of the saved-training area makes the next start train fully (R538). DEDUCED, log 55. -/
def dropTraining (s : State) (sector : Nat) : State :=
  if 0x4000000 ≤ sector then { s with boot := { s.boot with savedNear := [], savedFab := [] } } else s

/-- A flash operation ends: the sector holds the buffer or is erased; after a failure ERR is set and the sector's contents are
open (R562, log 30). -/
def endFlashOp (s : State) (op : FlashOp) (ok : Bool) : State :=
  let s := clrRegBit { s with boot := { s.boot with flashOp := none } } Reg.BOOT_FL_STAT 0
  let s := if op.data.isNone then dropTraining s op.sector else s
  let s := { s with boot := { s.boot with cut := s.boot.cut.filter (fun x => decide (x ≠ op.sector)) } }
  if ok then
    let bs := op.data.getD (List.replicate 4096 0xFF#8)
    { s with boot := { s.boot with flash := setFlash s.boot.flash op.sector bs } }
  else
    let (bs, s) := openSector s
    setRegBit { s with boot := { s.boot with flash := setFlash s.boot.flash op.sector bs } } Reg.BOOT_FL_STAT 2

/-- PROG. DEDUCED, log 14. -/
def execProg (v : Word) (s : State) : Out := .next (whenLive s Reg.BOOT_FL_CMD (fun s => writeFlCmd s (v ||| 1#32)))

/-- ERASE. -/
def execErase (v : Word) (s : State) : Out := .next (whenLive s Reg.BOOT_FL_CMD (fun s => writeFlCmd s (v ||| 2#32)))

/-- FLASH_OP_COMPLETE. -/
def execFlashOpComplete (ok : Bool) (s : State) : Out :=
  .next (match s.boot.flashOp with
    | some op => endFlashOp s op ok
    | none => s)

/-- Parts of a signature block (R544): the root public key. -/
def sigRoot (b : List Byte) : List Byte := b.take 1952
/-- The key certificate. -/
def sigCert (b : List Byte) : List Byte := (b.drop 2048).take 5376
/-- The signature of the signed bytes. -/
def sigSig (b : List Byte) : List Byte := (b.drop 7424).take 3309
/-- SLOT of a certificate. -/
def certSlot (c : List Byte) : Nat := nfld (c.getD 0 0).toNat 0 2
/-- CAPS of a certificate, by bit. -/
def certCap (c : List Byte) (i : Nat) : Bool := bit (c.getD 1 0) i
/-- The certified public key. -/
def certKey (c : List Byte) : List Byte := (c.drop 64).take 1952
/-- The bytes that the root key signs. -/
def certBody (c : List Byte) : List Byte := c.take 2016
/-- The root key's signature. -/
def certSig (c : List Byte) : List Byte := (c.drop 2016).take 3309

/-- The root key is the fused one, and it signed the certificate (R545, R556). -/
def rootHolds (s : State) (b : List Byte) : Bool :=
  decide (digest (sigRoot b) = s.boot.rootHash)
    && Config.mlDsaVerify (sigRoot b) (digest (certBody (sigCert b))) (certSig (sigCert b))

/-- A key slot is revoked (R547, R563). -/
def slotRevoked (s : State) (k : Nat) : Bool := regBit s Reg.SEC_STAT (8 + k)

/-- The signature block's signature of a message holds (R544). -/
def sigHolds (b msg : List Byte) : Bool := Config.mlDsaVerify (certKey (sigCert b)) (digest msg) (sigSig b)

/-- The fused minimum SVN (R547, R563). -/
def minSvn (s : State) : Nat := regFld s Reg.SEC_STAT 12 7

/-- KIND, SLOT and SVN of a token's header (R555). -/
def tokKind (b : List Byte) : Nat := (b.getD 4 0).toNat
/-- SLOT of a token. -/
def tokSlot (b : List Byte) : Nat := (b.getD 5 0).toNat
/-- SVN of a token. -/
def tokSvn (b : List Byte) : Nat := (b.getD 6 0).toNat

/-- A token's header is well formed (R555). DEDUCED, log 54. -/
def tokHeader (b : List Byte) : Bool :=
  let k := tokKind b
  decide (ofBytes (b.take 4) = 0x4B545A47) && (decide (1 ≤ k ∧ k ≤ 4) || decide (k = 8)) && decide (b.getD 7 0 = 0#8)
    && decide ((b.drop 48).take 16 = List.replicate 16 0#8) && (!decide (k = 4) || decide (tokSlot b < 4))

/-- The token asks for DEBUG or FAULT_INJ. -/
def tokUnlock (b : List Byte) : Bool := decide (tokKind b < 4)

/-- The token is refused (R556, result 7). DEDUCED, log 53. DEDUCED, log 54. -/
def tokRefused (s : State) (b : List Byte) : Bool :=
  let flags := (s.boot.image.map (·.flags)).getD 0
  let svn := (s.boot.image.map (·.svn)).getD 0
  if tokUnlock b then bit flags 2
  else if tokKind b = 4 then decide (regFld s Reg.SEC_STAT 8 4 ||| 2 ^ tokSlot b = 15)
  else decide (tokSvn b ≤ minSvn s) || decide (svn < tokSvn b)

/-- The result of checking a token (R556). -/
def tokenResult (s : State) (t : TokenCheck) : Nat :=
  let b := t.bytes
  let sig := b.drop 64
  if !tokHeader b then 1
  else if !rootHolds s sig then 2
  else if slotRevoked s (certSlot (sigCert sig)) || !certCap (sigCert sig) (if tokUnlock b then 1 else 2) then 3
  else if ofBytes ((b.drop 8).take 8) ≠ (ownSerial s).toNat then 4
  else if t.nonce ≠ some ((b.drop 16).take 32) then 5
  else if !sigHolds sig (b.take 64) then 6
  else if tokRefused s b then 7
  else 0

/-- Set thermometer bits until n are set (R547, R557). -/
def thermometer (n : Nat) : BitVec 64 := BitVec.ofNat 64 (2 ^ min n 64 - 1)

/-- What an accepted token does (R557). -/
def takeToken (s : State) (b : List Byte) : State :=
  let s := if bit (b.getD 4 0) 0 then setRegBit s Reg.SEC_STAT 0 else s
  let s := if bit (b.getD 4 0) 1 then setRegBit s Reg.SEC_STAT 1 else s
  let s := if bit (b.getD 4 0) 2 then setRegBit s Reg.SEC_STAT (8 + tokSlot b) else s
  if bit (b.getD 4 0) 3 then
    setRegFld { s with boot := { s.boot with svnFuse := s.boot.svnFuse ||| thermometer (tokSvn b) } } Reg.SEC_STAT 12 7 (tokSvn b)
  else s

/-- Form a nonce of 32 fresh bytes (R554). -/
def formNonce (s : State) : State :=
  let bs := Config.entropy s.fresh
  let s := setRegBytes { s with fresh := s.fresh + 1 } (Reg.SEC_NONCE 0) 8 (tab 32 (fun i => bs.getD i 0))
  setRegBit s Reg.SEC_STAT 2

/-- NONCE: while a token is checked the nonce is formed afterwards (R554, R558). -/
def writeNonce (s : State) : State :=
  if s.boot.token.isSome then { s with boot := { s.boot with nonceDue := true } } else formNonce s

/-- SUBMIT: the token goes under check and the nonce is consumed; while one is checked, result 8 (R554, R556, R558). -/
def submitToken (s : State) : State :=
  match s.boot.token with
  | some _ => setRegFld (clrRegBit s Reg.SEC_STAT 2) Reg.SEC_STAT 4 4 8
  | none =>
    let nonce := if regBit s Reg.SEC_STAT 2 then some (regBytes s (Reg.SEC_NONCE 0) 8) else none
    let t : TokenCheck := ⟨(regBytes s (Reg.SEC_TOKEN 0) 2700).take 10797, nonce⟩
    clrRegBit { s with boot := { s.boot with token := some t } } Reg.SEC_STAT 2

/-- The check of a token ends: its result, a security event, and what an accepted token does (R540, R556, R557). -/
def endToken (s : State) (t : TokenCheck) : State :=
  let r := tokenResult s t
  let s := setRegFld { s with boot := { s.boot with token := none } } Reg.SEC_STAT 4 4 r
  let s := logEvent s 8 r []
  let s := if r = 0 then takeToken (extend s 5 (t.bytes.take 64)) t.bytes else s
  if s.boot.nonceDue then formNonce { s with boot := { s.boot with nonceDue := false } } else s

/-- A write of SEC_CMD: SUBMIT against the nonce as it stands, then NONCE, EXTEND6 and EXTEND7 (R563). DEDUCED, log 52. -/
def writeSecCmd (s : State) (v : Word) : State :=
  let s := if bit v 1 then submitToken s else s
  let s := if bit v 0 then writeNonce s else s
  let s := if bit v 2 then extend s 6 (regBytes s (Reg.SEC_XDATA 0) 16) else s
  if bit v 3 then extend s 7 (regBytes s (Reg.SEC_XDATA 0) 16) else s

/-- NONCE. DEDUCED, log 14. -/
def execNonce (v : Word) (s : State) : Out := .next (whenLive s Reg.SEC_CMD (fun s => writeSecCmd s (v ||| 1#32)))

/-- TOKEN_SUBMIT. -/
def execTokenSubmit (v : Word) (s : State) : Out := .next (whenLive s Reg.SEC_CMD (fun s => writeSecCmd s (v ||| 2#32)))

/-- EXTEND6. -/
def execExtend6 (v : Word) (s : State) : Out := .next (whenLive s Reg.SEC_CMD (fun s => writeSecCmd s (v ||| 4#32)))

/-- EXTEND7. -/
def execExtend7 (v : Word) (s : State) : Out := .next (whenLive s Reg.SEC_CMD (fun s => writeSecCmd s (v ||| 8#32)))

/-- TOKEN_CHECK_COMPLETE. -/
def execTokenCheckComplete (s : State) : Out :=
  .next (match s.boot.token with
    | some t => endToken s t
    | none => s)

/-- SEC_RELAY_STAT.STATE (R565). -/
def relayState (s : State) : Nat := regFld s Reg.SEC_RELAY_STAT 0 2

/-- SEND: the request goes out as a routed CONTROL packet (R553). -/
def relaySend (s : State) : State :=
  if relayState s = 1 then s
  else
    let dst : BitVec 16 := (regWord s Reg.SEC_RELAY_DST).extractLsb' 0 16
    let body := (regBytes s (Reg.SEC_RELAY_BUF 0) 1024).take (regFld s Reg.SEC_RELAY_DST 16 13)
    let n := s.fab.pseq
    let s := { s with fab := { s.fab with pseq := (n + 1) % 65536 }, boot := { s.boot with relay := some dst } }
    setRegFld (emit s (.spdmRequest dst (BitVec.ofNat 16 n) body)) Reg.SEC_RELAY_STAT 0 2 1

/-- A write of SEC_RELAY_CMD. -/
def writeRelayCmd (s : State) (v : Word) : State := if bit v 0 then relaySend s else s

/-- RELAY_SEND. -/
def execRelaySend (v : Word) (s : State) : Out := .next (whenLive s Reg.SEC_RELAY_CMD (fun s => writeRelayCmd s (v ||| 1#32)))

/-- The first response from the device asked fills the buffer (R553). -/
def relayResponse (s : State) (body : List Byte) : State :=
  let bs := body.take 4096
  let s := setRegBytes { s with boot := { s.boot with relay := none } } (Reg.SEC_RELAY_BUF 0) 1024
    (bs ++ (regBytes s (Reg.SEC_RELAY_BUF 0) 1024).drop bs.length)
  setRegFld (setRegFld s Reg.SEC_RELAY_STAT 4 13 bs.length) Reg.SEC_RELAY_STAT 0 2 2

/-- SPDM_RESPONSE: taken while the relay waits for this device. DEDUCED, log 57. -/
def execSpdmResponse (src : BitVec 16) (body : List Byte) (s : State) : Out :=
  .next (if relayState s = 1 ∧ s.boot.relay = some src then relayResponse s body else s)

/-- RELAY_TIMEOUT: no response within 10 ms. -/
def execRelayTimeout (s : State) : Out :=
  .next (if relayState s = 1 then setRegFld { s with boot := { s.boot with relay := none } } Reg.SEC_RELAY_STAT 0 2 3 else s)

/-- A request can arrive by this transport: by DOE once the endpoint answers configuration requests on a trained link, by
fabric once the fabric block is live (R528, R529, R552). -/
def spdmOpen (s : State) : SpdmPath → Bool
  | .doe => decide (2 ≤ s.boot.done) && decide (regFld s Reg.GLB_HSTAT 0 3 ≠ 0)
  | .fabric _ => decide (12 ≤ s.boot.begun) && s.pins.coreUp

/-- Answer an SPDM request on the transport it came by (R551, R552). DEDUCED, log 56. -/
def answerSpdm (s : State) (via : SpdmPath) (f : State → SpdmAnswer × State) : State :=
  if spdmOpen s via then
    let (a, s) := f s
    emit s (.spdm via a)
  else s

/-- The signature of a response, by the module's own key (R544, R550, log 29). -/
def spdmSign (s : State) (nonce ms : List Byte) : List Byte × State :=
  (Config.mlDsaSign s.boot.secret (digest (Config.spdmTranscript s.fresh nonce ms)), { s with fresh := s.fresh + 1 })

/-- The answer to CHALLENGE: only of the provisioned key, slot 0xFF (R551). DEDUCED, log 56. -/
def challengeAnswer (slot : Byte) (nonce : List Byte) (s : State) : SpdmAnswer × State :=
  if slot = 0xFF#8 then
    let (sig, s) := spdmSign s nonce ((List.range 8).flatMap (measurement s))
    (.challengeAuth nonce sig, s)
  else (.unsupportedRequest 0x83#8, s)

/-- The measurement registers that an index names (R551). -/
def measIndexes (index : Byte) : List Nat :=
  if index = 0xFF#8 then [1, 2, 3, 4, 5, 6, 7, 8] else if 1 ≤ index.toNat ∧ index.toNat ≤ 8 then [index.toNat] else []

/-- The answer to GET_MEASUREMENTS (R551). DEDUCED, log 56. -/
def measurementsAnswer (index : Byte) (signed : Bool) (nonce : List Byte) (s : State) : SpdmAnswer × State :=
  let ms := (measIndexes index).map (fun i => (i, measurement s (i - 1)))
  if ms.isEmpty then (.unsupportedRequest 0xE0#8, s)
  else if signed then
    let (sig, s) := spdmSign s nonce (ms.flatMap (·.2))
    (.measurements ms nonce (some sig), s)
  else (.measurements ms nonce none, s)

/-- GET_VERSION: SPDM 1.4. -/
def execGetVersion (via : SpdmPath) (s : State) : Out := .next (answerSpdm s via (fun s => (.version 1 4, s)))

/-- GET_CAPABILITIES. -/
def execGetCapabilities (via : SpdmPath) (s : State) : Out :=
  .next (answerSpdm s via (fun s => (.capabilities true true true, s)))

/-- NEGOTIATE_ALGORITHMS. -/
def execNegotiateAlgorithms (via : SpdmPath) (s : State) : Out :=
  .next (answerSpdm s via (fun s => (.algorithms true true, s)))

/-- CHALLENGE. -/
def execChallenge (via : SpdmPath) (slot : Byte) (nonce : List Byte) (s : State) : Out :=
  .next (answerSpdm s via (challengeAnswer slot nonce))

/-- GET_MEASUREMENTS. -/
def execGetMeasurements (via : SpdmPath) (index : Byte) (signed : Bool) (nonce : List Byte) (s : State) : Out :=
  .next (answerSpdm s via (measurementsAnswer index signed nonce))

/-- SPDM_UNSUPPORTED_REQUEST. -/
def execSpdmUnsupportedRequest (via : SpdmPath) (code : Byte) (s : State) : Out :=
  .next (answerSpdm s via (fun s => (.unsupportedRequest code, s)))

end Sys2Proof.Machine
end

