-- ==== Sys2Proof/Machine/Thermal.lean ====
section
/-! DEFINITION. Thermal sensing and protection (chapter 14). Temperatures are in 1/16 degree. -/

namespace Sys2Proof.Machine

/-- A signed 16-bit field. -/
def tempFld (x : Int) : Nat := wrapInt 16 x

/-- The sensor has failed (R507, R523). -/
def sensorFailed (s : State) (n : Nat) : Bool := regBit s (Reg.THM_SENS n) 16

/-- The latest reading of a sensor that works (R507). -/
def sensorTemp (s : State) (n : Nat) : Option Int :=
  if sensorFailed s n then none else some (sext 16 (regFld s (Reg.THM_SENS n) 0 16))

/-- The highest of the readings that exist. -/
def hottest (l : List (Option Int)) : Option Int :=
  l.foldl (fun b x => match b, x with
    | some a, some c => some (max a c)
    | some a, none => some a
    | none, c => c) none

/-- Take one sensor's conversion (R506, R507): it fails when none is done in three periods, or outside −20 to 150 degrees. -/
def takeReading (s : State) (n : Nat) (r : Option Int) : State :=
  if sensorFailed s n then s
  else
    let fail (s : State) : State := raiseThm (setRegBit s (Reg.THM_SENS n) 16) 5
    match r with
    | none =>
      let k := lookD s.thermal.notDone n 0 + 1
      let s := { s with thermal := { s.thermal with notDone := put s.thermal.notDone n k } }
      if 3 ≤ k then fail s else s
    | some t =>
      let s := { s with thermal := { s.thermal with notDone := del s.thermal.notDone n } }
      if t < -320 ∨ 2400 < t then fail s else setRegFld s (Reg.THM_SENS n) 0 16 (tempFld t)

/-- The temperature of a region by its own sensors (R507). -/
def regionOwn (s : State) (p : Nat) : Option Int := hottest ((List.range 4).map (fun i => sensorTemp s (4 * p + i)))

/-- Set the temperature of a region (R507, R524): where no sensor of its works, the highest of its neighbours' plus 5 degrees;
where none of theirs works either the value is open. DESIGN CHOICE, log 39. -/
def setRegionTemp (s : State) (p : Nat) : State :=
  let off := Reg.THM_REGION p
  let store (s : State) (t : Int) (nosens : Nat) : State := setRegFld (setRegFld s off 8 16 (tempFld t)) off 24 1 nosens
  match regionOwn s p with
  | some t => store s t 0
  | none =>
    match hottest (((List.range 50).filter (neighbours p)).map (regionOwn s)) with
    | some t => store s (t + 80) 1
    | none =>
      let (w, s) := freeWord s
      store s (sext 16 w.toNat) 1

/-- The temperature of a region. -/
def regionTemp (s : State) (p : Nat) : Int := sext 16 (regFld s (Reg.THM_REGION p) 8 16)

/-- The Darrax sensors over a slice's footprint, and its thermal resistance (R516, log 28). -/
def sensorsAbove (s : State) (z : Nat) : List Nat := lookD s.thermal.above z ((List.range 4).map (fun i => 4 * (z * 50 / 64) + i))

/-- MODEL (R516). DESIGN CHOICE, log 28. -/
def modelEst (s : State) (z mw : Nat) : Option Int :=
  (hottest ((sensorsAbove s z).map (sensorTemp s))).map (fun t => t + (lookD s.thermal.rth z 24 * mw / 1000 : Nat))

/-- Form the estimates of a zone, and the one that is used (R516, R524). -/
def setZone (s : State) (z mw : Nat) (leak : Int) : State :=
  let own := hottest [sensorTemp s (256 + 2 * z), sensorTemp s (257 + 2 * z)]
  let model := modelEst s z mw
  let av := (own.toList ++ model.toList ++ [leak])
  let hi := av.foldl max leak
  let lo := av.foldl min leak
  let apart := decide ((regFld s Reg.THM_CFG 14 5 * 16 : Nat) < hi - lo)
  let used := if apart then hi else own.getD hi
  let num (x : Option Int) : Nat := (x.map tempFld).getD 0x8000
  let s := setRegWord s (Reg.THM_RZ_EST0 z) (BitVec.ofNat 32 (num own + num model * 2 ^ 16))
  let s := setRegWord s (Reg.THM_RZ_EST1 z) (BitVec.ofNat 32 (tempFld leak + tempFld used * 2 ^ 16))
  if apart then logEvent (raiseThm s 4) 4 1 [BitVec.ofNat 32 z] else s

/-- The estimate used for a zone. -/
def zoneTemp (s : State) (z : Nat) : Int := sext 16 (regFld s (Reg.THM_RZ_EST1 z) 16 16)

/-- Readings of sensors 200 to 255 that work, with their numbers. -/
def outerTemps (s : State) : List (Nat × Int) :=
  ((List.range 56).map (fun i => 200 + i)).filterMap (fun n => (sensorTemp s n).map (fun t => (n, t)))

/-- Temperatures that are compared with Darrax limits, with the sensor index that a record names (R508, R522). -/
def dxTemps (s : State) : List (Nat × Int) :=
  (List.range 50).map (fun p =>
    let t := regionTemp s p
    (((List.range 4).find? (fun i => decide (sensorTemp s (4 * p + i) = some t))).getD 0 + 4 * p, t)) ++ outerTemps s

/-- Temperatures that are compared with Rilaz limits. -/
def rzTemps (s : State) : List (Nat × Int) := (List.range 64).map (fun z => (384 + z, zoneTemp s z))

/-- A limit in whole degrees, in 1/16 degree. -/
def limit (s : State) (off lo : Nat) : Int := (regFld s off lo 8 * 16 : Nat)

/-- HYST (R518). -/
def hyst (s : State) : Int := (regFld s Reg.THM_CFG 10 4 * 16 : Nat)

/-- The AUTO flag of the image in use (R514, R541). -/
def imageAuto (s : State) : Bool := match s.boot.image with
  | some i => i.flags.getLsbD 1
  | none => false

/-- A trip (R513 to R515): the record, then the device fault, and the rails drop. DESIGN CHOICE, log 42. DEDUCED, log 43. -/
def trip (s : State) (src : Nat) (t : Int) : State :=
  let row := s.thermal.row + 1
  let auto := imageAuto s
  let (up, s) := freeWord s
  let w := BitVec.ofNat 32 (tempFld t + src * 2 ^ 16 + min 7 row * 2 ^ 25 + b2n auto * 2 ^ 28)
  let s := setRegWord (setRegWord s Reg.THM_TRIP0 w) Reg.THM_TRIP1 up
  let s := logEvent s 5 0 [BitVec.ofNat 32 src, BitVec.ofNat 32 (tempFld t), BitVec.ofNat 32 row, up, BitVec.ofNat 32 (b2n auto)]
  let during := decide (bootState s ≠ bsReady)
  let s := deviceFault s 5
  let s := { s with boot := { s.boot with afterTrip := s.boot.afterTrip || during } }
  { s with thermal := { s.thermal with row := row, tripped := true, autoDue := auto && decide (row ≤ 3) } }

/-- Warn (R509): the cause, and one entry until the die has cooled. -/
def warnDie (s : State) (rz : Bool) (temps : List (Nat × Int)) : State :=
  let w := limit s (if rz then Reg.THM_LIM_RZ else Reg.THM_LIM_DX) 0
  let was := if rz then s.thermal.warnRz else s.thermal.warnDx
  let set (s : State) (b : Bool) : State :=
    { s with thermal := if rz then { s.thermal with warnRz := b } else { s.thermal with warnDx := b } }
  if temps.any (fun x => decide (w ≤ x.2)) then
    let s := raiseThm s (b2n rz)
    if was then s else set (logEvent s 4 0 [BitVec.ofNat 32 (b2n rz)]) true
  else if temps.all (fun x => decide (x.2 < w - hyst s)) then set s false
  else s

/-- A level that rises or falls by one. -/
def nextLevel (n most : Nat) (up down : Bool) : Nat := if up then min most (n + 1) else if down then n - 1 else n

/-- The pause level of a region (R510). -/
def pauseRegion (s : State) (others : List Int × List Int) (p : Nat) : State :=
  let dx := limit s Reg.THM_LIM_DX 8
  let rz := limit s Reg.THM_LIM_RZ 8
  let own := regionTemp s p :: others.1
  let above := own.any (fun t => decide (dx ≤ t)) || others.2.any (fun t => decide (rz ≤ t))
  let clear := own.all (fun t => decide (t < dx - hyst s)) && others.2.all (fun t => decide (t < rz - hyst s))
  let n := regFld s (Reg.THM_REGION p) 0 4
  let m := nextLevel n 15 above clear
  let s := movePause s p (fun s => setRegFld s (Reg.THM_REGION p) 0 4 m)
  if n = 0 ∧ m ≠ 0 then raiseThm s 2 else s

/-- The rise of a sensor over the window (R512): none where either reading is missing. -/
def riseOf (s : State) (n : Nat) : Option Int :=
  let win := regFld s Reg.THM_CFG 7 3 + 1
  match sensorTemp s n, (s.thermal.history[50 * win - 1]?).bind (fun l => (l[n]?).join) with
  | some a, some b => some (a - b)
  | _, _ => none

/-- The limit of a rise over the window, in 1/160 degree (R512). -/
def riseLimit (s : State) : Int := (16 * regFld s Reg.THM_CFG 0 7 * (regFld s Reg.THM_CFG 7 3 + 1) : Nat)

/-- The sensor rises too fast (R512). -/
def tooFast (s : State) (n : Nat) : Bool :=
  match sensorTemp s n, riseOf s n with
  | some t, some d => decide ((regFld s Reg.THM_CFG 19 7 * 16 : Nat) ≤ t) && decide (riseLimit s < 10 * d)
  | _, _ => false

/-- The sensor rises by more than two thirds of the limit (R512). -/
def stillRises (s : State) (n : Nat) : Bool :=
  match riseOf s n with
  | some d => decide (2 * riseLimit s < 30 * d)
  | none => false

/-- The skip level of a region (R512): shared are the verdicts of every sensor outside the regions. -/
def skipRegion (s : State) (shared : Bool × Bool) (p : Nat) : State :=
  let own := (List.range 4).map (fun i => 4 * p + i)
  let n := regFld s (Reg.THM_REGION p) 4 4
  let m := nextLevel n 8 (shared.1 || own.any (tooFast s)) (!(shared.2 || own.any (stillRises s)))
  let s := setRegFld s (Reg.THM_REGION p) 4 4 m
  if n = 0 ∧ m ≠ 0 then raiseThm s 3 else s

/-- THM_STATUS shows the sample (R520). -/
def showThermal (s : State) : State :=
  let hot := (hottest (((dxTemps s) ++ (rzTemps s)).map (fun x => some x.2))).getD 0
  let mx (lo : Nat) : Nat := maxNat ((List.range 50).map (fun p => regFld s (Reg.THM_REGION p) lo 4))
  let failed := ((List.range 384).filter (sensorFailed s)).length
  let s := setRegFld s Reg.THM_STATUS 0 16 (tempFld hot)
  setRegFld (setRegFld (setRegFld s Reg.THM_STATUS 17 4 (mx 0)) Reg.THM_STATUS 21 4 (mx 4)) Reg.THM_STATUS 25 6 (min 63 failed)

/-- The temperature that trips, the Darrax ones first (R513). -/
def tripBy (s : State) : Option (Nat × Int) :=
  ((dxTemps s).find? (fun x => decide (limit s Reg.THM_LIM_DX 16 ≤ x.2))).or
    ((rzTemps s).find? (fun x => decide (limit s Reg.THM_LIM_RZ 16 ≤ x.2)))

/-- The readings of a sample join the history, of which 400 samples are kept (R512). -/
def noteHistory (s : State) : State :=
  let now := (List.range 384).map (sensorTemp s)
  { s with thermal := { s.thermal with history := (now :: s.thermal.history).take 400 } }

/-- What a sample without a trip does (R509 to R512): warn, pause and skip. -/
def sampleOn (s : State) : State :=
  let s := warnDie (warnDie s false (dxTemps s)) true (rzTemps s)
  let others := ((outerTemps s).map (·.2), (rzTemps s).map (·.2))
  let s := (List.range 50).foldl (fun s p => pauseRegion s others p) s
  let outer := (List.range 184).map (fun i => 200 + i)
  let shared := (outer.any (tooFast s), outer.any (stillRises s))
  let s := (List.range 50).foldl (fun s p => skipRegion s shared p) s
  showThermal (noteHistory s)

/-- Take the readings of a sample, and show the temperatures of regions and zones (R506, R507, R516). -/
def takeSample (s : State) (r : ThermalReadings) : State :=
  let s := (List.range 384).foldl (fun s n => takeReading s n ((r.sensors[n]?).join)) s
  let s := (List.range 50).foldl setRegionTemp s
  (List.range 64).foldl (fun s z => setZone s z (r.slicePower.getD z 0) (r.leak.getD z 0)) s

/-- The decisions of a sample (R506, R508 to R514): the trip, or warn, pause and skip. -/
def decideSample (s : State) : State :=
  match tripBy s with
  | some (src, t) => trip (showThermal (noteHistory s)) src t
  | none => sampleOn s

/-- One sample (R506 to R516): the readings and the temperatures, then the decisions. -/
def thermalSample (s : State) (r : ThermalReadings) : State := decideSample (takeSample s r)

/-- THERMAL_SAMPLE. -/
def execThermalSample (r : ThermalReadings) (s : State) : Out := .next (if s.pins.coreUp then thermalSample s r else s)

/-- Thermal hold ends (R515, R540): the hold-cleared record, and a start that waits in hold goes on. -/
def releaseHold (s : State) : State :=
  let s := logEvent (clrRegBit s Reg.THM_STATUS 16) 6 0 []
  if bootState s = bsHold then settleStep s 1 2 else s

/-- AUTO_RESTART (R515): 60 s after an AUTO trip the MGC begins a cold start, or a start in hold leaves it. -/
def execAutoRestart (s : State) : Out :=
  .next (
    if s.thermal.autoDue then
      let s := releaseHold { s with thermal := { s.thermal with autoDue := false } }
      if s.pins.coreUp || s.pins.startDue then s
      else { s with pins := { s.pins with startDue := true }, boot := { s.boot with afterTrip := true } }
    else s)

/-- TRIP_COUNT_RESET (R514): 600 s at READY without a trip. -/
def execTripCountReset (s : State) : Out :=
  .next (if bootState s = bsReady then { s with thermal := { s.thermal with row := 0 } } else s)

/-- A write of THM_CMD (R514, R515, R517, R520). -/
def writeThmCmd (s : State) (v : Word) : State :=
  if bit v 0 && regBit s Reg.THM_STATUS 16 then
    releaseHold { s with thermal := { s.thermal with row := 0, autoDue := false } }
  else s

/-- CLEAR_HOLD. -/
def execClearHold (v : Word) (s : State) : Out := .next (whenLive s Reg.THM_CMD (fun s => writeThmCmd s (v ||| 1#32)))

end Sys2Proof.Machine
end

