-- ==== Sys2Proof/Machine/RegWrite.lean ====
section
/-! DEFINITION. Register writes (R9 to R14, R528, R529, R570, R574, R580): the register that an offset names, the effect of
writing it, and the cause vectors that the write triggers. -/

namespace Sys2Proof.Machine

/-- A vector that is pending and no longer masked is sent once (R569, R581). -/
def deliver (s : State) (v : Fin 128) : State :=
  if s.host.msixEn && s.host.bme && !s.host.fmask && !regBit s (Reg.MSIX_CTRL v) 0 && regBit s (Reg.MSIX_PBA (v.val / 32)) (v.val % 32) then
    emit (clrRegBit s (Reg.MSIX_PBA (v.val / 32)) (v.val % 32)) (.msix v)
  else s

/-- Every pending vector that is not masked is sent (R581). -/
def deliverAll (s : State) : State := (List.range 128).foldl (fun s v => deliver s (Fin.ofNat 128 v)) s

/-- A write of an array's register (R103 to R107, R142, R144). DEDUCED, log 59. -/
def writeArrayReg (s : State) (n o off : Nat) (v : Word) : State :=
  match o with
  | 0x4 => writeTaCtrl s n v
  | 0xC => writeTaQstat s n v
  | 0x14 =>
    let (f, s) := freeWord s
    writeTaStop s n v (f.toNat % 512)
  | 0x1000 => writeAccvCtrl s n v
  | 0x1008 => writeAccvSel s n v
  | _ => storeReg s off v

/-- A write of an engine's register (R182, R210, R217, R224): outside debug mode a breakpoint is discarded. -/
def writeEngineReg (s : State) (e o off : Nat) (v : Word) : State :=
  if o = 0x4 then writeTeCtrl s e v
  else if o = 0x100 then writeDbgCtrl s e v
  else if o = 0x10C then writeDbgData s e v
  else if 0x120 ≤ o ∧ o < 0x140 then (if debugMode s then storeReg s off v else s)
  else if 0xF000 ≤ o ∧ o % 0x10 = 0 then writeDringCfg s e ((o - 0xF000) / 0x10) v
  else storeReg s off v

/-- A write of a register of Rilaz or a mover (R283, R285, R298, R311). -/
def writeRilazReg (s : State) (off : Nat) (v : Word) : State :=
  let o := off - 0x3000000
  if o = 0 then writeHoldWays s v
  else if o = 8 then writeFlush s v
  else if 0x1000 ≤ o ∧ o < 0x2000 ∧ o % 0x40 = 8 then writeScOcc s ((o - 0x1000) / 0x40) v
  else if 0x8000 ≤ o ∧ o % 0x100 = 0x40 then writeMvSubmit s ((o - 0x8000) / 0x100) v
  else storeReg s off v

/-- A write of a register of the tints and dispatcher block (R314, R387, R392). -/
def writeDispReg (s : State) (off : Nat) (v : Word) : State :=
  let o := off - 0x600000
  if o < 0x80 then writeTintLim s (o / 0x10) (o % 0x10 / 4) v
  else if 0x2000 ≤ o ∧ o < 0x3000 then
    let r := (o - 0x2000) / 0x40
    match o % 0x40 with
    | 0x0 => writeRingBase s r .sqLo v
    | 0x4 => writeRingBase s r .sqHi v
    | 0x8 => writeRingBase s r .cqLo v
    | 0xC => writeRingBase s r .cqHi v
    | 0x10 => writeRingCfg s r v
    | 0x14 => writeSqTail s r v
    | 0x20 => writeCqHead s r v
    | _ => storeReg s off v
  else storeReg s off v

/-- A write of a register of the fabric blocks (R413, R434, R438 to R441): FAB_CFG is closed once JOIN has begun; a SEED of 0 is
stored as 1. -/
def writeFabReg (s : State) (off : Nat) (v : Word) : State :=
  if off = Reg.FAB_CFG then (if 13 ≤ s.boot.begun then s else storeReg s off v)
  else if off = Reg.FAB_CMD then writeFabCmd s v
  else if 0x900000 ≤ off then storeReg s off v
  else
    let q := (off - 0x800000) / 0x10000
    match off % 0x10000 with
    | 0x0 => writeFabPortCtrl s q v
    | 0x100 => writeFiCtrl s q v
    | 0x104 => storeReg s off (if v = 0 then 1 else v)
    | 0x200 => writeTraceCtrl s q v
    | _ => storeReg s off v

/-- A write of ERR_SCRUB_CTRL (R35, R130, R471): the array scrubber is refused on an array whose view holds the port. -/
def writeScrubCtrl (s : State) (v : Word) : State :=
  let was := regBit s Reg.ERR_SCRUB_CTRL 0
  let s := storeReg s Reg.ERR_SCRUB_CTRL v
  if was || !bit v 0 then s
  else (List.range 200).foldl (fun s n =>
    if viewHolds s n && scrubsArray s n then logConflict s .accReadPort n .debugView .scrubber else s) s

/-- A write of a register of the errors and repair block. -/
def writeErrReg (s : State) (off : Nat) (v : Word) : State :=
  if off = Reg.REP_CMD then writeRepCmd s v
  else if off = Reg.ERR_SCRUB_CTRL then writeScrubCtrl s v
  else storeReg s off v

/-- A write of a register below the errors and repair block: power, thermal, boot and steps, security, global, MSI-X. -/
def writeLowReg (s : State) (off : Nat) (v : Word) : State :=
  if off = Reg.PWR_CTRL then writePwrCtrl s v
  else if off = Reg.PWR_CMD then writePwrCmd s v
  else if off = Reg.THM_CMD then writeThmCmd s v
  else if off = Reg.BOOT_CMD then writeBootCmd s v
  else if off = Reg.BOOT_FL_CMD then writeFlCmd s v
  else if off = Reg.SEC_CMD then writeSecCmd s v
  else if off = Reg.SEC_RELAY_CMD then writeRelayCmd s v
  else if 0x8000 ≤ off ∧ off < 0x8800 ∧ off % 0x10 = 0xC then deliver (storeReg s off v) (Fin.ofNat 128 ((off - 0x8000) / 0x10))
  else storeReg s off v

/-- A write of a register of the far-memory engine (R345, R356). -/
def writeFarReg (s : State) (off : Nat) (v : Word) : State :=
  if off = Reg.FME_PERSIST then writePersist s v
  else if 0xE00100 ≤ off ∧ off % 0x10 = 0xC then writePortCmd s ((off - 0xE00100) / 0x10) v
  else storeReg s off v

/-- The effect of writing a defined register. -/
def writeReg (s : State) (off : Nat) (v : Word) : State :=
  if off < 0x400000 then writeLowReg s off v
  else if off < 0x600000 then writeErrReg s off v
  else if off < 0x800000 then writeDispReg s off v
  else if off < 0xC00000 then writeFabReg s off v
  else if off < 0xE00000 then storeReg s off v
  else if off < 0x1000000 then writeFarReg s off v
  else if off < 0x2000000 then writeArrayReg s ((off - 0x1000000) / 0x4000) ((off - 0x1000000) % 0x4000) off v
  else if off < 0x3000000 then writeEngineReg s ((off - 0x2000000) / 0x10000) ((off - 0x2000000) % 0x10000) off v
  else writeRilazReg s off v

/-- The W1C bits of a register. -/
def w1cMask (off : Nat) : Nat :=
  match findReg regMap off with
  | some (r, _) => (r.fields.map (fun f => if f.ty = .w1c then (2 ^ f.w - 1) * 2 ^ f.lo else 0)).foldl (· + ·) 0
  | none => 0

/-- W1C bits that hardware sets in the cycle of the write end it at 1 (R11). -/
def hardwareSets (s : State) (off : Nat) (hw : Word) : State :=
  let m := hw &&& BitVec.ofNat 32 (w1cMask off)
  if m = 0 then s else setRegWord s off (regWord s off ||| m)

/-- The GLB_CAUSE bits that a register's bits contribute to, each with the W1C bits that do (R580, R590). DEDUCED, log 59. -/
def contributes (s : State) (off : Nat) : List (Fin 8 × Nat) :=
  if off = Reg.GLB_CAUSE then [(0, 1), (6, 64)]
  else if off = Reg.ERR_CAUSE then [(1, regFld s Reg.ERR_IEN 0 8)]
  else if off = Reg.ERR_IEN then [(1, 0)]
  else if off = Reg.PWR_CAUSE then [(2, regFld s Reg.PWR_IEN 0 8)]
  else if off = Reg.PWR_IEN then [(2, 0)]
  else if off = Reg.THM_CAUSE then [(3, regFld s Reg.THM_IEN 0 8)]
  else if off = Reg.THM_IEN then [(3, 0)]
  else if off = Reg.GLB_HSTAT then [(7, 0x30000)]
  else if off = Reg.FAB_ID then [(4, 0x80000)]
  else if off = Reg.FAB_JOIN_STAT then [(4, 0x30000)]
  else if 0x800000 ≤ off ∧ off < 0x900000 ∧ off % 0x10000 = 4 then [(4, 0xF0000)]
  else if 0x3008000 ≤ off ∧ off % 0x100 = 0x44 then [(5, 0x700)]
  else []

/-- The vector of a cause after a write that took s to t (R580): on a move from 0 to 1, and again where a contributing W1C bit
was written with 1 and the cause is 1 at the end of the cycle. DEDUCED, log 59. -/
def settleWrite (v : Word) (s t : State) (c : Fin 8 × Nat) : State :=
  if causeBit t c.1 then
    if (!causeBit s c.1 || decide (v.toNat &&& c.2 ≠ 0)) && regBit t Reg.GLB_IEN c.1 then triggerVector t (causeVector c.1) else t
  else clrRegBit t (Reg.MSIX_PBA 2) c.1

/-- An aligned 32-bit write at a BAR0 offset (R9, R11, R14, R529, R580). -/
def writeAt (s : State) (off : Nat) (v hw : Word) : State :=
  if (findReg regMap off).isNone || !blockLive s off then s
  else
    let t := hardwareSets (writeReg s off v) off hw
    (contributes s off).foldl (settleWrite v s) t

/-- A register write of any width and alignment (R13): one aligned word, or a 64-bit one as two, the lower first; every other
write is discarded. DEDUCED, log 59. -/
def accessWrite (s : State) (off : Nat) (size : AccSize) (data : BitVec 64) (hw : Word) : State :=
  if off % 4 ≠ 0 then s
  else match size with
    | .b32 => writeAt s off (data.extractLsb' 0 32) hw
    | .b64 => writeAt (writeAt s off (data.extractLsb' 0 32) hw) (off + 4) (data.extractLsb' 32 32) 0
    | _ => s

end Sys2Proof.Machine
end

