-- ==== Sys2Proof/Machine/Image.lean ====
section
/-! DEFINITION. The configuration image: header, sections, parameter records and verification (R3, R529, R541 to R546). -/

namespace Sys2Proof.Machine

/-- First flash offset of an image slot (R537). -/
def slotBase (k : Nat) : Nat := 0x2000000 * k

/-- n bytes of an image slot at an offset, as a little-endian number. -/
def imgNum (s : State) (k off n : Nat) : Nat := ofBytes (flashBytes s (slotBase k + off) n)

/-- GEN of a header (R541). -/
def hdrGen (s : State) (k : Nat) : Nat := imgNum s k 0x8 2
/-- SVN. -/
def hdrSvn (s : State) (k : Nat) : Nat := imgNum s k 0xC 1
/-- FLAGS. -/
def hdrFlags (s : State) (k : Nat) : Nat := imgNum s k 0xD 1
/-- ACLK_MHZ. -/
def hdrAclk (s : State) (k : Nat) : Nat := imgNum s k 0xE 2
/-- LENGTH. -/
def hdrLength (s : State) (k : Nat) : Nat := imgNum s k 0x10 4
/-- NSECT. -/
def hdrNsect (s : State) (k : Nat) : Nat := imgNum s k 0x14 2
/-- FAR_MIN. -/
def hdrFarMin (s : State) (k : Nat) : Nat := imgNum s k 0x16 1
/-- FAB_MIN. -/
def hdrFabMin (s : State) (k : Nat) : Nat := imgNum s k 0x17 1
/-- SIGOFF. -/
def hdrSigoff (s : State) (k : Nat) : Nat := imgNum s k 0x18 4

/-- The slot holds an image by its magic, format, target and length (R541, R545). -/
def holdsImage (s : State) (k : Nat) : Bool :=
  decide (imgNum s k 0 4 = 0x4D495A47) && decide (imgNum s k 4 2 = 1) && decide (imgNum s k 6 2 = regFld s Reg.GLB_ID 0 16)
    && decide (hdrLength s k ≤ 0x2000000)

/-- The section table (R541, R542): TYPE, OFFSET, LENGTH and VERSION of each entry. -/
def sectionTable (s : State) (k : Nat) : List (Nat × Nat × Nat × Nat) :=
  (List.range (hdrNsect s k)).map (fun i =>
    let e := 0x40 + 16 * i
    (imgNum s k e 4, imgNum s k (e + 4) 4, imgNum s k (e + 8) 4, imgNum s k (e + 12) 4))

/-- The signature block (R544). -/
def imgSig (s : State) (k : Nat) : List Byte := flashBytes s (slotBase k + hdrSigoff s k) 10733

/-- The header follows R541, and ACLK_MHZ R3. -/
def headerOk (s : State) (k : Nat) : Bool :=
  let a := hdrAclk s k
  decide (imgNum s k 0xA 2 = 0) && decide (imgNum s k 0x1C 36 = 0) && decide (hdrSvn s k ≤ 64) && decide (hdrFlags s k < 8)
    && decide (1600 ≤ a) && decide (a ≤ regFld s Reg.GLB_FAM6 0 12) && decide (a % 100 = 0)
    && decide (hdrLength s k = hdrSigoff s k + 10733) && decide (hdrSigoff s k % 64 = 0)
    && decide (1 ≤ hdrNsect s k) && decide (hdrNsect s k ≤ 64) && decide (hdrFarMin s k ≤ 12) && decide (hdrFabMin s k ≤ 16)

/-- No two of these byte ranges overlap. -/
def disjointRanges : List (Nat × Nat) → Bool
  | [] => true
  | (a, n) :: t => t.all (fun (b, m) => decide (n = 0) || decide (m = 0) || decide (a + n ≤ b) || decide (b + m ≤ a)) && disjointRanges t

/-- The sections follow R542. -/
def sectionsOk (sig : Nat) (t : List (Nat × Nat × Nat × Nat)) : Bool :=
  t.all (fun (ty, off, len, _) => decide (1 ≤ ty) && decide (ty ≤ 3) && decide (off % 64 = 0) && decide (off + len ≤ sig)
      && (!decide (ty = 3) || decide (len ≤ 0x1000000)) && (!decide (ty = 2) || decide (len % 8 = 0)))
    && decide ((t.filter (fun e => decide (e.1 = 1))).length = 1) && decide ((t.filter (fun e => decide (e.1 = 3))).length = 1)
    && disjointRanges (t.map (fun (_, off, len, _) => (off, len)))

/-- The parameter records of a slot's PARAM sections, in section and record order (R543): BAR0 offset and value. -/
def paramRecords (s : State) (k : Nat) (t : List (Nat × Nat × Nat × Nat)) : List (Nat × Word) :=
  (t.filter (fun e => decide (e.1 = 2))).flatMap (fun (_, off, len, _) =>
    (List.range (len / 8)).map (fun i => (imgNum s k (off + 8 * i) 4, BitVec.ofNat 32 (imgNum s k (off + 8 * i + 4) 4))))

/-- The RW bits of a register. -/
def rwMask (r : RegRow) : Nat := (r.fields.map (fun f => if f.ty = .rw then (2 ^ f.w - 1) * 2 ^ f.lo else 0)).foldl (· + ·) 0

/-- A parameter record is allowed (R543): a defined register outside the boot and steps block with an RW field, nothing in its
other fields, and a value that the register stores as given. -/
def paramOk (s : State) (x : Nat × Word) : Bool :=
  match findReg regMap x.1 with
  | none => false
  | some (r, _) =>
    let m := rwMask r
    (decide (x.1 < 0x100000) || decide (0x200000 ≤ x.1)) && decide (m ≠ 0) && decide (x.2.toNat &&& m = x.2.toNat)
      && decide ((regWord (writeReg s x.1 x.2) x.1).toNat &&& m = x.2.toNat)

/-- Every record is allowed, each on the registers that the ones before it leave. -/
def paramsOk (s : State) : List (Nat × Word) → Bool
  | [] => true
  | x :: t => paramOk s x && paramsOk (writeReg s x.1 x.2) t

/-- Apply the records whose register p names (R529, R543). -/
def applyParams (s : State) (rs : List (Nat × Word)) (p : Nat → Bool) : State :=
  (rs.filter (fun x => p x.1)).foldl (fun s x => writeReg s x.1 x.2) s

/-- A program or erase of a sector of the slot was cut short (R558). -/
def slotCut (s : State) (k : Nat) : Bool := s.boot.cut.any (fun o => decide (o / 0x2000000 = k))

/-- The status of a slot (R545). DEDUCED, log 63. -/
def slotStatus (s : State) (k : Nat) : Nat :=
  let b := imgSig s k
  let t := sectionTable s k
  if !holdsImage s k then 6
  else if !rootHolds s b || !certCap (sigCert b) 0 then 2
  else if slotRevoked s (certSlot (sigCert b)) then 3
  else if slotCut s k || !sigHolds b (flashBytes s (slotBase k) (hdrSigoff s k)) then 2
  else if hdrSvn s k < minSvn s then 4
  else if !headerOk s k || !sectionsOk (hdrSigoff s k) t || !paramsOk s (paramRecords s k t) then 5
  else 1

/-- The preferred slot (R546): by SLOT_PREF, or by GEN among the slots that hold an image, slot A on a tie. DEDUCED, log 63. -/
def preferredSlot (s : State) : Nat :=
  match regFld s Reg.BOOT_CTRL 5 2 with
  | 1 => 0
  | 2 => 1
  | _ => if holdsImage s 1 && (!holdsImage s 0 || decide (hdrGen s 0 < hdrGen s 1)) then 1 else 0

/-- Show a slot in BOOT_IMG (R561). DEDUCED, log 63. -/
def showSlot (s : State) (k status : Nat) : State :=
  let (v, g) := if holdsImage s k then (hdrSvn s k, hdrGen s k) else (0, 0)
  setRegWord s (Reg.BOOT_IMG k) (BitVec.ofNat 32 (status + v % 128 * 2 ^ 8 + g * 2 ^ 16))

/-- The failure code of the preferred slot's status (R533, R546). -/
def statusCode (st : Nat) : Nat :=
  match st with
  | 2 => 0x22
  | 3 => 0x23
  | 4 => 0x24
  | 5 => 0x25
  | _ => 0x20

/-- The image in force, from a slot that verified. -/
def imageOf (s : State) (k : Nat) : ImageRec :=
  { slot := Fin.ofNat 2 k, flags := BitVec.ofNat 8 (hdrFlags s k), svn := hdrSvn s k, farMin := hdrFarMin s k,
    fabMin := hdrFabMin s k, aclk := hdrAclk s k, sections := sectionTable s k }

/-- The bytes of a section of the image in force. -/
def sectionBytes (s : State) (i : ImageRec) (e : Nat × Nat × Nat × Nat) : List Byte :=
  flashBytes s (slotBase i.slot + e.2.1) e.2.2.1

/-- The sections of a type. -/
def sectionsOf (i : ImageRec) (ty : Nat) : List (Nat × Nat × Nat × Nat) := i.sections.filter (fun e => decide (e.1 = ty))

/-- VERSION of the section of a type (R542). -/
def sectionVersion (i : ImageRec) (ty : Nat) : Word := BitVec.ofNat 32 (((sectionsOf i ty).head?.map (fun e => e.2.2.2)).getD 0)

/-- Extend a measurement register by every section of a type, in table order (R548). -/
def measureSections (s : State) (i : ImageRec) (m ty : Nat) : State :=
  (sectionsOf i ty).foldl (fun s e => extend s m (sectionBytes s i e)) s

/-- The records of the image in force. -/
def imageParams (s : State) : List (Nat × Word) :=
  match s.boot.image with
  | some i => paramRecords s i.slot i.sections
  | none => []

/-- A register takes its image parameter at the end of IMAGE (R529). -/
def earlyReg (off : Nat) : Bool := decide (off < 0x600000)
/-- At the start of NEAR_MEM. -/
def nearReg (off : Nat) : Bool := decide (0xC00000 ≤ off) && decide (off < 0xE00000)
/-- At the start of FAR_MEM. -/
def farReg (off : Nat) : Bool := decide (0xE00000 ≤ off) && decide (off < 0x1000000)
/-- At the start of FABRIC. -/
def fabReg (off : Nat) : Bool := decide (0x800000 ≤ off) && decide (off < 0xC00000)
/-- At LOAD. -/
def lateReg (off : Nat) : Bool := (decide (0x600000 ≤ off) && decide (off < 0x800000)) || decide (0x1000000 ≤ off)

/-- An image is taken (R531, R546, R548): it is in force, M0 to M2 are extended, GLB_MGCFW shows its firmware, and the early
parameters are applied. DESIGN CHOICE, log 67. -/
def takeImage (s : State) (k : Nat) : State :=
  let i := imageOf s k
  let s := setRegFld { s with boot := { s.boot with image := some i } } Reg.BOOT_STEP 9 1 k
  let s := measureSections s i 0 1
  let s := extend s 1 (flashBytes s (slotBase k) (0x40 + 16 * hdrNsect s k))
  let s := extend s 1 (certBody (sigCert (imgSig s k)))
  let s := measureSections s i 2 2
  let s := setRegWord s Reg.GLB_MGCFW (sectionVersion i 1)
  applyParams s (imageParams s) earlyReg

end Sys2Proof.Machine
end

