-- ==== Sys2Proof/Machine/Merge.lean ====
section
/-! DEFINITION. Merging at the REPAIR step, and what the merged repair state makes of the dies (R19, R290, R291, R454 to R461,
R481). -/

namespace Sys2Proof.Machine

/-- The order of new test failures (R459): ascending unit, macro and row. -/
def testOrder (a b : Word) : Bool :=
  let k (w : Word) : Nat := recUnit w * 2 ^ 20 + fld w 12 20
  decide (k a ≤ k b)

/-- Insert into the order of tests. -/
def insTest : List Word → Word → List Word
  | [], x => [x]
  | y :: t, x => if testOrder y x then y :: insTest t x else x :: y :: t

/-- Repairs made in service that neither fuses nor log name (R457): what is kept on VDD_STBY and is not pending. -/
def serviceRepairs (s : State) (named : List Word) : List Word :=
  s.repair.merged.filter (fun w => !named.contains w && !s.pend.any (fun p => decide (p.what = w)))

/-- The parts that fuses, the live log and service repairs mark bad, in the order of R459. -/
def knownParts (s : State) : List Word :=
  let named := s.repair.dxFuse ++ s.repair.rzFuse ++ (liveRecords s).map (·.what)
  (named ++ serviceRepairs s named).eraseDups

/-- The failures found only by a start-up test (R458), each with its spare, in the order of R459. -/
def newFailures (s : State) (known : List Word) : List Word :=
  let new := s.repair.tests.filter (fun w => !known.any (fun x => decide (partOf x = partOf w)))
  let sorted := (new.map partOf).eraseDups.foldl insTest []
  sorted.foldl (fun out w => out ++ [assignSpare (known ++ out) w]) []

/-- A macro of a unit needs more spares than it has (R459). -/
def overMacro (ps : List Word) (rilaz : Bool) (u : Nat) : Option Nat :=
  let mine := ps.filter (fun w => isMacroRec w && decide (recUnit w = u) && decide (decide (4 ≤ recKind w) = rilaz))
  (mine.find? (fun w => decide (macroSpares (recKind w) < (spareUsers ps w).length))).map recMacro

/-- Failed data wires and spare wires of a group (R456): indexes from the data wires on name spares, 16 a group. -/
def groupFailures (ps : List Word) (ch : Nat) (write : Bool) (g : Nat) : Nat × Nat :=
  let n := 512 * vcGroups ch write
  let mine := (ps.filter (fun w => decide (recKind w = 6) && decide (recUnit w = ch) && decide (bit w 26 = write))).map (fun w => fld w 12 14)
  ((mine.filter (fun i => decide (i < n) && decide (i / 512 = g))).eraseDups.length,
    (mine.filter (fun i => decide (n ≤ i) && decide ((i - n) / 16 = g))).eraseDups.length)

/-- A group lacks spares for its failed wires (R459). -/
def groupShort (ps : List Word) (ch : Nat) (write : Bool) (g : Nat) : Bool :=
  let (d, x) := groupFailures ps ch write g
  decide (16 < d + x) && decide (0 < d)

/-- The mode that a direction starts in (R290, R291, R459): 0 full, 1 lower half, 2 upper half, 3 lost. -/
def startMode (ps : List Word) (ch : Nat) (write : Bool) : Nat :=
  let n := vcGroups ch write
  let short := (List.range n).filter (groupShort ps ch write)
  let lower := short.any (fun g => decide (2 * g < n))
  let upper := short.any (fun g => decide (n ≤ 2 * g))
  if lower && upper then 3 else if lower then 2 else if upper then 1 else 0

/-- Failed VDD_LOGIC phases of a region (R456, R481). -/
def phaseMap (ps : List Word) (p : Nat) : Nat :=
  (ps.filter (fun w => decide (recKind w = 9) && decide (recUnit w = p))).foldl (fun m w => m ||| 2 ^ fld w 12 3) 0

/-- A region is bad (R457, R459, R481). -/
def regionBad (ps : List Word) (p : Nat) : Bool :=
  ps.contains (unitRecord 1 p) || (overMacro ps false p).isSome || (overMacro ps true (64 + p)).isSome
    || decide (3 ≤ popcount 8 (phaseMap ps p)) || decide (startMode ps (64 + p) false = 3) || decide (startMode ps (64 + p) true = 3)

/-- A slice is retired (R457, R459). -/
def sliceBad (ps : List Word) (i : Nat) : Bool :=
  ps.contains (unitRecord 7 i) || (overMacro ps true i).isSome || decide (startMode ps i false = 3) || decide (startMode ps i true = 3)

/-- The regions that remain, and the slices. -/
def goodRegions (ps : List Word) : List Nat := (List.range 50).filter (fun p => !regionBad ps p)

/-- The slices that remain. -/
def goodSlices (ps : List Word) : List Nat := (List.range 64).filter (fun i => !sliceBad ps i)

/-- A channel's wires as the merged state leaves them (R289, R290, R310). -/
def setChannel (ps : List Word) (s : State) (ch : Nat) : State :=
  let dirs : List (Bool × Nat) := [false, true].flatMap (fun w => (List.range (vcGroups ch w)).map (fun g => (w, g)))
  let tally := dirs.map (fun (w, g) => let (d, x) := groupFailures ps ch w g; (groupKey ch w g, min d (16 - x), min 16 (d + x)))
  let spares := (tally.filter (fun x => decide (x.2.2 ≠ 0))).foldl (fun t x => put t x.1 x.2.2) s.vc.spares
  let s := { s with vc := { s.vc with spares := spares } }
  let used := (tally.map (fun x => x.2.1)).foldl (· + ·) 0
  let full := (tally.filter (fun x => decide (x.2.2 = 16))).length
  setRegWord s (vcReg ch) (BitVec.ofNat 32 (startMode ps ch false + startMode ps ch true * 4 + used % 1024 * 2 ^ 16 + full % 64 * 2 ^ 26))

/-- A region's phases and state before staging (R481, R504). -/
def setRegionStart (ps : List Word) (s : State) (p : Nat) : State :=
  let s := setRegWord s (Reg.PWR_REGION p) (BitVec.ofNat 32 (phaseMap ps p * 2 ^ 4))
  setRegionState (numberRegion s p none) p (if regionBad ps p then rgBad else rgDark)

/-- Region p takes logical number r (R19, R473). -/
def giveNumber (s : State) (p r : Nat) : State :=
  setRegWord (numberRegion s p (some r)) (Reg.REP_REGION r) (BitVec.ofNat 32 (p + 64))

/-- Put the merged repair state in force (R19, R278, R459, R473): wires, phases, slices and logical numbers. DEDUCED, log 62. -/
def applyMerged (s : State) : State :=
  let ps := s.repair.merged
  let s := (List.range 114).foldl (setChannel ps) { s with vc := {} }
  let s := (List.range 50).foldl (setRegionStart ps) s
  let s := (List.range 48).foldl (fun s r => setRegWord s (Reg.REP_REGION r) 0) s
  let good := (goodRegions ps).take 48
  let s := (List.range good.length).foldl (fun s r => giveNumber s (good.getD r 0) r) s
  countRegions (countSpares (numberSlices s (goodSlices ps)))

/-- Enter the new failures as pending, at most 255 (R458, R472); the image flag confirms them (R458). -/
def enterFailures (s : State) (new : List Word) (auto : Bool) : State :=
  let s := { s with pend := (new.take 255).map (fun w => ⟨w, 1⟩) }
  if new.isEmpty then s
  else
    let s := raiseErr s 7
    if auto then confirmEvery s else s

/-- What makes the REPAIR step fail (R460, R533): code and detail. -/
def mergeFailure (ps : List Word) : Option (Nat × Nat) :=
  if (goodRegions ps).length < 24 then some (0x70, (goodRegions ps).length)
  else if (goodSlices ps).length < 48 then some (0x71, (goodSlices ps).length)
  else (overMacro ps false 0x80).map (fun m => (0x72, m))

/-- Merge the four sources (R457 to R459): the known parts, then the new failures. DEDUCED, log 62. -/
def mergeParts (s : State) : State × List Word :=
  let known := knownParts s
  let new := newFailures s known
  ({ s with repair := { s.repair with merged := known ++ new, tests := [] } }, new)

end Sys2Proof.Machine
end

