-- ==== Sys2Proof/Machine/Boot.lean ====
section
/-! DEFINITION. Resets and the start-up steps (R324 to R326, R347, R398, R417, R481 to R484, R525 to R535, R548, R550, R593 to
R605). -/

namespace Sys2Proof.Machine

/-- Registers whose contents a start keeps: fuses and what flash keeps, and after a warm reset the scratch registers (R514, R547,
R560, R563, R583, R585, R586). -/
def keptReg (warm : Bool) (off : Nat) : Bool :=
  [Reg.SEC_SERIAL_LO, Reg.SEC_SERIAL_HI, Reg.PWR_RATING, Reg.GLB_FAM6, Reg.GLB_REV, Reg.GLB_PCIID, Reg.GLB_POWERON, Reg.THM_TRIP0,
    Reg.THM_TRIP1].contains off || (warm && decide (Reg.GLB_SCRATCH 0 ≤ off) && decide (off ≤ Reg.GLB_SCRATCH 3))

/-- Registers take their reset values (R15, R535, R560). -/
def resetRegs (s : State) (warm : Bool) : State :=
  let sec := regWord s Reg.SEC_STAT
  let ctrl := regWord s Reg.BOOT_CTRL
  let s := { s with regs := s.regs.filter (fun x => keptReg warm x.1) }
  let s := setRegWord s Reg.SEC_STAT (sec &&& 0x7FF00#32)
  if warm then setRegWord s Reg.BOOT_CTRL (setFld ctrl 0 4 15) else s

/-- A flash operation that a reset cuts short leaves its sector open and its slot unable to verify (R558, log 30). -/
def cutFlash (s : State) : State :=
  match s.boot.flashOp with
  | none => s
  | some op =>
    let (bs, s) := openSector s
    { s with boot := { s.boot with flashOp := none, flash := setFlash s.boot.flash op.sector bs, cut := insNat s.boot.cut op.sector } }

/-- Everything stops and the core rails drop, with no report (R597, R598). DEDUCED, log 44. -/
def stopAll (s : State) : State :=
  let s := loseCore (cutFlash s)
  { s with
    boot := { s.boot with begun := 0, done := 0, image := none, token := none, nonceDue := false, relay := none }
    host := {}
    lastErr := []
    repair := { s.repair with held := [], slow := [] }
    pins := { s.pins with pwrGood := false, coreUp := false, fmPerst := false, startDue := true } }

/-- WARM_RESET: MOD_RST_N has been low for 250,000 MCLK cycles or more; a shorter pulse is ignored (R598). DEDUCED, log 44. -/
def execWarmReset (lowCycles : Nat) (s : State) : Out :=
  .next (
    if lowCycles < 250000 ∨ s.pins.stby = false then s
    else
      let s := resetRegs (stopAll s) true
      { s with pins := { s.pins with warm := true } })

/-- POWER_LOSS: VDD_STBY falls with the input, and what it kept is lost (R461, R593, R597, R599). DEDUCED, log 44. -/
def execPowerLoss (s : State) : Out :=
  let s := resetRegs (stopAll s) false
  .next { s with
    repair := { s.repair with merged := [], tests := [] }
    pend := []
    boot := { s.boot with stbyMerged := false, afterTrip := false }
    pins := { s.pins with
      stby := false, warm := false, railsFault := false, outSamples := 0, smbCode := 0, jtagIr := 1, boundary := 0, regacc := 0, bypass := false } }

/-- What a start that begins finds (R15, R515, R534, R535, R548, R550, R602): registers at reset, the power-up counted on a cold
start, measurements zero, the identity key formed, the path chosen. DEDUCED, log 64. -/
def beginStart (s : State) (supervised : Bool) (smbAddr : BitVec 2) : State :=
  let warm := s.pins.warm
  let fast := s.boot.stbyMerged && !(warm && regBit s Reg.BOOT_CTRL 4) && !s.boot.afterTrip
  let resumed := s.thermal.tripped
  let s := resetRegs (stopAll s) warm
  let s := if warm then s else
    let s := setRegWord s Reg.GLB_POWERON (regWord s Reg.GLB_POWERON + 1)
    logRepair s 0xD#32 0 0
  let s := { s with
    thermal := { s.thermal with history := [], notDone := [], warnDx := false, warnRz := false, tripped := false }
    repair := { s.repair with tests := [] }
    boot := { s.boot with afterTrip := false }
    pins := { s.pins with startDue := false, warm := false, stby := true, supervised := supervised, smbAddr := smbAddr, railsFault := false } }
  let s := setRegBytes s (Reg.SEC_IDPUB 0) 488 (Config.mlDsaPublic s.boot.secret)
  let s := setRegFld (setRegFld s Reg.BOOT_STEP 7 1 (b2n fast)) Reg.BOOT_STEP 8 1 (b2n supervised)
  let s := if resumed then setRegBit s Reg.THM_CAUSE 7 else s
  beginStep s 0

/-- POWER has failed and RETRY was written (R527). DEDUCED, log 65. -/
def retriesPower (s : State) : Bool := canBegin s 0 && decide (s.boot.begun = 1)

/-- POWER (R525, R533, R594, R596, R597, R602): voltages in 0.1 V. -/
def execPower (volt1 volt2 : Nat) (stbyOk : Bool) (railFail : Option Byte) (supervised : Bool) (smbAddr : BitVec 2) (s : State) : Out :=
  .next (
    if !s.pins.startDue && !retriesPower s then s
    else
      let s := if s.pins.startDue then beginStart s supervised smbAddr else beginStep s 0
      if volt1 < 400 ∨ volt2 < 400 then failStep s 0 0x01 (min volt1 volt2)
      else if 600 < volt1 ∨ 600 < volt2 ∨ stbyOk = false then failStep s 0 0x01 (max volt1 volt2)
      else match railFail with
        | some r => failStep s 0 0x02 r.toNat
        | none => completeStep { s with pins := { s.pins with pwrGood := true, coreUp := true, inputDue := false, outSamples := 0 } } 0)

/-- Run step k where it may begin. DESIGN CHOICE, log 1. -/
def runStep (s : State) (k : Nat) (f : State → State) : State := if canBegin s k then f (beginStep s k) else s

/-- CLOCKS (R29, R531, R533, R548, R603): the references, the PLLs, ACLK at the fused frequency, and M5. DESIGN CHOICE, log 60. -/
def execClocks (ref25 ref156 ref100 : Bool) (pllFail : Option Byte) (s : State) : Out :=
  .next (runStep s 1 (fun s =>
    if !ref25 then failStep s 1 0x11 0
    else if !ref156 then failStep s 1 0x11 1
    else if !ref100 then failStep s 1 0x11 2
    else match pllFail with
      | some p => failStep s 1 0x10 p.toNat
      | none =>
        let rec64 := BitVec.ofNat 8 (b2n (fastPath s)) :: BitVec.ofNat 8 (b2n s.pins.supervised) :: List.replicate 62 0#8
        completeStep (extend { s with aclkMhz := fusedMhz s } 5 rec64) 1))

/-- IMAGE (R533, R545, R546): the preferred slot, then the other. -/
def selectImage (s : State) : State :=
  let k := preferredSlot s
  let st := slotStatus s k
  let so := if st = 1 then 0 else slotStatus s (1 - k)
  let s := showSlot (showSlot s k st) (1 - k) so
  if st = 1 then completeStep (takeImage s k) 2
  else if so = 1 then completeStep (takeImage s (1 - k)) 2
  else failStep s 2 (statusCode st) (if k = 0 then st + so * 8 else so + st * 8)

/-- IMAGE. -/
def execImage (flashFail : Option (BitVec 27)) (holdReadable : Bool) (s : State) : Out :=
  .next (runStep s 2 (fun s =>
    match flashFail with
    | some o => failStep s 2 0x21 o.toNat
    | none => if holdReadable then selectImage s else failStep s 2 0x26 0))

/-- M4 (R548): the REP_REGION words, then the word of the enabled counts. DESIGN CHOICE, log 60. -/
def measureRepair (s : State) : State := extend s 4 (regBytes s (Reg.REP_REGION 0) 48 ++ regBytes s Reg.GLB_FAM0 1)

/-- The records of a fuse map up to its end (R454). -/
def fuseRecords (m : List Word) : List Word := (m.take 1024).takeWhile (fun w => decide (recKind w ≠ 0))

/-- FUSES (R454, R526, R533, R535): on the fast path the merged state kept takes the place of steps 4 to 7. -/
def execFuses (dxMap rzMap : List Word) (dxOk rzOk : Bool) (s : State) : Out :=
  .next (runStep s 3 (fun s =>
    if !dxOk then failStep s 3 0x30 0
    else if !rzOk then failStep s 3 0x30 1
    else
      let s := { s with repair := { s.repair with dxFuse := fuseRecords dxMap, rzFuse := fuseRecords rzMap } }
      completeStep (if fastPath s then measureRepair (applyMerged s) else s) 3))

/-- A start-up test (R457, R532, R533): it records what it finds, and fails only when it cannot run. DESIGN CHOICE, log 61. -/
def runTest (s : State) (k code : Nat) (runs : Bool) (bad : List Word) : State :=
  runStep s k (fun s =>
    if runs then completeStep { s with repair := { s.repair with tests := s.repair.tests ++ bad } } k
    else
      let (f, s) := freeWord s
      failStep s k code (f.toNat % 2 ^ 24))

/-- BOND_TEST. -/
def execBondTest (runs : Bool) (bad : List BadPart) (s : State) : Out := .next (runTest s 4 0x40 runs bad)

/-- SRAM_TEST. -/
def execSramTest (runs : Bool) (bad : List BadPart) (s : State) : Out := .next (runTest s 5 0x50 runs bad)

/-- LOGIC_TEST. -/
def execLogicTest (runs : Bool) (bad : List BadPart) (s : State) : Out := .next (runTest s 6 0x60 runs bad)

/-- The image in force has a flag (R541). -/
def imageFlag (s : State) (i : Nat) : Bool := (s.boot.image.map (fun x => bit x.flags i)).getD false

/-- REPAIR (R457 to R461): on a failure nothing is kept. DEDUCED, log 62. -/
def repairStep (s : State) (macroFail : Option Nat) : State :=
  let (t, new) := mergeParts s
  match (macroFail.map (fun m => (0x72, m))).or (mergeFailure t.repair.merged) with
  | some (code, detail) => failStep s 7 code detail
  | none =>
    let t := measureRepair (applyMerged (enterFailures t new (imageFlag s 0)))
    completeStep { t with boot := { t.boot with stbyMerged := true } } 7

/-- REPAIR. -/
def execRepair (macroFail : Option Byte) (s : State) : Out := .next (runStep s 7 (fun s => repairStep s (macroFail.map (·.toNat))))

/-- Stage one region at REGIONS (R481 to R484): its self-test, then on, and its bank is zero. -/
def stageRegion (s : State) (p : Nat) (r : Nat) (logic : Byte) (mem : BitVec 4) : State :=
  let s := selfTest (setRegionState s p rgTest) p logic mem
  if !regionAlive s p then s
  else
    let s := regionOn s p (some r)
    enableRegion { s with power := { s.power with zeroing := s.power.zeroing.filter (· ≠ r) } } p r

/-- Stage the next region in ascending physical order, the spares that fences bring in among them. -/
def stageNext (logicFails : List Byte) (memFails : List (BitVec 4)) (s : State) : State :=
  match nextStaging s with
  | none => s
  | some (p, l) =>
    let s := { s with power := { s.power with toStage := s.power.toStage.filter (fun x => decide (x.1 ≠ p)) } }
    match l with
    | some r => stageRegion s p r (logicFails.getD p 0) (memFails.getD p 0)
    | none => s

/-- REGIONS (R475, R481 to R484, R533): ACLK at the image's frequency, and the regions staged on. -/
def regionsStep (s : State) (logicFails : List Byte) (memFails : List (BitVec 4)) : State :=
  let mhz := (s.boot.image.map (·.aclk)).getD s.aclkMhz
  let rs := (List.range 48).filterMap (fun r => (physRegion s r).map (fun p => (Fin.ofNat 50 p, some (Fin.ofNat 48 r))))
  let s := setVdd { s with aclkMhz := mhz, power := { s.power with toStage := rs } } mhz
  let s := (List.range 50).foldl (fun s _ => stageNext logicFails memFails s) s
  let n := ((List.range 50).filter (fun p => decide (regionState s p = rgOn) || decide (regionState s p = rgCapped))).length
  if n < 24 then failStep s 8 0x80 n else tryMove (recomputeTints (completeStep s 8))

/-- REGIONS: the self-test results stand by physical region. -/
def execRegions (logicFails : List Byte) (memFails : List (BitVec 4)) (s : State) : Out :=
  .next (runStep s 8 (fun s => regionsStep s logicFails memFails))

/-- A controller is retired by a repair record (R456). -/
def ctlRetired (s : State) (c : Nat) : Bool := s.repair.merged.contains (unitRecord 8 c)

/-- The saved settings of a controller are used (R324): its record names these devices, the temperature lies within 25 degrees of the
recorded one, and the verification pass succeeds. -/
def usesSavedNear (s : State) (c : Nat) (t : NearTrain) : Bool :=
  match look s.boot.savedNear c with
  | some r => decide (r.devices = t.devices) && decide ((t.temp - r.temp).natAbs ≤ 25) && t.verified
  | none => false

/-- The settings of a full training are written where they differ from those stored (R324); the temperature is recorded with them. -/
def saveNear (s : State) (c : Nat) (t : NearTrain) : State :=
  let same := match look s.boot.savedNear c with
    | some r => decide (r.devices = t.devices) && decide (r.settings = t.settings)
    | none => false
  if same then s else { s with boot := { s.boot with savedNear := put s.boot.savedNear c ⟨t.devices, t.temp, t.settings⟩ } }

/-- Train one controller (R324, R326); it is calibrated at the temperature of its training (R327; DEDUCED, log 50). -/
def trainController (trained : List NearTrain) (s : State) (c : Nat) : State :=
  let show_ (s : State) (n : Nat) : State := setRegWord s (Reg.NEAR_CTL_STAT c) (BitVec.ofNat 32 (n + 0xF00))
  match trained[c]? with
  | some t =>
    let saved := usesSavedNear s c t
    if ctlRetired s c then show_ s 4
    else if !saved && !t.ok then show_ s 0
    else
      let s := if saved then s else saveNear s c t
      show_ { s with near := { s.near with calib := put s.near.calib c t.temp } } (2 + b2n saved * 8)
  | none => show_ s 0

/-- NEAR_MEM (R324 to R326, R529, R533). DEDUCED, log 66. -/
def nearStep (s : State) (trained : List NearTrain) : State :=
  let s := applyParams s (imageParams s) nearReg
  let s := (List.range 12).foldl (trainController trained) s
  let on := (List.range 12).filter (fun c => decide (ctlState s c = 2))
  let s := clearNear (numberControllers s on)
  if on.length < 6 then failStep s 9 0x90 on.length else recomputeTints (completeStep s 9)

/-- NEAR_MEM. DEDUCED, log 66. -/
def execNearMem (trained : List NearTrain) (s : State) : Out := .next (runStep s 9 (fun s => nearStep s trained))

/-- FAR_MEM (R347, R348, R529, R533, R605): a port with no module reads not ready. -/
def farStep (s : State) (found : List FarFound) : State :=
  let s := applyParams { s with pins := { s.pins with fmPerst := true } } (imageParams s) farReg
  let s := (List.range 12).foldl (fun s p => match found[p]? with
    | some x => trainPort s p x
    | none => stopPort s p 0 0) s
  let n := ((List.range 12).filter (portServes s)).length
  if n < (s.boot.image.map (·.farMin)).getD 0 then failStep s 10 0xA0 n else recomputeTints (completeStep s 10)

/-- FAR_MEM. -/
def execFarMem (found : List FarFound) (s : State) : Out := .next (runStep s 10 (fun s => farStep s found))

/-- One port at FABRIC (R397, R398): trained when it is enabled. -/
def fabricPort (trained_ : List TrainResult) (s : State) (q : Nat) : State :=
  if regBit s (Reg.FAB_PORT_CTRL q) 0 then
    let s := if portState s q = 2 then s else startTraining s q
    let x := (trained_[q]?).getD { txGood := 0, rxGood := 0 }
    saveTraining (trained s q x.txGood x.rxGood false) q x
  else s

/-- FABRIC (R398, R529, R533). -/
def fabricStep (s : State) (trained_ : List TrainResult) : State :=
  let s := applyParams s (imageParams s) fabReg
  let s := (List.range 16).foldl (fabricPort trained_) s
  let n := ((List.range 16).filter (portUsable s)).length
  if n < (s.boot.image.map (·.fabMin)).getD 0 then failStep s 11 0xB0 n else recomputeTints (completeStep s 11)

/-- FABRIC. -/
def execFabric (trained_ : List TrainResult) (s : State) : Out := .next (runStep s 11 (fun s => fabricStep s trained_))

/-- JOIN begins (R413, R417): it completes when the device holds an identifier and a route set. -/
def execJoin (s : State) : Out :=
  .next (if joinState s = 1 then s else runStep s 12 startJoin)

/-- LOAD (R286, R287, R529, R531, R548): the late parameters, the hold window and the banks at zero, M3. -/
def loadStep (s : State) : State :=
  let s := applyParams s (imageParams s) lateReg
  let s := clrRegBit (zeroHold (applyHold s (regFld s Reg.RLZ_CFG 0 4))) Reg.RLZ_STATUS 17
  let s := (List.range 48).foldl clearBank s
  match s.boot.image with
  | some i => setRegWord (measureSections s i 3 3) Reg.GLB_TEFW (sectionVersion i 3)
  | none => s

/-- LOAD. DESIGN CHOICE, log 67. -/
def execLoad (failSection : Option Byte) (s : State) : Out :=
  .next (runStep s 13 (fun s =>
    match failSection with
    | some k => failStep s 13 0xD0 k.toNat
    | none => completeStep (recomputeTints (loadStep s)) 13))

/-- READY (R372, R531). -/
def execReady (s : State) : Out := .next (runStep s 14 (fun s => completeStep s 14))

/-- GO. DEDUCED, log 31. -/
def execGo (v : Word) (s : State) : Out := .next (whenLive s Reg.BOOT_CMD (fun s => writeBootCmd s (v ||| 1#32)))

/-- RETRY. DEDUCED, log 31. -/
def execRetry (v : Word) (s : State) : Out := .next (whenLive s Reg.BOOT_CMD (fun s => writeBootCmd s (v ||| 2#32)))

end Sys2Proof.Machine
end

