-- ==== Sys2Proof/Machine/Faults.lean ====
section
/-! DEFINITION. Loss of lock and device faults (R29, R376). -/

namespace Sys2Proof.Machine

/-- PLL_LOSS_OF_LOCK (R29): a device fault, the failure of a controller in service, or the loss of a port. DEDUCED, log 43. -/
def execPllLossOfLock (which : ClockLoss) (s : State) : Out :=
  .next (match which with
    | .near c => if ctlState s c = 2 ∨ ctlState s c = 3 then failController s c else s
    | .recovered q => loseLink s q
    | .aclk | .nclk | .cclk => if s.pins.coreUp then deviceFault s 9 else s)

/-- DEVICE_FAULT (R29, R376): of a cause, or of an uncorrectable error in a control SRAM at a location, which is an error of class DXC
(R443, R444). DEDUCED, log 43. -/
def execDeviceFault (cause : DeviceCause) (s : State) : Out :=
  .next (
    if s.pins.coreUp then
      match cause with
      | .sram loc => deviceFault (uncorrectable s .dxc 0 loc).2 3
      | .named c => deviceFault s c.toNat
    else s)

end Sys2Proof.Machine
end

