-- ==== Sys2Proof/Machine/HostBus.lean ====
section
/-! DEFINITION. The host function (R530, R566 to R574, R579 to R582, R588, R589, R600) and the sideband: SMBus and JTAG (R604,
R606 to R608). -/

namespace Sys2Proof.Machine

/-- The host reaches the function: the link is up, CLOCKS has completed and the module has its rails (R528, R567). -/
def hostReaches (s : State) : Bool := linkUp s && decide (2 ≤ s.boot.done) && s.pins.coreUp

/-- BAR2 serves a place (R530). -/
def placeLive (s : State) : Place → Bool
  | .near => decide (10 ≤ s.boot.done)
  | .far _ => decide (11 ≤ s.boot.done)
  | .hold => decide (14 ≤ s.boot.done)
  | .bank _ => decide (14 ≤ s.boot.done)
  | .nothing => false

/-- The local address of a BAR2 offset (R571, R587). -/
def bar2Addr (s : State) (off : Nat) : Nat :=
  regFld s Reg.GLB_BAR2_BASE_LO 30 2 * 2 ^ 30 + regFld s Reg.GLB_BAR2_BASE_HI 0 16 * 2 ^ 32 + off

/-- A BAR2 access of n bytes at a local address is served (R530, R571, R572). DEDUCED, log 68. -/
def bar2Served (s : State) (write : Bool) (a n : Nat) : Bool :=
  decide (a + n ≤ 0x100000000000) && decide (s.power.deep = .none) && (if write then mappedW s .host a n else mapped s .host a n)
    && placeLive s (placeOf s a) && placeLive s (placeOf s (a + n - 1))

/-- The BAR2 error response (R572, R589). -/
def bar2Error (s : State) (write : Bool) (a : Nat) : State :=
  let s := setRegWord s Reg.GLB_BAR2_ERRADDR_LO (BitVec.ofNat 32 a)
  let s := setRegWord s Reg.GLB_BAR2_ERRADDR_HI (BitVec.ofNat 32 (a / 2 ^ 32 % 2 ^ 16 + b2n write * 2 ^ 16))
  raiseHost s 16

/-- A BAR2 access can be made: of at least a byte, within the window. -/
def bar2Made (s : State) (off n : Nat) : Bool := hostReaches s && decide (0 < n) && decide (off + n ≤ 2 ^ 30)

/-- BAR0 writes whose turn has come take effect, each followed by the BAR2 accesses behind it (R570). -/
def takeBar0 : Nat → State → State
  | 0, s => s
  | n + 1, s =>
    match s.sc.host with
    | .bar0 off size data hw :: t =>
      let s := accessWrite { s with sc := { s.sc with host := t } } off size data hw
      takeBar0 n (serveHost s.sc.host.length s)
    | _ => s

/-- Serve what waits at the ports: the requests of SC_REQUEST, then the host's accesses in the order received (R570). -/
def serveWaiting (s : State) : State :=
  let s := servePorts s
  takeBar0 s.sc.host.length s

/-- A host access takes its place at the host stop (R300, R301, R570). -/
def hostAccess (s : State) (x : HostReq) : State := serveWaiting { s with sc := { s.sc with host := s.sc.host ++ [x] } }

/-- REGISTER_WRITE: a poisoned write by BAR0 is discarded (R574); another takes effect after the host's accesses before it (R570). -/
def execRegisterWrite (path : AccPath) (off : BitVec 26) (size : AccSize) (data : BitVec 64) (poisoned : Bool) (hwSet : Word)
    (s : State) : Out :=
  .next (
    if path ≠ .bar0 then accessWrite s off.toNat size data hwSet
    else if poisoned then s
    else if s.sc.host.isEmpty then accessWrite s off.toNat size data hwSet
    else { s with sc := { s.sc with host := s.sc.host ++ [.bar0 off.toNat size data hwSet] } })

/-- SC_REQUEST: the host stop's requests carry its tint (R300). A request that cannot be issued waits at its port (R282, R289,
R301). -/
def execScRequest (a : ScArrival) (s : State) : Out :=
  let ⟨q, ecc⟩ := a
  let q := if q.master.val = 272 then { q with tint := BitVec.ofNat 3 (regFld s Reg.DSP_TINT_HOST 0 3) } else q
  .next (
    if !scReaches s q then s
    else
      let hold (s : State) : State := { s with sc := { s.sc with held := s.sc.held ++ [q] } }
      if scMay s q then serveWaiting (hold (checkSc s q ecc)) else countHold (hold s) q)

/-- SC_MISS_FILL: the line comes from memory, where bad names the bytes of a GDDR7 line in error; a miss entry is then free. None comes
from a controller that recalibrates (R327). -/
def execScMissFill (f : MissFill) (s : State) : Out :=
  let ⟨line, bad⟩ := f
  let l := line.toNat
  .next (if (look s.sc.misses l).isSome && !nearHolds s l then serveWaiting (fillMiss (checkNear s l bad) l) else s)

/-- TINT_EPOCH: the requests that waited for tokens are served. -/
def execTintEpoch (s : State) : Out := .next (serveWaiting (endEpoch s))

/-- WIRE_REPLACEMENT_COMPLETE: the direction carries again what was held across it, or runs the next replacement (R289, R466). -/
def execWireReplacementComplete (ch : Fin 114) (write : Bool) (s : State) : Out :=
  let k := dirKey ch write
  .next (serveWaiting { s with vc := { s.vc with replacing := putD 0 s.vc.replacing k (lookD s.vc.replacing k 0 - 1) } })

/-- RECALIBRATION_COMPLETE (R327): back in service, or to be retired when it failed. -/
def execRecalibrationComplete (c : Fin 12) (ok : Bool) (s : State) : Out :=
  .next (if ctlState s c = 3 then
    let s := setRegFld s (Reg.NEAR_CTL_STAT c) 0 3 2
    serveWaiting (if ok then s else failController s c)
  else s)

/-- BAR2_READ (R571 to R573). -/
def execBar2Read (off : BitVec 30) (len : Fin 4097) (s : State) : Out :=
  .next (
    let a := bar2Addr s off.toNat
    if !bar2Made s off.toNat len then s
    else if bar2Served s false a len then hostAccess s (.bar2 { addr := a, len := len, data := none })
    else emit (bar2Error s false a) .bar2Unsupported)

/-- BAR2_WRITE (R571 to R573). -/
def execBar2Write (off : BitVec 30) (bytes : List Byte) (poisoned : Bool) (s : State) : Out :=
  .next (
    let a := bar2Addr s off.toNat
    if !bar2Made s off.toNat bytes.length then s
    else if bar2Served s true a bytes.length then hostAccess s (.bar2 { addr := a, len := bytes.length, data := some (bytes, poisoned) })
    else bar2Error s true a)

/-- A host access that a reset of the function leaves waiting: all but a read, which has no requester left. -/
def keptAccess : HostReq → Bool
  | .bar2 x => x.data.isSome
  | .bar0 _ _ _ _ => true

/-- The configuration space returns to its reset values (R568, R581): no pending vector is kept while MSI-X Enable is 0, and a read
that waits at the host stop has no requester left (DESIGN CHOICE, log 73). -/
def resetConfig (s : State) : State :=
  let s := { s with sc := { s.sc with host := s.sc.host.filter keptAccess } }
  let s := clrRegBit { s with host := {} } Reg.GLB_HSTAT 7
  (List.range 4).foldl (fun s i => setRegWord s (Reg.MSIX_PBA i) 0) s

/-- HOT_RESET: a hot reset or a secondary bus reset (R568). -/
def execHotReset (s : State) : Out := .next (if hostReaches s then raiseHost (resetConfig s) 17 else s)

/-- Show the link's rate, width and mode (R567, R588). -/
def showLink (s : State) (rate width : BitVec 3) (flit : Bool) : State :=
  setRegFld s Reg.GLB_HSTAT 0 7 (rate.toNat + width.toNat * 8 + b2n flit * 64)

/-- The link goes down (R568, R588). -/
def dropLink (s : State) : State := raiseHost (showLink (resetConfig s) 0 0 false) 17

/-- The link can train: PERST_N is high and CLOCKS has completed (R600). -/
def linkMay (s : State) : Bool := s.pins.perst && decide (2 ≤ s.boot.done) && s.pins.coreUp

/-- HOST_LINK_CHANGE (R567, R568, R588): flit mode always at 64 and 128 GT/s. -/
def execHostLinkChange (rate width : BitVec 3) (flit : Bool) (s : State) : Out :=
  .next (
    if rate = 0 then (if linkUp s then dropLink s else s)
    else if !linkMay s || !(width = 1 || width = 2 || width = 4) then s
    else
      let t := showLink s rate width (flit || decide (6 ≤ rate.toNat))
      if regFld s Reg.GLB_HSTAT 0 6 = rate.toNat + width.toNat * 8 then t else raiseHost t 17)

/-- PERST (R568, R600): low resets the endpoint and the link. -/
def execPerst (high : Bool) (s : State) : Out :=
  .next (
    let t := { s with pins := { s.pins with perst := high } }
    if high || !s.pins.perst then t else if linkUp s then dropLink t else resetConfig t)

/-- BUS_MASTER_ENABLE (R569, R581): what is pending and not masked is sent. -/
def execBusMasterEnable (s : State) : Out :=
  .next (if hostReaches s then deliverAll (setRegBit { s with host := { s.host with bme := true } } Reg.GLB_HSTAT 7) else s)

/-- BUS_MASTER_DISABLE (R569). -/
def execBusMasterDisable (s : State) : Out :=
  .next (if hostReaches s then clrRegBit { s with host := { s.host with bme := false } } Reg.GLB_HSTAT 7 else s)

/-- MSIX_UNMASK: of a vector by its table entry, or of the function (R581). -/
def execMsixUnmask (v : Option (Fin 128)) (s : State) : Out :=
  .next (
    if !hostReaches s then s
    else match v with
      | some v => deliver (clrRegBit s (Reg.MSIX_CTRL v) 0) v
      | none => deliverAll { s with host := { s.host with fmask := false } })

/-- MSIX_ENABLE_WRITE: MSI-X Enable and the function's mask (R581). -/
def execMsixEnableWrite (en fmask : Bool) (s : State) : Out :=
  .next (
    if !hostReaches s then s
    else
      let s := { s with host := { s.host with msixEn := en, fmask := fmask } }
      if en then deliverAll s else (List.range 4).foldl (fun s i => setRegWord s (Reg.MSIX_PBA i) 0) s)

/-- ALERT_N is low (R604). -/
def alertLow (s : State) : Bool :=
  s.pins.stby && (decide (bootState s = bsWaiting) || decide (bootState s = bsFailed) || decide (bootState s = bsHold) || s.pins.railsFault
    || causeBit s 1 || causeBit s 2 || causeBit s 3)

/-- SMBus has a code for the last READ or WRITE (R606). DESIGN CHOICE, log 58. -/
def smbResult (s : State) (code : Nat) : State := { s with pins := { s.pins with smbCode := BitVec.ofNat 4 code } }

/-- Register accesses by SMBus and JTAG are served (R528). -/
def accessServed (s : State) : Bool := decide (2 ≤ s.boot.done)

/-- SMBUS_READ (R606): a status byte and four data bytes; those of an access that is not served are open. DESIGN CHOICE, log 58. -/
def execSmbusRead (off : Word) (pecOk : Bool) (s : State) : Out :=
  .next (
    if !s.pins.stby then s
    else if !pecOk then smbResult s 3
    else if accessServed s then emit (smbResult s 0) (.smb (0#8 :: toBytes 4 (regRead s off.toNat 4)))
    else
      let (f, s) := freeWord s
      emit (smbResult s 1) (.smb (1#8 :: toBytes 4 f.toNat)))

/-- SMBUS_WRITE (R606): BOOT_CMD is served from the first step boundary (R567, log 31). -/
def execSmbusWrite (off v : Word) (pecOk : Bool) (s : State) : Out :=
  .next (
    if !s.pins.stby then s
    else if !pecOk then smbResult s 3
    else if accessServed s || decide (off.toNat = Reg.BOOT_CMD) then smbResult (accessWrite s off.toNat .b32 (v.setWidth 64) 0) 0
    else smbResult s 1)

/-- The STATUS word (R606). -/
def smbStatus (s : State) : List Byte :=
  [BitVec.ofNat 8 (regFld s Reg.BOOT_STEP 0 7),
    BitVec.ofNat 8 (b2n s.pins.pwrGood + b2n (decide (regFld s Reg.PWR_STATUS 0 2 = 2)) * 2 + b2n (regBit s Reg.THM_STATUS 16) * 4
      + s.pins.smbCode.toNat * 16)]

/-- SMBUS_STATUS. -/
def execSmbusStatus (s : State) : Out := .next (if s.pins.stby then emit s (.smb (smbStatus s)) else s)

/-- SMBUS_WAKE (R496, R606). -/
def execSmbusWake (pecOk : Bool) (s : State) : Out :=
  .next (if !s.pins.stby then s else if pecOk then requestWake s else smbResult s 3)

/-- ALERT_RESPONSE: the module answers with its address while ALERT_N is low (R602, R604). DESIGN CHOICE, log 58. -/
def execAlertResponse (s : State) : Out :=
  .next (if alertLow s then emit s (.smb [BitVec.ofNat 8 (0x58 + s.pins.smbAddr.toNat)]) else s)

/-- An instruction is in the JTAG instruction register (R607). -/
def selectJtag (s : State) (ir : Byte) : State := { s with pins := { s.pins with jtagIr := ir } }

/-- Send a data register out on TDO. -/
def shiftOut (s : State) (w : BitVec 72) : State := emit s (.jtag w)

/-- TEST_LOGIC_RESET: IDCODE is selected (R607). -/
def execTestLogicReset (s : State) : Out := .next (selectJtag s 0x01#8)

/-- EXTEST (R607): the boundary scan register drives the sideband contacts. DESIGN CHOICE, log 32. -/
def execExtest (scan : BitVec 33) (s : State) : Out :=
  let s := selectJtag s 0x00#8
  .next (emit { s with pins := { s.pins with boundary := scan } } (.contacts scan))

/-- IDCODE (R607). -/
def execIdcode (s : State) : Out :=
  .next (shiftOut (selectJtag s 0x01#8) (BitVec.ofNat 72 (0x0D960C5B + regFld s Reg.GLB_REV 0 4 * 2 ^ 28)))

/-- The sideband contacts as sampled (R607, log 32): PERST_N, PWR_GOOD, MOD_RST_N, ALERT_N, SMB_CLK, SMB_DAT, SMB_ADDR0 and 1,
START_MODE, then FM_PERST_N and FM_PRSNT_N of the ports; the levels that the state does not hold are open. -/
def sampled (s : State) : BitVec 33 × State :=
  let (f, s) := freeWord s
  let known := b2n s.pins.perst + b2n s.pins.pwrGood * 2 + b2n (!alertLow s) * 8 + s.pins.smbAddr.toNat * 2 ^ 6
    + b2n (!s.pins.supervised) * 2 ^ 8 + (if s.pins.fmPerst then 4095 else 0) * 2 ^ 9
  (BitVec.ofNat 33 (known + nfld f.toNat 0 1 * 4 + nfld f.toNat 1 2 * 16 + nfld f.toNat 3 12 * 2 ^ 21), s)

/-- SAMPLE_PRELOAD (R607): the contacts are shifted out and the cells take what is shifted in. DESIGN CHOICE, log 32. -/
def execSamplePreload (scan : BitVec 33) (s : State) : Out :=
  let (w, s) := sampled (selectJtag s 0x02#8)
  .next (shiftOut { s with pins := { s.pins with boundary := scan } } (w.setWidth 72))

/-- The access of REGACC (R608): what the next Capture-DR loads; DATA of an access that is not served is open. DESIGN CHOICE, log 58. -/
def regaccAccess (s : State) (dr : BitVec 72) : BitVec 72 × State :=
  let off := fld dr 32 32
  let head := off * 2 ^ 32 + b2n (bit dr 64) * 2 ^ 64
  if !accessServed s then
    let (f, s) := freeWord s
    (BitVec.ofNat 72 (f.toNat + head + 2 ^ 66), s)
  else if bit dr 64 then (BitVec.ofNat 72 (fld dr 0 32 + head + 2 ^ 65), accessWrite s off .b32 (dr.extractLsb' 0 64) 0)
  else (BitVec.ofNat 72 (regRead s off 4 + head + 2 ^ 65), s)

/-- REGACC (R577, R608): Capture-DR gives the result of the access before, Update-DR performs one. -/
def execRegacc (dr : BitVec 72) (s : State) : Out :=
  let s := shiftOut (selectJtag s 0x20#8) s.pins.regacc
  let (w, s) := regaccAccess s dr
  .next { s with pins := { s.pins with regacc := w } }

/-- BYPASS (R607). -/
def execBypass (tdi : Bool) (s : State) : Out :=
  let s := shiftOut (selectJtag s 0xFF#8) (BitVec.ofNat 72 (b2n s.pins.bypass))
  .next { s with pins := { s.pins with bypass := tdi } }

end Sys2Proof.Machine
end

