-- ==== Sys2Proof/Machine/Scrub.lean ====
section
/-! DEFINITION. Scrubbers (R129, R130, R443, R444, R451 to R453, R471). -/

namespace Sys2Proof.Machine

/-- Number of a scrubber kind (R451). -/
def scrubNum : ScrubKind → Nat
  | .acc => 0 | .sc => 1 | .pb => 2 | .near => 3

/-- Instances of a kind (R451). -/
def scrubInstances : ScrubKind → Nat
  | .acc => 200 | .sc => 64 | .pb => 50 | .near => 12

/-- The scrubber runs on an instance (R35, R130, R452). -/
def scrubs (s : State) (k : ScrubKind) (i : Nat) : Bool :=
  decide (i < scrubInstances k) && (match k with
    | .acc => scrubsArray s i && !viewHolds s i
    | _ => regBit s Reg.ERR_SCRUB_CTRL (scrubNum k))

/-- An accumulator entry is one that the scrubber poisons for (R129): its residue or its value is wrong. -/
def entryBad (e : AccEntry) : Bool := decide (e.res.toNat ≠ mod7 e.v) || decide (e.res.toNat = 7) || decide (e.value = 1#128 <<< 127)

/-- A wrong entry poisons what its owner holds, or nothing where the column is free (R130). -/
def poisonEntry (s : State) (n loc : Nat) : State :=
  let c := lookD (arr s n).cols (loc % 256) {}
  if c.owned then passFault s n ⟨c.orig, c.item, c.lot⟩ else s

/-- A residue error that the scrubber finds (R130): it poisons where the column is owned, and is counted where it is free. -/
def residueFound (s : State) (i loc : Nat) (where_ : Word) : State :=
  if (lookD (arr s i).cols (loc % 256) {}).owned then poisonEntry s i loc else (uncorrectable s .acc i where_).2

/-- Address of the hold-window line at an index j of a logical slice (R278, R279). -/
def holdLine (s : State) (k j : Nat) : Nat :=
  let n := sliceCount s
  let g := (j ^^^ (j >>> 6) ^^^ (j >>> 12) ^^^ (j >>> 18) ^^^ (j >>> 24) ^^^ (j >>> 30)) % 64
  holdBase + 128 * (j * n + (k + n - g % n) % n)

/-- The line in a set and way of a logical slice is damaged (R443): a hold line or a dirty line is poisoned, a clean line
invalidated; all of a set whose tags are lost are poisoned. -/
def damageLine (s : State) (k set way : Nat) (tags : Bool) : State :=
  if way < holdNow s then setPoison s (holdLine s k (way * 17408 + set)) true
  else
    match s.sc.lines.find? (fun (l, x) => decide (lineSlice s l = k) && decide (lineSet s l = set) && decide (x.way = way)) with
    | some (l, x) =>
      if x.dirty = 0 ∧ tags = false then dropLine s l
      else { s with sc := { s.sc with lines := put s.sc.lines l { x with poison := true } } }
    | none => s

/-- An uncorrectable SC word (R443): 32-byte data words first, then one tag word for each set. -/
def damageSc (s : State) (i loc : Nat) : State :=
  let k := regFld s (Reg.RLZ_SC_ID i) 8 8
  if !regBit s (Reg.RLZ_SC_ID i) 16 then s
  else if loc < 1114112 then damageLine s k (loc / 4 % 17408) (loc / 4 / 17408) false
  else if loc < 1114112 + 17408 then
    setRegBit ((List.range 16).foldl (fun s w => damageLine s k (loc - 1114112) w true) s) Reg.RLZ_STATUS 20
  else s

/-- Near address of line m of a physical controller (R323). -/
def nearLine (s : State) (c m : Nat) : Nat :=
  let n := regFld s Reg.NEAR_STATUS 0 4
  let h := (m ^^^ (m >>> 7) ^^^ (m >>> 14) ^^^ (m >>> 21)) % n
  128 * (m * n + (regFld s (Reg.NEAR_CTL_STAT c) 8 4 + n - h) % n)

/-- What an uncorrectable word or line does beyond the count (R443, R452). -/
def damage (s : State) (k : ScrubKind) (i loc : Nat) : State :=
  match k with
  | .acc => poisonEntry s i loc
  | .sc => damageSc s i loc
  | .pb => if regBit s (Reg.RLZ_PB_ID i) 16 ∧ loc < 262144 then setPoison s (pbBase + regFld s (Reg.RLZ_PB_ID i) 8 8 * pbSize + 32 * loc) true else s
  | .near =>
    let a := nearLine s i loc
    if a < nearSize s ∧ lineWritten s a = true then setPoison s a true else s

/-- Bucket class of a kind's errors. -/
def scrubClass (k : ScrubKind) (corrected : Bool) : BktClass :=
  match k with
  | .acc => .acc
  | .sc => .sc
  | .pb => .pb
  | .near => if corrected then .nearCe else .nearUe

/-- What ERR_LAST1 says of the place (R469): DETAIL in bits [31:12], for GDDR7 the line number within the controller. -/
def scrubLoc (k : ScrubKind) (loc detail : Nat) : Word :=
  BitVec.ofNat 32 (match k with
    | .near => loc
    | _ => detail * 4096)

/-- One visit (R452): what it finds is counted and acted on; an accumulator entry's residue is checked as well. -/
def visit (s : State) (k : ScrubKind) (i loc detail : Nat) (res : ScrubResult) : State :=
  match res with
  | .uncorrectable => damage (uncorrectable s (scrubClass k false) i (scrubLoc k loc detail)).2 k i loc
  | r =>
    let s := match r with
      | .corrected => (correctedError s (scrubClass k true) i (scrubLoc k loc detail)).2
      | _ => s
    match k with
    | .acc => if entryBad (lookD (arr s i).entries loc {}) then residueFound s i loc (scrubLoc k loc detail) else s
    | _ => s

/-- A lap beyond its limit sets ERR_CAUSE.LAP_SLOW once (R453). -/
def lapSlow (s : State) (k : ScrubKind) (i : Nat) (lap : Word) : State :=
  let x := (scrubNum k, i)
  if regWord s (Reg.ERR_SCRUB_LIM (scrubNum k)) < lap ∧ s.repair.slow.contains x = false then
    raiseErr { s with repair := { s.repair with slow := s.repair.slow ++ [x] } } 5
  else s

/-- A lap ends (R453): the longest lap of the kind is kept. -/
def endLap (s : State) (k : ScrubKind) (i : Nat) (lap : Word) : State :=
  let off := Reg.ERR_SCRUB_LAP (scrubNum k)
  let s := lapSlow (setRegWord s off (BitVec.ofNat 32 (max (regWord s off).toNat lap.toNat))) k i lap
  { s with repair := { s.repair with slow := s.repair.slow.filter (fun x => decide (x ≠ (scrubNum k, i))) } }

/-- SCRUB_VISIT. -/
def execScrubVisit (kind : ScrubKind) (inst : Fin 200) (loc : BitVec 32) (detail : BitVec 20) (res : ScrubResult) (lapEnd : Bool) (lap : Word) (s : State) : Out :=
  .next (if scrubs s kind inst then
    let s := visit s kind inst loc.toNat detail.toNat res
    if lapEnd then endLap s kind inst lap else s
  else s)

/-- LAP_SLOW (R453): the current lap of an instance. -/
def execLapSlow (kind : ScrubKind) (inst : Fin 200) (lap : Word) (s : State) : Out :=
  .next (if scrubs s kind inst then lapSlow s kind inst lap else s)

end Sys2Proof.Machine
end

