-- ==== Sys2Proof/Machine/Operands.lean ====
section
/-! DEFINITION. The operand forms of the thread instructions: register reads and writes of a group-issue, and the addresses
of the memory forms (R228 to R231, R244 to R246, R249). -/

namespace Sys2Proof.Machine

/-- A v or u register, as a U bit says (R231). -/
def Group.operand (g : Group) (l : Nat) (u : Bool) (r : BitVec 8) : Word :=
  if u then g.ureg r.toNat else (g.th l).reg r.toNat

end Sys2Proof.Machine

namespace Sys2Proof

/-- Operand A of form R in a lane. -/
def RForm.opA (r : RForm) (g : Machine.Group) (l : Nat) : Word := g.operand l r.ua r.a
/-- Operand B of form R. -/
def RForm.opB (r : RForm) (g : Machine.Group) (l : Nat) : Word := g.operand l r.ub r.b
/-- Operand C of form R. -/
def RForm.opC (r : RForm) (g : Machine.Group) (l : Nat) : Word := g.operand l r.uc r.c

end Sys2Proof

namespace Sys2Proof.Machine

/-- Write a destination (R230): a u register takes the value of the lowest lane, a v register that of its own lane. -/
def Group.writeD (g : Group) (u : Bool) (d : BitVec 8) (vals : List (Nat × Word)) : Group :=
  if u then
    match vals with
    | [] => g
    | (_, w) :: _ => g.setU d.toNat w
  else vals.foldl (fun g (l, w) => g.modTh l (fun t => t.setReg d.toNat w)) g

/-- Change the threads of some lanes. -/
def Group.modLanes (g : Group) (act : List Nat) (f : Nat → Thread → Thread) : Group :=
  act.foldl (fun g l => g.modTh l (f l)) g

/-- OR conditions into STAT (R239, R242). -/
def Thread.orStat (t : Thread) (b : BitVec 5) : Thread := { t with stat := t.stat ||| b }

/-- An instruction that computes one word in each lane. -/
def aluBody (u : Bool) (d : BitVec 8) (f : Group → Nat → Word) (s : State) (g : Group) (act : List Nat) : IssueRes :=
  { st := s, g := g.writeD u d (act.map (fun l => (l, f g l))) }

/-- An instruction that computes one word and conditions in each lane. -/
def fpBody (u : Bool) (d : BitVec 8) (f : Group → Nat → Nat × FpFlags) (s : State) (g : Group) (act : List Nat) : IssueRes :=
  let rs := act.map (fun l => (l, f g l))
  let g' := rs.foldl (fun h (l, r) => h.modTh l (fun t => t.orStat r.2.bits)) g
  { st := s, g := g'.writeD u d (rs.map (fun (l, r) => (l, BitVec.ofNat 32 r.1))) }

/-- An instruction that sets a predicate in each lane. -/
def predBody (d : BitVec 8) (f : Group → Nat → Bool) (s : State) (g : Group) (act : List Nat) : IssueRes :=
  { st := s, g := g.modLanes act (fun l t => t.setPred d.toNat (f g l)) }

/-- The memories of a load, a store or an atomic. -/
inductive Space where
  | global | bank | local
  deriving DecidableEq, Repr

/-- v(B) + OFF, both sign-extended (R245). -/
def laneOffset (g : Group) (l : Nat) (b : BitVec 8) (off : BitVec 16) : Int := sint ((g.th l).reg b.toNat) + off.toInt

/-- The address that a lane forms (R245): in global memory modulo 2^48, otherwise a signed offset. DESIGN CHOICE, log 24. -/
def laneAddr (sp : Space) (g : Group) (l : Nat) (a b : BitVec 8) (off : BitVec 16) : Int :=
  match sp with
  | .global =>
    let base : Nat := fld (g.ureg (a.toNat + 1)) 0 16 * 2 ^ 32 + (g.ureg a.toNat).toNat
    ((base : Int) + laneOffset g l b off) % (2 ^ 48 : Nat)
  | _ => laneOffset g l b off

/-- The address as a trap records it. -/
def addr48 (x : Int) : Addr := BitVec.ofInt 48 x

/-- The local address of an access that passes its checks (R208, R244, R245): misaligned 4, not open to the engine 5, beyond
the block's allocation 6; the lowest code is recorded. -/
def laneCheck (s : State) (e : Nat) (g : Group) (sp : Space) (write : Bool) (n : Nat) (l : Nat) (x : Int) : LaneFault ⊕ Nat :=
  let open_ (m : Master) (a : Nat) : Bool := if write then mappedW s m a n else mapped s m a n
  if x % (n : Int) ≠ 0 then .inl ⟨l, 4, 0, addr48 x⟩
  else match sp with
    | .global => if open_ .teGlobal x.toNat then .inr x.toNat else .inl ⟨l, 5, 0, addr48 x⟩
    | .bank =>
      let p := bankBase s e + x.toNat
      if x < 0 ∨ (0x800000 : Int) < x + (n : Int) then .inl ⟨l, 5, 0, addr48 x⟩
      else if open_ (.teBank e) p then .inr p else .inl ⟨l, 5, 0, BitVec.ofNat 48 p⟩
    | .local => if x < 0 ∨ ((1024 * launchLsize g.launch : Nat) : Int) < x + (n : Int) then .inl ⟨l, 6, 0, addr48 x⟩ else .inr x.toNat

/-- A byte of a block's local store; one that nothing has written is a free value (DESIGN CHOICE, log 16). -/
def Block.byte (b : Block) (i : Nat) : Byte :=
  match look b.store i with
  | some x => x
  | none => Config.freeByte (b.base + i)

/-- Write bytes into a block's local store: an 8-byte word that is wholly written holds no error any longer (R443). -/
def Block.writeBytes (b : Block) (i : Nat) (bs : List Byte) : Block :=
  { b with
    store := bs.zipIdx.foldl (fun t (x, k) => put t (i + k) x) b.store
    bad := b.bad.filter (fun w => !(decide (i ≤ 8 * w) && decide (8 * w + 8 ≤ i + bs.length))) }

/-- n bytes at i of a block's local store touch a word with an uncorrectable error (R443). -/
def Block.poisoned (b : Block) (i n : Nat) : Bool := b.bad.any (fun w => decide (8 * w < i + n) && decide (i < 8 * w + 8))

/-- Bytes that a load of a space returns, and whether they are poisoned (R248). -/
def spaceRead (s : State) (e : Nat) (g : Group) (sp : Space) (p n : Nat) : List Byte × Bool :=
  match sp with
  | .local => match blockOf s e g with
    | some b => (tab n (fun i => b.byte (p + i)), b.poisoned p n)
    | none => ([], false)
  | _ => (readBytes s p n, readPoison s p n)

/-- What a store to a space leaves. -/
def spaceWrite (s : State) (e : Nat) (g : Group) (sp : Space) (p : Nat) (bs : List Byte) (streaming : Bool) : State :=
  match sp with
  | .local => match blockOf s e g with
    | some b => setBlock s e g.block (b.writeBytes p bs)
    | none => s
  | _ => writeBytesHint s p bs false streaming

/-- The words of some bytes, lowest first, the last one zero-extended (R244). -/
def wordsOf (bs : List Byte) : List Word :=
  (chunks 4 32 bs).map (fun c => BitVec.ofNat 32 (ofBytes c))

/-- Write consecutive v registers of a thread (R229). -/
def Thread.setRegs (t : Thread) (d : Nat) (ws : List Word) : Thread :=
  ws.zipIdx.foldl (fun t (w, i) => t.setReg (d + i) w) t

/-- The bytes of the v registers that a store writes (R244). -/
def Thread.regBytes (t : Thread) (d n : Nat) : List Byte :=
  ((List.range (max 1 (n / 4))).map (fun i => bvBytes (t.reg (d + i)))).flatten.take n

end Sys2Proof.Machine
end

