-- ==== Sys2Proof/Machine/ThreadArray.lean ====
section
/-! DEFINITION. Class 0xA: array and trigger control (R253 to R260), each with one effect for a group-issue. -/

namespace Sys2Proof.Machine

/-- The physical array that MOD[1:0] names: array a of the engine's own region (R254). -/
def regionArray (e : Nat) (r : RForm) : Nat := 4 * e + fld r.mod 0 2

/-- MOD[9:2]. -/
def modCount (r : RForm) : Nat := fld r.mod 2 8

/-- Word i of what u(A) onward hold. -/
def uArg (g : Group) (r : RForm) (i : Nat) : Word := g.ureg (r.a.toNat + i)

/-- An effect that takes place once, when some lane has a true guard (R234). -/
def onceBody (f : State → Group → List Nat → IssueRes) (s : State) (g : Group) (act : List Nat) : IssueRes :=
  if act.isEmpty then { st := s, g := g } else f s g act

/-- A trap of the whole instruction: every lane with a true guard meets it (R209). -/
def onceTrap (s : State) (g : Group) (act : List Nat) (code : Nat) (addr : Addr) : IssueRes :=
  { st := s, g := g, faults := act.map (fun l => ⟨l, code, 0, addr⟩) }

/-- The array is granted to the block and enabled (R82, R187). -/
def granted (s : State) (e : Nat) (g : Group) (r : RForm) : Bool :=
  launchGrant g.launch (fld r.mod 0 2) && arrayEnabled s (regionArray e r)

/-- The descriptor in u(A) to u(A + 15), with ORIG, ITEM, TINT and LOT of the launch record (R254, R255). -/
def argDesc (g : Group) (r : RForm) : Desc :=
  let d : Desc := (List.range 16).foldl (fun d i => setFld d (32 * i) 32 (uArg g r i).toNat) 0
  let l := g.launch
  setFld (setFld d 416 32 (fld l 160 32)) 448 16 (fld l 192 16)

/-- apass, apre and adrain (R82, R83, R154, R254, R255): the descriptor is given to the array. -/
def queueBody (e : Nat) (sl : Fin 48) (r : RForm) (op : Nat) : State → Group → List Nat → IssueRes :=
  onceBody (fun s g act =>
    if fld (uArg g r 0) 0 4 ≠ op then onceTrap s g act 1 0
    else if !granted s e g r then onceTrap s g act 2 0
    else
      let (o, t) := issueDesc s (regionArray e r) (argDesc g r) (.group sl g.age)
      { st := t, g := g, stall := match o with
        | .full => true
        | .ringHeld => true
        | _ => false })

/-- APASS (R254, R255). -/
def execApass (e : Fin 50) (sl : Fin 48) (r : RForm) (s : State) : Out :=
  .next (issue s e sl (r.encode 0xA#4 0x00#8) (queueBody e sl r 1))

/-- APRE (R254, R255). -/
def execApre (e : Fin 50) (sl : Fin 48) (r : RForm) (s : State) : Out :=
  .next (issue s e sl (r.encode 0xA#4 0x01#8) (queueBody e sl r 2))

/-- ADRAIN (R154, R254, R255). -/
def execAdrain (e : Fin 50) (sl : Fin 48) (r : RForm) (s : State) : Out :=
  .next (issue s e sl (r.encode 0xA#4 0x02#8) (queueBody e sl r 3))

/-- AWAIT (R254, R256): it stays in issue until the group has MOD[9:2] completions on the array, and consumes them. -/
def execAwait (e : Fin 50) (sl : Fin 48) (r : RForm) (s : State) : Out :=
  .next (issue s e sl (r.encode 0xA#4 0x03#8) (onceBody (fun s g act =>
    let a := fld r.mod 0 2
    let l := g.done.getD a []
    let n := modCount r
    if l.length < n then { st := s, g := g, stall := true }
    else
      let w := ((l.take n).foldl (· ||| ·) 0).setWidth 32
      aluBody r.ud r.d (fun _ _ => w) s { g with done := modAt g.done a (fun l => l.drop n) } act)))

/-- A lake write may start (R171): no pass with XSRC = 0b00 or 0b10 waits, and no other lake write holds the shadow. -/
def lakeOpen (a : ArraySt) : Bool :=
  let waiting := if a.streaming then a.queue.drop 1 else a.queue
  a.lake.isNone && !waiting.any (fun q => decide (descOp q.desc = 1) && decide (descXsrc q.desc = 0 ∨ descXsrc q.desc = 2))

/-- The bytes of a block's local store from an offset. -/
def storeBytes (s : State) (e : Nat) (g : Group) (i n : Nat) : List Byte :=
  match blockOf s e g with
  | some b => tab n (fun k => b.byte (i + k))
  | none => []

/-- The tile that lst takes from the local store (R75, R257). -/
def storeTile (s : State) (e : Nat) (g : Group) (f : Fmt) (off pitch sc mt kt : Nat) : Tile :=
  let row (i : Nat) : List Word :=
    let bs := storeBytes s e g (off + i * pitch) (f.rowBytes kt)
    tab kt (fun k => BitVec.ofNat 32 (f.element bs k))
  let scales (i : Nat) : List Byte := if f.narrow then storeBytes s e g (sc + 8 * i) 8 else []
  { key := launchKey g.launch, fmt := 0, mt := mt, kt := kt, codes := tab mt row, scales := tab mt scales, lake := true, bad := false }

/-- LST (R170, R171, R257): the tile of the local store reserves the shadow slot of the array. -/
def execLst (e : Fin 50) (sl : Fin 48) (r : RForm) (s : State) : Out :=
  .next (issue s e sl (r.encode 0xA#4 0x04#8) (onceBody (fun s g act =>
    let off := (uArg g r 0).toNat
    let pitch := (uArg g r 1).toNat
    let mt := fld (uArg g r 2) 0 8 + 1
    let kt := fld (uArg g r 2) 8 9 + 1
    let code := fld (uArg g r 2) 20 4
    let sc := (uArg g r 3).toNat
    let size := 1024 * launchLsize g.launch
    match Fmt.ofCode code with
    | none => onceTrap s g act 1 0
    | some f =>
      if f.rateClass = none ∨ 128 < mt ∨ (if f.narrow then 256 else 128) < kt then onceTrap s g act 1 0
      else if off % 64 ≠ 0 ∨ pitch % 64 ≠ 0 ∨ (f.narrow ∧ sc % 64 ≠ 0) then onceTrap s g act 4 (BitVec.ofNat 48 off)
      else if size < off + (mt - 1) * pitch + f.rowBytes kt ∨ (f.narrow ∧ size < sc + 8 * mt) then
        onceTrap s g act 6 (BitVec.ofNat 48 off)
      else
        let n := regionArray e r
        let a := arr s n
        if !lakeOpen a then { st := s, g := g, stall := true }
        else
          let t := { storeTile s e g f off pitch sc mt kt with fmt := BitVec.ofNat 4 code }
          { st := setArr s n { a with lake := some ⟨t, false, false⟩ }, g := g })))

/-- The oldest k slots of a ring leave it (R155); while a ring load waits they are kept for it (R274). -/
def Ring.release (r : Ring) (k : Nat) (keep : Bool) : Ring :=
  let gone : Tbl (List Word) := (r.slots.take k).zipIdx.map (fun (x, i) => (r.released + i, x.2))
  { r with slots := r.slots.drop k, released := r.released + k, past := if keep then r.past ++ gone else [] }

/-- A ring load of the engine is in issue. -/
def ringWaits (s : State) (e : Nat) : Bool :=
  (eng s e).groups.any (fun (_, h) => match h.inIssue with
    | some x => !x.slots.isEmpty
    | none => false)

/-- DREL (R155, R258): releasing more slots than are delivered traps and releases nothing. -/
def execDrel (e : Fin 50) (sl : Fin 48) (r : RForm) (s : State) : Out :=
  .next (issue s e sl (r.encode 0xA#4 0x08#8) (onceBody (fun s g act =>
    let a := fld r.mod 0 2
    let x := ring s e a
    if x.slots.length < modCount r then onceTrap s g act 0x0C 0
    else { st := setRing s e a (x.release (modCount r) (ringWaits s e)), g := g })))

/-- DPOP (R153, R254): it stays in issue while the completion FIFO is empty. -/
def execDpop (e : Fin 50) (sl : Fin 48) (r : RForm) (s : State) : Out :=
  .next (issue s e sl (r.encode 0xA#4 0x09#8) (onceBody (fun s g act =>
    let a := fld r.mod 0 2
    let x := ring s e a
    match x.fifo with
    | [] => { st := s, g := g, stall := true }
    | (_, fl, seq) :: q =>
      aluBody r.ud r.d (fun _ _ => BitVec.ofNat 32 (fld fl 0 9 + seq.toNat * 2 ^ 16)) (setRing s e a { x with fifo := q }) g act)))

/-- The trigger table has an entry for the tag, or room for one (R164). -/
def trigRoom (s : State) (k : ItemKey) (tag : Nat) : Bool := (trigOf s k tag).isSome || !trigFull s

/-- TARM (R164, R167, R254, R259): it stays in issue while the table is full, also where its key has an entry. -/
def execTarm (e : Fin 50) (sl : Fin 48) (r : RForm) (s : State) : Out :=
  .next (issue s e sl (r.encode 0xA#4 0x0C#8) (onceBody (fun s g act =>
    let k := launchKey g.launch
    let tag := fld (uArg g r 0) 0 16
    let n := fld (uArg g r 0) 16 16
    if tag = 0 ∨ n = 0 then onceTrap s g act 1 0
    else if trigFull s then { st := setRegBit s Reg.DSP_TRIG_STAT 16, g := g, stall := true }
    else { st := armTag s k tag n, g := g })))

/-- TSIG (R164, R165, R167, R254, R259). -/
def execTsig (e : Fin 50) (sl : Fin 48) (r : RForm) (s : State) : Out :=
  .next (issue s e sl (r.encode 0xA#4 0x0D#8) (onceBody (fun s g act =>
    let k := launchKey g.launch
    let tag := fld (uArg g r 0) 0 16
    if tag = 0 then onceTrap s g act 1 0
    else if !trigRoom s k tag then { st := setRegBit s Reg.DSP_TRIG_STAT 16, g := g, stall := true }
    else { st := countTag s k tag, g := g })))

/-- A partial maximum of a scanrep word: 0x8000_0000 is absent (R254). -/
def scanWord (w : Word) : Option Int := if w = 0x80000000#32 then none else some (sint w)

/-- The greater of two maxima. -/
def maxOpt (a b : Option Int) : Option Int :=
  match a, b with
  | none, y => y
  | x, none => x
  | some x, some y => some (max x y)

/-- A share of a pre-scan is reported (R150, R260): the first report of an engine's block counts; with the last share the
anchor exists. -/
def scanReport (s : State) (k : ItemKey) (t e : Nat) (ex ew eb : Option Int) : State :=
  let f (x : AnchorEntry) : AnchorEntry :=
    if x.key = k ∧ x.t.val = t ∧ x.waiting.any (fun i => i.val == e) then
      let y := { x with waiting := x.waiting.filter (fun i => i.val != e), ex := maxOpt x.ex ex, ew := maxOpt x.ew ew, eb := maxOpt x.eb eb }
      if y.waiting.isEmpty then { y with anchor := some (prescanAnchor y.ex y.ew y.eb y.k.toNat) } else y
    else x
  { s with items := { s.items with anchors := s.items.anchors.map f } }

/-- SCANREP (R150, R254, R260). -/
def execScanrep (e : Fin 50) (sl : Fin 48) (r : RForm) (s : State) : Out :=
  .next (issue s e sl (r.encode 0xA#4 0x0E#8) (onceBody (fun s g _ =>
    { st := scanReport s (launchKey g.launch) (fld (uArg g r 0) 0 4) e (scanWord (uArg g r 1)) (scanWord (uArg g r 2)) (scanWord (uArg g r 3))
      g := g })))

end Sys2Proof.Machine
end

