-- ==== Sys2Proof/Machine/ThreadCtl.lean ====
section
/-! DEFINITION. Classes 0x3, 0x8, 0x9 and 0xB: control, fence, barrier, trap and debug (R202 to R205, R243, R252, R253,
R261), and words that are no instruction (R208, R233). -/

namespace Sys2Proof.Machine

/-- The address of the instruction that lane l issues. -/
def Group.at (g : Group) (l : Nat) : Addr := (g.th l).pc

/-- The target of br and jal (R243). -/
def branchTarget (pc : Addr) (imm : Word) : Addr := pc + imm.signExtend 48

/-- BR (R243). -/
def execBr (e : Fin 50) (sl : Fin 48) (i : IForm) (s : State) : Out :=
  .next (issue s e sl (i.encode 0x3#4 0x00#8) (fun s g act =>
    { st := s, g := g, pcs := act.map (fun l => (l, branchTarget (g.at l) i.imm)) }))

/-- The target of brv in a lane (R243): v(A + 1)[15:0] above v(A). -/
def brvTarget (g : Group) (r : RForm) (l : Nat) : Addr := (g.operand l r.ua (r.a + 1)).extractLsb' 0 16 ++ r.opA g l

/-- BRV (R243): a target that is not 8-byte aligned raises the instruction-fetch trap. -/
def execBrv (e : Fin 50) (sl : Fin 48) (r : RForm) (s : State) : Out :=
  .next (issue s e sl (r.encode 0x3#4 0x01#8) (fun s g act =>
    let bad (l : Nat) : Bool := decide ((brvTarget g r l).toNat % 8 ≠ 0)
    { st := s, g := g
      faults := (act.filter bad).map (fun l => ⟨l, 0x0E, 0, brvTarget g r l⟩)
      pcs := (act.filter (fun l => !bad l)).map (fun l => (l, brvTarget g r l)) }))

/-- JAL (R243): the address of the next instruction goes into v(D), v(D + 1). -/
def execJal (e : Fin 50) (sl : Fin 48) (i : IForm) (s : State) : Out :=
  .next (issue s e sl (i.encode 0x3#4 0x02#8) (fun s g act =>
    let next (l : Nat) : Addr := g.at l + 8
    { st := s
      g := g.modLanes act (fun l t => t.setRegs i.d.toNat [(next l).extractLsb' 0 32, ((next l).extractLsb' 32 16).setWidth 32])
      pcs := act.map (fun l => (l, branchTarget (g.at l) i.imm)) }))

/-- EXIT (R191, R203, R243): the threads exit, and barriers that waited for no one else are released. -/
def execExit (e : Fin 50) (sl : Fin 48) (r : RForm) (s : State) : Out :=
  .next (issue s e sl (r.encode 0x3#4 0x03#8) (fun s g act =>
    { st := s, g := g.modLanes act (fun _ t => { t with exited := true }), post := fun s => settleAll s e sl }))

/-- NAP (R197, R243). -/
def execNap (e : Fin 50) (sl : Fin 48) (i : IForm) (s : State) : Out :=
  .next (issue s e sl (i.encode 0x3#4 0x04#8) (fun s g act =>
    { st := s, g := g.modLanes act (fun _ t => { t with nap := some i.imm.toNat }) }))

/-- RDST (R243). -/
def execRdst (e : Fin 50) (sl : Fin 48) (r : RForm) (s : State) : Out :=
  .next (issue s e sl (r.encode 0x3#4 0x05#8) (aluBody r.ud r.d (fun g l => (g.th l).stat.setWidth 32)))

/-- CLST (R243): clears the STAT bits set in MOD[4:0]. -/
def execClst (e : Fin 50) (sl : Fin 48) (r : RForm) (s : State) : Out :=
  .next (issue s e sl (r.encode 0x3#4 0x06#8) (fun s g act =>
    { st := s, g := g.modLanes act (fun _ t => { t with stat := t.stat &&& ~~~ (r.mod.extractLsb' 0 5) }) }))

/-- FENCE (R252, log 10): every earlier access has reached its point. -/
def execFence (e : Fin 50) (sl : Fin 48) (r : RForm) (s : State) : Out :=
  .next (issue s e sl (r.encode 0x8#4 0x00#8) (fun s g _ => { st := s, g := g }))

/-- Threads arrive at a barrier (R202 to R205): a lane outside its mask, or one whose generation was entered with another
form or mask, traps with code 9. -/
def arrive (e : Fin 50) (sl : Fin 48) (r : RForm) (masked : Bool) (s : State) (g : Group) (act : List Nat) : IssueRes :=
  let block := bit r.mod 0
  let num : Fin 8 := ⟨fld r.mod 1 3 % 8, by omega⟩
  let w : BarWait := ⟨block, num, if masked then some (g.ureg r.a.toNat) else none⟩
  let clash := match barrierForm s e sl g block num with
    | some b => decide (b ≠ w)
    | none => false
  let bad (l : Nat) : Bool := clash || (match w.mask with
    | some m => !bit m l
    | none => false)
  { st := s
    g := g.modLanes (act.filter (fun l => !bad l)) (fun _ t => { t with bar := some w })
    faults := (act.filter bad).map (fun l => ⟨l, 9, num.val, 0⟩)
    post := fun s => settleBarrier s e sl block num }

/-- BAR (R202, R203, R253): MOD[4] = 0. -/
def execBar (e : Fin 50) (sl : Fin 48) (r : RForm) (s : State) : Out :=
  .next (if bit r.mod 4 then s else issue s e sl (r.encode 0x9#4 0x00#8) (arrive e sl r false))

/-- The masked barrier (R204, R205, R253): MOD[4] = 1. -/
def execBarMasked (e : Fin 50) (sl : Fin 48) (r : RForm) (s : State) : Out :=
  .next (if bit r.mod 4 then issue s e sl (r.encode 0x9#4 0x00#8) (arrive e sl r true) else s)

/-- TRAP (R261): the software trap with IMM[7:0] as its detail. -/
def execTrap (e : Fin 50) (sl : Fin 48) (i : IForm) (s : State) : Out :=
  .next (issue s e sl (i.encode 0xB#4 0x00#8) (fun s g act =>
    { st := s, g := g, faults := act.map (fun l => ⟨l, 0x0A, fld i.imm 0 8, 0⟩) }))

/-- RDCYC (R261): the cycle count is time, so its value is free (DESIGN CHOICE, logs 7, 12). -/
def execRdcyc (e : Fin 50) (sl : Fin 48) (r : RForm) (s : State) : Out :=
  .next (issue s e sl (r.encode 0xB#4 0x01#8) (fun s g act =>
    let (w, t) := freeWord s
    aluBody r.ud r.d (fun _ _ => w) t g act))

/-- The subset cannot fetch the instruction at its address (R208). -/
def fetchFault (s : State) (e sl : Nat) : State :=
  startIssue s e sl (fun p => decide (fetchWord s e p.pc = none)) (fun g p =>
    finishIssue e sl g p { st := s, g := g, faults := p.lanes.map (fun l => ⟨l, 0x0E, 0, p.pc⟩) })

/-- An uncorrectable error in the register file, or the predicate and uniform store: the next instruction of the group reads it
(R208, R443). -/
def registerError (s : State) (e sl : Nat) (lane : Fin 32) (loc : Word) : State :=
  match grp s e sl with
  | some g => setGrp (uncorrectable s .te e loc).2 e sl { g with regFault := some lane }
  | none => s

/-- An uncorrectable error in an 8-byte word of the local store of the group's block (R443). -/
def localError (s : State) (e sl word : Nat) (loc : Word) : State :=
  match (grp s e sl).bind (fun g => (blockOf s e g).map (fun b => (g, b))) with
  | some (g, b) =>
    if 8 * word < 1024 * launchLsize b.launch then
      setBlock (uncorrectable s .te e loc).2 e g.block { b with bad := insNat b.bad word }
    else s
  | none => s

/-- An uncorrectable error in an 8-byte word of a delivered slot of a drain ring (R443). -/
def ringError (s : State) (e a slot word : Nat) (loc : Word) : State :=
  let r := ring s e a
  if slot < r.slots.length then setRing (uncorrectable s .te e loc).2 e a { r with bad := (r.released + slot, word) :: r.bad } else s

/-- ILLEGAL_INSTRUCTION (R208, R233, R443): the picked subset fetches a word that is no instruction, or cannot fetch one; or the
engine's SRAMs hold an error that the group meets. DEDUCED, log 33. DESIGN CHOICE, log 75. -/
def execIllegalInstruction (e : Fin 50) (sl : Fin 48) (w : BitVec 64) (what : IssueFault) (s : State) : Out :=
  .next (match what with
    | .word => if legalWord w then s else issue s e sl w (fun s g _ => { st := s, g := g })
    | .fetch => fetchFault s e sl
    | .corrected loc => (correctedError s .te e loc).2
    | .registers lane loc => registerError s e sl lane loc
    | .localStore word loc => localError s e sl word loc
    | .drainRing a slot word loc => ringError s e a slot word loc)

end Sys2Proof.Machine
end

