-- ==== Sys2Proof/Machine/ThreadCvt.lean ====
section
/-! DEFINITION. Class 0x2: the conversion instructions (R240 to R242). -/

namespace Sys2Proof.Machine

/-- The source format: OP[3:0]. -/
def cvtSrc (src : BitVec 4) : Fmt := (Fmt.ofCode src.toNat).getD .fp32

/-- The target format: MOD[9:6]. -/
def cvtDst (m : BitVec 10) : Fmt := (Fmt.ofCode (fld m 6 4)).getD .fp32

/-- The rounding mode: MOD[5:4]. -/
def cvtMode (m : BitVec 10) : RMode := (RMode.ofCode (fld m 4 2)).getD .nearest

/-- OVF: MOD[3]. -/
def cvtOvf (m : BitVec 10) : Bool := bit m 3

/-- The draw of a lane in stochastic mode (R57, R241): k0 from u62 and u63, k1 from a v pair. -/
def laneDraw (g : Group) (l : Nat) (m : BitVec 10) (r : BitVec 8) : Nat :=
  if cvtMode m = .stochastic then
    let t := g.th l
    draw (g.ureg 63 ++ g.ureg 62) (t.reg (r.toNat + 1) ++ t.reg r.toNat)
  else 0

/-- CVT (R50 to R62, R240): the source in the low bits of A, the result zero-extended. -/
def execCvt (e : Fin 50) (sl : Fin 48) (src : BitVec 4) (r : RForm) (s : State) : Out :=
  .next (issue s e sl (r.encode 0x2#4 (0x0#4 ++ src)) (fpBody r.ud r.d (fun g l =>
    let f := cvtSrc src
    cvtValue (cvtDst r.mod) (cvtMode r.mod) (cvtOvf r.mod) (laneDraw g l r.mod r.b) (f.decode (fld (r.opA g l) 0 f.width)))))

/-- CVT.NAR (R240): a block-scaled element in the low bits of A under the scale in B[7:0]. -/
def execCvtNar (e : Fin 50) (sl : Fin 48) (src : BitVec 4) (r : RForm) (s : State) : Out :=
  .next (issue s e sl (r.encode 0x2#4 (0x2#4 ++ src)) (fpBody r.ud r.d (fun g l =>
    cvtValue (cvtDst r.mod) (cvtMode r.mod) (cvtOvf r.mod) (laneDraw g l r.mod r.c)
      (narrowVal (cvtSrc src) (r.opA g l).toNat (fld (r.opB g l) 0 8)))))

/-- The block that CVT.BLK converts: the issuing lanes in ascending order (R63, R64, R240). -/
def blkResult (src : BitVec 4) (r : RForm) (g : Group) (act : List Nat) : Nat × List (Nat × FpFlags) :=
  let f := cvtSrc src
  convertBlock (cvtDst r.mod) (cvtMode r.mod) (act.map (fun l => laneDraw g l r.mod r.b))
    (act.map (fun l => f.decode (fld (r.opA g l) 0 f.width)))

/-- CVT.BLK (R240): each lane's element into D, the scale into u(C). -/
def execCvtBlk (e : Fin 50) (sl : Fin 48) (src : BitVec 4) (r : RForm) (s : State) : Out :=
  .next (issue s e sl (r.encode 0x2#4 (0x3#4 ++ src)) (fun s g act =>
    let (sc, els) := blkResult src r g act
    let x := fpBody r.ud r.d (fun _ l => (els[act.idxOf l]?).getD (0, {})) s g act
    if act.isEmpty then x else { x with g := x.g.setU r.c.toNat (BitVec.ofNat 32 sc) }))

end Sys2Proof.Machine
end

