-- ==== Sys2Proof/Machine/ThreadFp.lean ====
section
/-! DEFINITION. Class 0x1: floating-point arithmetic (R237 to R239). -/

namespace Sys2Proof.Machine

/-- A two-operand FP32 instruction. -/
def fpOpBody (r : RForm) (op : FpOp) : State → Group → List Nat → IssueRes :=
  fpBody r.ud r.d (fun g l => fpArith .fp32 op (fpMode r.mod) (r.opA g l).toNat (r.opB g l).toNat)

/-- A two-operand instruction on BF16 halves. -/
def halfBody (r : RForm) (f : Nat → Nat → Nat → Nat × FpFlags) : State → Group → List Nat → IssueRes :=
  fpBody r.ud r.d (fun g l => onHalves f (r.opA g l) (r.opB g l) (r.opC g l))

/-- A function of one operand. -/
def approxBody (r : RForm) (f : Approx) : State → Group → List Nat → IssueRes :=
  fpBody r.ud r.d (fun g l => approxFn f (fpMode r.mod) (r.opA g l))

/-- FADD (R238). -/
def execFadd (e : Fin 50) (sl : Fin 48) (r : RForm) (s : State) : Out :=
  .next (issue s e sl (r.encode 0x1#4 0x00#8) (fpOpBody r .add))

/-- FSUB (R238). -/
def execFsub (e : Fin 50) (sl : Fin 48) (r : RForm) (s : State) : Out :=
  .next (issue s e sl (r.encode 0x1#4 0x01#8) (fpOpBody r .sub))

/-- FMUL (R238). -/
def execFmul (e : Fin 50) (sl : Fin 48) (r : RForm) (s : State) : Out :=
  .next (issue s e sl (r.encode 0x1#4 0x02#8) (fpOpBody r .mul))

/-- FFMA (R238): A × B + C with one rounding. -/
def execFfma (e : Fin 50) (sl : Fin 48) (r : RForm) (s : State) : Out :=
  .next (issue s e sl (r.encode 0x1#4 0x03#8) (fpBody r.ud r.d
    (fun g l => fpFma .fp32 (fpMode r.mod) (r.opA g l).toNat (r.opB g l).toNat (r.opC g l).toNat)))

/-- FMIN (R238). -/
def execFmin (e : Fin 50) (sl : Fin 48) (r : RForm) (s : State) : Out :=
  .next (issue s e sl (r.encode 0x1#4 0x04#8) (aluBody r.ud r.d (fun g l => fpPick false (r.opA g l) (r.opB g l))))

/-- FMAX (R238). -/
def execFmax (e : Fin 50) (sl : Fin 48) (r : RForm) (s : State) : Out :=
  .next (issue s e sl (r.encode 0x1#4 0x05#8) (aluBody r.ud r.d (fun g l => fpPick true (r.opA g l) (r.opB g l))))

/-- FABS (R238): the sign bit only. -/
def execFabs (e : Fin 50) (sl : Fin 48) (r : RForm) (s : State) : Out :=
  .next (issue s e sl (r.encode 0x1#4 0x06#8) (aluBody r.ud r.d (fun g l => r.opA g l &&& 0x7FFFFFFF#32)))

/-- FNEG (R238): the sign bit only. -/
def execFneg (e : Fin 50) (sl : Fin 48) (r : RForm) (s : State) : Out :=
  .next (issue s e sl (r.encode 0x1#4 0x07#8) (aluBody r.ud r.d (fun g l => r.opA g l ^^^ 0x80000000#32)))

/-- FCMP (R238): p(D[3:0]) := the condition MOD[4:2]. -/
def execFcmp (e : Fin 50) (sl : Fin 48) (r : RForm) (s : State) : Out :=
  .next (issue s e sl (r.encode 0x1#4 0x08#8) (predBody r.d (fun g l => fpCond (fld r.mod 2 3) (r.opA g l) (r.opB g l))))

/-- EXP2 (R238, R239, log 15). -/
def execExp2 (e : Fin 50) (sl : Fin 48) (r : RForm) (s : State) : Out :=
  .next (issue s e sl (r.encode 0x1#4 0x09#8) (approxBody r .exp2))

/-- LOG2 (R238, R239, log 15). -/
def execLog2 (e : Fin 50) (sl : Fin 48) (r : RForm) (s : State) : Out :=
  .next (issue s e sl (r.encode 0x1#4 0x0A#8) (approxBody r .log2))

/-- RCP (R238, R239, log 15). -/
def execRcp (e : Fin 50) (sl : Fin 48) (r : RForm) (s : State) : Out :=
  .next (issue s e sl (r.encode 0x1#4 0x0B#8) (approxBody r .rcp))

/-- RSQRT (R238, R239, log 15). -/
def execRsqrt (e : Fin 50) (sl : Fin 48) (r : RForm) (s : State) : Out :=
  .next (issue s e sl (r.encode 0x1#4 0x0C#8) (approxBody r .rsqrt))

/-- FDIV (R238). -/
def execFdiv (e : Fin 50) (sl : Fin 48) (r : RForm) (s : State) : Out :=
  .next (issue s e sl (r.encode 0x1#4 0x0D#8) (fpOpBody r .div))

/-- HFMA2 (R238). -/
def execHfma2 (e : Fin 50) (sl : Fin 48) (r : RForm) (s : State) : Out :=
  .next (issue s e sl (r.encode 0x1#4 0x10#8) (halfBody r (fpFma .bf16 (fpMode r.mod))))

/-- HADD2 (R238). -/
def execHadd2 (e : Fin 50) (sl : Fin 48) (r : RForm) (s : State) : Out :=
  .next (issue s e sl (r.encode 0x1#4 0x11#8) (halfBody r (fun a b _ => fpArith .bf16 .add (fpMode r.mod) a b)))

/-- HMUL2 (R238). -/
def execHmul2 (e : Fin 50) (sl : Fin 48) (r : RForm) (s : State) : Out :=
  .next (issue s e sl (r.encode 0x1#4 0x12#8) (halfBody r (fun a b _ => fpArith .bf16 .mul (fpMode r.mod) a b)))

end Sys2Proof.Machine
end

