-- ==== Sys2Proof/Machine/ThreadInt.lean ====
section
/-! DEFINITION. Class 0x0: integer and predicate instructions (R236, R237). -/

namespace Sys2Proof.Machine

/-- The count of leading zeros, 32 for zero (R236). -/
def leadingZeros (a : Word) : Nat := if a = 0 then 32 else 31 - Nat.log2 a.toNat

/-- The condition of icmp (R236). -/
def intCond (c : Nat) (a b : Word) : Bool :=
  match c with
  | 0 => decide (a = b) | 1 => decide (a ≠ b) | 2 => decide (sint a < sint b) | 3 => decide (sint a ≤ sint b)
  | 4 => decide (a.toNat < b.toNat) | 5 => decide (a.toNat ≤ b.toNat) | _ => false

/-- A two-operand integer instruction: D := f A B in each lane. -/
def intBody (r : RForm) (f : Word → Word → Word) : State → Group → List Nat → IssueRes :=
  aluBody r.ud r.d (fun g l => f (r.opA g l) (r.opB g l))

/-- The result of iadd: A + B (R236). -/
def iaddOf (a b : Word) : Word := a + b

/-- The result of isub: A − B (R236). -/
def isubOf (a b : Word) : Word := a - b

/-- The result of imul: low 32 bits of A × B (R236). -/
def imulOf (a b : Word) : Word := a * b

/-- The result of imulhiS: high 32 bits of the signed product (R236). -/
def imulhiSOf (a b : Word) : Word := BitVec.ofInt 32 (sint a * sint b / (2 ^ 32 : Nat))

/-- The result of imulhiU: high 32 bits of the unsigned product (R236). -/
def imulhiUOf (a b : Word) : Word := BitVec.ofNat 32 (a.toNat * b.toNat / 2 ^ 32)

/-- The result of and: bitwise (R236). -/
def andOf (a b : Word) : Word := a &&& b

/-- The result of or: bitwise (R236). -/
def orOf (a b : Word) : Word := a ||| b

/-- The result of xor: bitwise (R236). -/
def xorOf (a b : Word) : Word := a ^^^ b

/-- The result of shl: A shifted left by B[4:0] (R236). -/
def shlOf (a b : Word) : Word := a <<< (b.toNat % 32)

/-- The result of shr: A shifted right by B[4:0] (R236). -/
def shrOf (a b : Word) : Word := a >>> (b.toNat % 32)

/-- The result of sar: A shifted right by B[4:0], the sign copied (R236). -/
def sarOf (a b : Word) : Word := a.sshiftRight (b.toNat % 32)

/-- The result of iminS: signed minimum (R236). -/
def iminSOf (a b : Word) : Word := if sint a ≤ sint b then a else b

/-- The result of imaxS: signed maximum (R236). -/
def imaxSOf (a b : Word) : Word := if sint a ≤ sint b then b else a

/-- The result of iminU: unsigned minimum (R236). -/
def iminUOf (a b : Word) : Word := if a.toNat ≤ b.toNat then a else b

/-- The result of imaxU: unsigned maximum (R236). -/
def imaxUOf (a b : Word) : Word := if a.toNat ≤ b.toNat then b else a

/-- The result of idivS: quotient rounded toward zero; R237 for a divisor of zero (R236, R237). -/
def idivSOf (a b : Word) : Word := if b = 0 then 0xFFFFFFFF#32 else BitVec.ofInt 32 (Int.tdiv (sint a) (sint b))

/-- The result of idivU: unsigned quotient (R236, R237). -/
def idivUOf (a b : Word) : Word := if b = 0 then 0xFFFFFFFF#32 else BitVec.ofNat 32 (a.toNat / b.toNat)

/-- The result of iremS: remainder with the sign of A (R236, R237). -/
def iremSOf (a b : Word) : Word := if b = 0 then a else BitVec.ofInt 32 (Int.tmod (sint a) (sint b))

/-- The result of iremU: unsigned remainder (R236, R237). -/
def iremUOf (a b : Word) : Word := if b = 0 then a else BitVec.ofNat 32 (a.toNat % b.toNat)

/-- IADD (R236). -/
def execIadd (e : Fin 50) (sl : Fin 48) (r : RForm) (s : State) : Out :=
  .next (issue s e sl (r.encode 0x0#4 0x00#8) (intBody r iaddOf))

/-- ISUB (R236). -/
def execIsub (e : Fin 50) (sl : Fin 48) (r : RForm) (s : State) : Out :=
  .next (issue s e sl (r.encode 0x0#4 0x01#8) (intBody r isubOf))

/-- IMUL (R236). -/
def execImul (e : Fin 50) (sl : Fin 48) (r : RForm) (s : State) : Out :=
  .next (issue s e sl (r.encode 0x0#4 0x02#8) (intBody r imulOf))

/-- IMULHI.S (R236). -/
def execImulhiS (e : Fin 50) (sl : Fin 48) (r : RForm) (s : State) : Out :=
  .next (issue s e sl (r.encode 0x0#4 0x03#8) (intBody r imulhiSOf))

/-- IMULHI.U (R236). -/
def execImulhiU (e : Fin 50) (sl : Fin 48) (r : RForm) (s : State) : Out :=
  .next (issue s e sl (r.encode 0x0#4 0x04#8) (intBody r imulhiUOf))

/-- AND (R236). -/
def execAnd (e : Fin 50) (sl : Fin 48) (r : RForm) (s : State) : Out :=
  .next (issue s e sl (r.encode 0x0#4 0x06#8) (intBody r andOf))

/-- OR (R236). -/
def execOr (e : Fin 50) (sl : Fin 48) (r : RForm) (s : State) : Out :=
  .next (issue s e sl (r.encode 0x0#4 0x07#8) (intBody r orOf))

/-- XOR (R236). -/
def execXor (e : Fin 50) (sl : Fin 48) (r : RForm) (s : State) : Out :=
  .next (issue s e sl (r.encode 0x0#4 0x08#8) (intBody r xorOf))

/-- SHL (R236). -/
def execShl (e : Fin 50) (sl : Fin 48) (r : RForm) (s : State) : Out :=
  .next (issue s e sl (r.encode 0x0#4 0x0A#8) (intBody r shlOf))

/-- SHR (R236). -/
def execShr (e : Fin 50) (sl : Fin 48) (r : RForm) (s : State) : Out :=
  .next (issue s e sl (r.encode 0x0#4 0x0B#8) (intBody r shrOf))

/-- SAR (R236). -/
def execSar (e : Fin 50) (sl : Fin 48) (r : RForm) (s : State) : Out :=
  .next (issue s e sl (r.encode 0x0#4 0x0C#8) (intBody r sarOf))

/-- IMIN.S (R236). -/
def execIminS (e : Fin 50) (sl : Fin 48) (r : RForm) (s : State) : Out :=
  .next (issue s e sl (r.encode 0x0#4 0x0D#8) (intBody r iminSOf))

/-- IMAX.S (R236). -/
def execImaxS (e : Fin 50) (sl : Fin 48) (r : RForm) (s : State) : Out :=
  .next (issue s e sl (r.encode 0x0#4 0x0E#8) (intBody r imaxSOf))

/-- IMIN.U (R236). -/
def execIminU (e : Fin 50) (sl : Fin 48) (r : RForm) (s : State) : Out :=
  .next (issue s e sl (r.encode 0x0#4 0x0F#8) (intBody r iminUOf))

/-- IMAX.U (R236). -/
def execImaxU (e : Fin 50) (sl : Fin 48) (r : RForm) (s : State) : Out :=
  .next (issue s e sl (r.encode 0x0#4 0x10#8) (intBody r imaxUOf))

/-- IDIV.S (R236). -/
def execIdivS (e : Fin 50) (sl : Fin 48) (r : RForm) (s : State) : Out :=
  .next (issue s e sl (r.encode 0x0#4 0x11#8) (intBody r idivSOf))

/-- IDIV.U (R236). -/
def execIdivU (e : Fin 50) (sl : Fin 48) (r : RForm) (s : State) : Out :=
  .next (issue s e sl (r.encode 0x0#4 0x12#8) (intBody r idivUOf))

/-- IREM.S (R236). -/
def execIremS (e : Fin 50) (sl : Fin 48) (r : RForm) (s : State) : Out :=
  .next (issue s e sl (r.encode 0x0#4 0x13#8) (intBody r iremSOf))

/-- IREM.U (R236). -/
def execIremU (e : Fin 50) (sl : Fin 48) (r : RForm) (s : State) : Out :=
  .next (issue s e sl (r.encode 0x0#4 0x14#8) (intBody r iremUOf))

/-- IMAD (R236): low 32 bits of A × B + C. -/
def execImad (e : Fin 50) (sl : Fin 48) (r : RForm) (s : State) : Out :=
  .next (issue s e sl (r.encode 0x0#4 0x05#8) (aluBody r.ud r.d (fun g l => r.opA g l * r.opB g l + r.opC g l)))

/-- NOT (R236). -/
def execNot (e : Fin 50) (sl : Fin 48) (r : RForm) (s : State) : Out :=
  .next (issue s e sl (r.encode 0x0#4 0x09#8) (aluBody r.ud r.d (fun g l => ~~~ r.opA g l)))

/-- POPC (R236). -/
def execPopc (e : Fin 50) (sl : Fin 48) (r : RForm) (s : State) : Out :=
  .next (issue s e sl (r.encode 0x0#4 0x15#8) (aluBody r.ud r.d (fun g l => BitVec.ofNat 32 (popcount 32 (r.opA g l).toNat))))

/-- CLZ (R236). -/
def execClz (e : Fin 50) (sl : Fin 48) (r : RForm) (s : State) : Out :=
  .next (issue s e sl (r.encode 0x0#4 0x16#8) (aluBody r.ud r.d (fun g l => BitVec.ofNat 32 (leadingZeros (r.opA g l)))))

/-- ICMP (R236): p(D[3:0]) := the condition MOD[2:0]. -/
def execIcmp (e : Fin 50) (sl : Fin 48) (r : RForm) (s : State) : Out :=
  .next (issue s e sl (r.encode 0x0#4 0x17#8) (predBody r.d (fun g l => intCond (fld r.mod 0 3) (r.opA g l) (r.opB g l))))

/-- SEL (R236): A where p(C[3:0]) is 1, otherwise B. -/
def execSel (e : Fin 50) (sl : Fin 48) (r : RForm) (s : State) : Out :=
  .next (issue s e sl (r.encode 0x0#4 0x18#8)
    (aluBody r.ud r.d (fun g l => if (g.th l).pred r.c.toNat then r.opA g l else r.opB g l)))

/-- MOV (R236). -/
def execMov (e : Fin 50) (sl : Fin 48) (r : RForm) (s : State) : Out :=
  .next (issue s e sl (r.encode 0x0#4 0x19#8) (aluBody r.ud r.d (fun g l => r.opA g l)))

/-- MOVI (R236). -/
def execMovi (e : Fin 50) (sl : Fin 48) (i : IForm) (s : State) : Out :=
  .next (issue s e sl (i.encode 0x0#4 0x1A#8) (aluBody i.ud i.d (fun _ _ => i.imm)))

/-- ADDI (R236): D := D + IMM. -/
def execAddi (e : Fin 50) (sl : Fin 48) (i : IForm) (s : State) : Out :=
  .next (issue s e sl (i.encode 0x0#4 0x1B#8) (aluBody i.ud i.d (fun g l => g.operand l i.ud i.d + i.imm)))

/-- PAND (R236). -/
def execPand (e : Fin 50) (sl : Fin 48) (r : RForm) (s : State) : Out :=
  .next (issue s e sl (r.encode 0x0#4 0x1C#8) (predBody r.d (fun g l => (g.th l).pred r.a.toNat && (g.th l).pred r.b.toNat)))

/-- POR (R236). -/
def execPor (e : Fin 50) (sl : Fin 48) (r : RForm) (s : State) : Out :=
  .next (issue s e sl (r.encode 0x0#4 0x1D#8) (predBody r.d (fun g l => (g.th l).pred r.a.toNat || (g.th l).pred r.b.toNat)))

/-- PNOT (R236). -/
def execPnot (e : Fin 50) (sl : Fin 48) (r : RForm) (s : State) : Out :=
  .next (issue s e sl (r.encode 0x0#4 0x1E#8) (predBody r.d (fun g l => !(g.th l).pred r.a.toNat)))

/-- The mask of BALLOT (R236): the issuing lanes with a true guard whose p(A[3:0]) is 1. -/
def ballotMask (g : Group) (act : List Nat) (p : Nat) : Word :=
  (act.filter (fun l => (g.th l).pred p)).foldl (fun w l => w ||| (1#32 <<< l)) 0

/-- BALLOT (R236). -/
def execBallot (e : Fin 50) (sl : Fin 48) (r : RForm) (s : State) : Out :=
  .next (issue s e sl (r.encode 0x0#4 0x1F#8)
    (fun s g act => aluBody r.ud r.d (fun g _ => ballotMask g act r.a.toNat) s g act))

end Sys2Proof.Machine
end

