-- ==== Sys2Proof/Machine/ThreadMem.lean ====
section
/-! DEFINITION. Classes 0x4, 0x5, 0x6 and 0x7: loads, stores and atomics (R199 to R201, R244 to R251). -/

namespace Sys2Proof.Machine

/-- The bytes of an access (R244). -/
def accessSize (m : MForm) : Nat := 2 ^ m.size.toNat

/-- What the accesses of an instruction have done so far. -/
structure AccessRes where
  st : State
  g : Group
  faults : List LaneFault := []

/-- The lanes note the far ports that they use. -/
def noteLane (s : State) (g : Group) (sp : Space) (p : Nat) : State :=
  if sp = .global then noteFar s (launchKey g.launch) p else s

/-- One lane's load (R244, R245, R248, R264): poisoned data traps with code 7 and writes nothing. -/
def loadLane (e : Nat) (sp : Space) (m : MForm) (r : AccessRes) (l : Nat) : AccessRes :=
  match laneCheck r.st e r.g sp false (accessSize m) l (laneAddr sp r.g l m.a m.b m.off) with
  | .inl f => { r with faults := r.faults ++ [f] }
  | .inr p =>
    let (bs, bad) := spaceRead r.st e r.g sp p (accessSize m)
    if bad then { r with faults := r.faults ++ [⟨l, 7, 0, BitVec.ofNat 48 p⟩], st := noteLane r.st r.g sp p }
    else { r with st := noteLane r.st r.g sp p, g := r.g.modTh l (fun t => t.setRegs m.d.toNat (wordsOf bs)) }

/-- One lane's store (R244, R245). -/
def storeLane (e : Nat) (sp : Space) (m : MForm) (r : AccessRes) (l : Nat) : AccessRes :=
  match laneCheck r.st e r.g sp true (accessSize m) l (laneAddr sp r.g l m.a m.b m.off) with
  | .inl f => { r with faults := r.faults ++ [f] }
  | .inr p =>
    let s := spaceWrite r.st e r.g sp p ((r.g.th l).regBytes m.d.toNat (accessSize m)) (decide (m.hint = 1))
    { r with st := noteLane s r.g sp p }

/-- The requests of a load or store: one for each lane whose access passes its checks (R245, R300); the local store is no part of
the memory that ports reach. -/
def accessReqs (s : State) (e : Nat) (sp : Space) (m : MForm) (store : Bool) (g : Group) (act : List Nat) : List LineReq :=
  if sp = .local then []
  else act.filterMap (fun l => match laneCheck s e g sp store (accessSize m) l (laneAddr sp g l m.a m.b m.off) with
    | .inl _ => none
    | .inr p => some ⟨!store, p, accessSize m, false⟩)

/-- A load or store (R245, R247, R280 to R282, R300, R301): once its requests have issued, lane by lane in ascending order (DESIGN
CHOICE, log 24); while a request is held it stays in issue. -/
def accessBody (e : Nat) (sp : Space) (m : MForm) (store : Bool) (s : State) (g : Group) (act : List Nat) : IssueRes :=
  match issueAll s (enginePort s e g.launch (decide (m.hint = 1))) (accessReqs s e sp m store g act) with
  | (false, t) => { st := t, g := g, stall := true }
  | (true, t) =>
    let r := act.foldl (if store then storeLane e sp m else loadLane e sp m) { st := t, g := g }
    { st := r.st, g := r.g, faults := r.faults }

/-- LD_LOCAL (R244, R245): W = 0. -/
def execLdLocal (e : Fin 50) (sl : Fin 48) (m : MForm) (s : State) : Out :=
  .next (if m.w then s else issue s e sl (m.encode 0x4#4 0x00#8) (accessBody e .local m false))

/-- ST_LOCAL (R244 to R246): with W = 1 every lane traps with code 6, or 4 where it is misaligned. -/
def execStLocal (e : Fin 50) (sl : Fin 48) (m : MForm) (s : State) : Out :=
  .next (issue s e sl (m.encode 0x4#4 0x01#8) (fun s g act =>
    if m.w then
      let f (l : Nat) : LaneFault :=
        let x := laneAddr .local g l m.a m.b m.off
        ⟨l, if x % ((accessSize m) : Int) ≠ 0 then 4 else 6, 0, addr48 x⟩
      { st := s, g := g, faults := act.map f }
    else accessBody e .local m true s g act))

/-- The words of the slot that a ring numbers i, once delivered (R246). -/
def Ring.slot (r : Ring) (i : Nat) : Option (List Word) :=
  if i < r.released then look r.past i else (r.slots[i - r.released]?).map (·.2)

/-- The number of the slot that a lane's ring load names: fixed when the load issued (R246, R274). -/
def ringNumber (r : Ring) (g : Group) (l i : Nat) : Nat :=
  match g.inIssue.bind (fun x => x.slots.find? (fun y => decide (y.1 = l))) with
  | some y => y.2
  | none => r.released + i

/-- What a lane finds in the drain-ring window (R246): a fault, or the number of its slot and the bytes of R153, none of an
undelivered one; an uncorrectable error is poisoned data (R443). -/
def ringLane (s : State) (e : Nat) (m : MForm) (g : Group) (l : Nat) : LaneFault ⊕ (Nat × Option (List Byte)) :=
  let x := laneAddr .local g l m.a m.b m.off
  let o := x.toNat
  let a := nfld o 17 2
  let i := nfld o 9 8
  let b := nfld o 0 9
  let r := ring s e a
  let k := ringNumber r g l i
  if x % ((accessSize m) : Int) ≠ 0 then .inl ⟨l, 4, 0, addr48 x⟩
  else if x < 0 ∨ 0x7FFFF < x ∨ ringSlots s e a ≤ i then .inl ⟨l, 6, 0, addr48 x⟩
  else if r.bad.any (fun (j, w) => decide (j = k) && decide (8 * w < b + accessSize m) && decide (b < 8 * w + 8)) then .inl ⟨l, 7, 0, addr48 x⟩
  else .inr (k, (r.slot k).map (fun ws => ((ws.map bvBytes).flatten.drop b).take (accessSize m)))

/-- A ring load: it stays in issue while a lane's slot has not been delivered, each lane keeping the slot that it named (R246,
R274). -/
def ringBody (e : Nat) (m : MForm) (s : State) (g : Group) (act : List Nat) : IssueRes :=
  let rs := act.map (fun l => (l, ringLane s e m g l))
  let named : List (Nat × Nat × Option (List Byte)) := rs.filterMap (fun (l, r) => match r with
    | .inr (k, bs) => some (l, k, bs)
    | .inl _ => none)
  let faults : List LaneFault := rs.filterMap (fun (_, r) => match r with
    | .inl f => some f
    | .inr _ => none)
  if named.any (fun x => x.2.2.isNone) then { st := s, g := g, stall := true, slots := named.map (fun x => (x.1, x.2.1)) }
  else
    { st := s
      g := named.foldl (fun g (l, _, bs) => g.modTh l (fun t => t.setRegs m.d.toNat (wordsOf (bs.getD [])))) g
      faults := faults }

/-- LD_RING (R246): W = 1. -/
def execLdRing (e : Fin 50) (sl : Fin 48) (m : MForm) (s : State) : Out :=
  .next (if !m.w then s else issue s e sl (m.encode 0x4#4 0x00#8) (ringBody e m))

/-- LD_BANK (R244, R245). -/
def execLdBank (e : Fin 50) (sl : Fin 48) (m : MForm) (s : State) : Out :=
  .next (issue s e sl (m.encode 0x5#4 0x00#8) (accessBody e .bank m false))

/-- ST_BANK (R244, R245). -/
def execStBank (e : Fin 50) (sl : Fin 48) (m : MForm) (s : State) : Out :=
  .next (issue s e sl (m.encode 0x5#4 0x01#8) (accessBody e .bank m true))

/-- LD_GLOBAL (R244, R245, R248). -/
def execLdGlobal (e : Fin 50) (sl : Fin 48) (m : MForm) (s : State) : Out :=
  .next (issue s e sl (m.encode 0x6#4 0x00#8) (accessBody e .global m false))

/-- ST_GLOBAL (R244, R245, R247). -/
def execStGlobal (e : Fin 50) (sl : Fin 48) (m : MForm) (s : State) : Out :=
  .next (issue s e sl (m.encode 0x6#4 0x01#8) (accessBody e .global m true))

/-- The operations of R249. -/
inductive AtomOp where
  | add | sub | and | or | xor | minS | maxS | minU | maxU | exch | cas | fadd | load | store
  deriving DecidableEq, Repr

/-- OP of an atomic (R249). -/
def AtomOp.op : AtomOp → BitVec 8
  | .add => 0 | .sub => 1 | .and => 2 | .or => 3 | .xor => 4 | .minS => 5 | .maxS => 6 | .minU => 7 | .maxU => 8
  | .exch => 9 | .cas => 0xA | .fadd => 0xB | .load => 0xC | .store => 0xD

/-- The word after one thread's operation, given v(C) and v(E) (R249); FP32 adds are combined by their tree instead. -/
def AtomOp.apply (o : AtomOp) (w c e : Word) : Word :=
  match o with
  | .add => w + c
  | .sub => w - c
  | .and => w &&& c
  | .or => w ||| c
  | .xor => w ^^^ c
  | .minS => if sint w ≤ sint c then w else c
  | .maxS => if sint w ≤ sint c then c else w
  | .minU => if w.toNat ≤ c.toNat then w else c
  | .maxU => if w.toNat ≤ c.toNat then c else w
  | .exch => c
  | .cas => if w = c then e else w
  | .fadd => w
  | .load => w
  | .store => c

/-- An FP32 add rounded to nearest even (R201). -/
def fadd32 (a b : Word) : Word := BitVec.ofNat 32 (fpArith .fp32 .add .nearest a.toNat b.toNat).1

/-- One level of the tree of R201: an absent input passes the other. -/
def treeLevel : List (Option Word) → List (Option Word)
  | some a :: some b :: t => some (fadd32 a b) :: treeLevel t
  | some a :: none :: t => some a :: treeLevel t
  | none :: b :: t => b :: treeLevel t
  | [a] => [a]
  | [] => []

/-- The root of the tree over lanes 0 to 31 (R201). -/
def treeRoot (leaves : List (Option Word)) : Option Word :=
  ((treeLevel (treeLevel (treeLevel (treeLevel (treeLevel leaves))))).head?).join

/-- The threads of one combined request (R199 to R201): the words they receive, in lane order, and the word afterwards. -/
def combine (o : AtomOp) (w : Word) (g : Group) (c e : BitVec 8) (ls : List Nat) : List (Nat × Word) × Word :=
  let val (r : BitVec 8) (l : Nat) : Word := (g.th l).reg r.toNat
  if o = .fadd then
    let leaves := lanes32.map (fun l => if ls.contains l then some (val c l) else none)
    (ls.map (fun l => (l, w)), match treeRoot leaves with
      | some x => fadd32 w x
      | none => w)
  else ls.foldl (fun (rs, w) l => (rs ++ [(l, w)], o.apply w (val c l) (val e l))) ([], w)

/-- SPACE of an atomic (R249). -/
def atomSpace (m : AForm) : Space := if m.space = 0 then .global else if m.space = 1 then .bank else .local

/-- One combined request at a local address (R199, R248, R249, R251). -/
def atomRequest (e : Nat) (o : AtomOp) (m : AForm) (r : AccessRes) (p : Nat) (ls : List Nat) : AccessRes :=
  let sp := atomSpace m
  let s := noteLane r.st r.g sp p
  let (bs, bad) := spaceRead s e r.g sp p 4
  if bad && decide (o ≠ .store) then
    { r with st := s, faults := r.faults ++ ls.map (fun l => ⟨l, 7, 0, BitVec.ofNat 48 p⟩) }
  else
    let w := BitVec.ofNat 32 (ofBytes bs)
    let (got, w') := combine o w r.g m.c m.e ls
    let s := if o = .load then s else spaceWrite s e r.g sp p (bvBytes w') false
    let g := if o = .store then r.g else got.foldl (fun g (l, x) => g.modTh l (fun t => t.setReg m.d.toNat x)) r.g
    { r with st := s, g := g }

/-- The requests of an atomic on words at some addresses (R251, R300); the local store is no part of the memory that ports reach. -/
def atomReqs (sp : Space) (o : AtomOp) (ps : List Nat) : List LineReq :=
  if sp = .local then [] else ps.map (fun p => ⟨decide (o = .load), p, 4, decide (o ≠ .load)⟩)

/-- An atomic (R199 to R201, R249 to R251, R280, R300, R301): lanes that name one word make one request, in the order of their first
lane; while a request is held it stays in issue. -/
def atomBody (e : Nat) (o : AtomOp) (m : AForm) (s : State) (g : Group) (act : List Nat) : IssueRes :=
  let sp := atomSpace m
  let chk (l : Nat) : LaneFault ⊕ Nat := laneCheck s e g sp (decide (o ≠ .load)) 4 l (laneAddr sp g l m.a m.b 0)
  let faults : List LaneFault := act.filterMap (fun l => match chk l with
    | .inl f => some f
    | .inr _ => none)
  let at_ : List (Nat × Nat) := act.filterMap (fun l => match chk l with
    | .inl _ => none
    | .inr p => some (p, l))
  let reqs : List Nat := (at_.map (·.1)).eraseDups
  match issueAll s (enginePort s e g.launch false) (atomReqs sp o reqs) with
  | (false, t) => { st := t, g := g, stall := true }
  | (true, t) =>
    let r := reqs.foldl (fun r p => atomRequest e o m r p ((at_.filter (fun x => decide (x.1 = p))).map (·.2)))
      { st := t, g := g, faults := faults }
    { st := r.st, g := r.g, faults := r.faults }

/-- AADD (R249). DESIGN CHOICE, log 24. -/
def execAadd (e : Fin 50) (sl : Fin 48) (m : AForm) (s : State) : Out :=
  .next (issue s e sl (m.encode 0x7#4 0x00#8) (atomBody e .add m))

/-- ASUB (R249). -/
def execAsub (e : Fin 50) (sl : Fin 48) (m : AForm) (s : State) : Out :=
  .next (issue s e sl (m.encode 0x7#4 0x01#8) (atomBody e .sub m))

/-- AAND (R249). -/
def execAand (e : Fin 50) (sl : Fin 48) (m : AForm) (s : State) : Out :=
  .next (issue s e sl (m.encode 0x7#4 0x02#8) (atomBody e .and m))

/-- AOR (R249). -/
def execAor (e : Fin 50) (sl : Fin 48) (m : AForm) (s : State) : Out :=
  .next (issue s e sl (m.encode 0x7#4 0x03#8) (atomBody e .or m))

/-- AXOR (R249). -/
def execAxor (e : Fin 50) (sl : Fin 48) (m : AForm) (s : State) : Out :=
  .next (issue s e sl (m.encode 0x7#4 0x04#8) (atomBody e .xor m))

/-- AMIN.S (R249). -/
def execAminS (e : Fin 50) (sl : Fin 48) (m : AForm) (s : State) : Out :=
  .next (issue s e sl (m.encode 0x7#4 0x05#8) (atomBody e .minS m))

/-- AMAX.S (R249). -/
def execAmaxS (e : Fin 50) (sl : Fin 48) (m : AForm) (s : State) : Out :=
  .next (issue s e sl (m.encode 0x7#4 0x06#8) (atomBody e .maxS m))

/-- AMIN.U (R249). -/
def execAminU (e : Fin 50) (sl : Fin 48) (m : AForm) (s : State) : Out :=
  .next (issue s e sl (m.encode 0x7#4 0x07#8) (atomBody e .minU m))

/-- AMAX.U (R249). -/
def execAmaxU (e : Fin 50) (sl : Fin 48) (m : AForm) (s : State) : Out :=
  .next (issue s e sl (m.encode 0x7#4 0x08#8) (atomBody e .maxU m))

/-- AEXCH (R249). -/
def execAexch (e : Fin 50) (sl : Fin 48) (m : AForm) (s : State) : Out :=
  .next (issue s e sl (m.encode 0x7#4 0x09#8) (atomBody e .exch m))

/-- ACAS (R249): writes v(E) when the word equals v(C). -/
def execAcas (e : Fin 50) (sl : Fin 48) (m : AForm) (s : State) : Out :=
  .next (issue s e sl (m.encode 0x7#4 0x0A#8) (atomBody e .cas m))

/-- AFADD (R201, R249). -/
def execAfadd (e : Fin 50) (sl : Fin 48) (m : AForm) (s : State) : Out :=
  .next (issue s e sl (m.encode 0x7#4 0x0B#8) (atomBody e .fadd m))

/-- ALOAD (R249, R251). -/
def execAload (e : Fin 50) (sl : Fin 48) (m : AForm) (s : State) : Out :=
  .next (issue s e sl (m.encode 0x7#4 0x0C#8) (atomBody e .load m))

/-- ASTORE (R249, R251). -/
def execAstore (e : Fin 50) (sl : Fin 48) (m : AForm) (s : State) : Out :=
  .next (issue s e sl (m.encode 0x7#4 0x0D#8) (atomBody e .store m))

end Sys2Proof.Machine
end

