-- ==== Sys2Proof/Machine/Dispatch.lean ====
section
/-! DEFINITION. One arm per command: its meaning, by one direct call. -/

namespace Sys2Proof.Machine

/-- The effect of a command on everything but the queue. DESIGN CHOICE, log 1. -/
def exec (i : Instr) (s : State) : Host.Outcome State Fault Refusal :=
  match i with
  | .registerWrite path off size data poisoned hwSet => Sys2Proof.Machine.execRegisterWrite path off size data poisoned hwSet s
  | .pllLossOfLock which => Sys2Proof.Machine.execPllLossOfLock which s
  | .deviceFault cause => Sys2Proof.Machine.execDeviceFault cause s
  | .descriptorQueueEntry n desc => Sys2Proof.Machine.execDescriptorQueueEntry n desc s
  | .passStart n => Sys2Proof.Machine.execPassStart n s
  | .tileLoadComplete n => Sys2Proof.Machine.execTileLoadComplete n s
  | .passComplete c => Sys2Proof.Machine.execPassComplete c s
  | .stopRequest n slot => Sys2Proof.Machine.execStopRequest n slot s
  | .stopDone n => Sys2Proof.Machine.execStopDone n s
  | .passFault n f => Sys2Proof.Machine.execPassFault n f s
  | .taCntClear n v => Sys2Proof.Machine.execTaCntClear n v s
  | .taHighClr n v => Sys2Proof.Machine.execTaHighClr n v s
  | .taStopReq n v slot => Sys2Proof.Machine.execTaStopReq n v slot s
  | .taStopResume n v => Sys2Proof.Machine.execTaStopResume n v s
  | .preloadStart n => Sys2Proof.Machine.execPreloadStart n s
  | .preloadComplete n => Sys2Proof.Machine.execPreloadComplete n s
  | .drainEnter n => Sys2Proof.Machine.execDrainEnter n s
  | .drainColumnRead r => Sys2Proof.Machine.execDrainColumnRead r s
  | .drainComplete n => Sys2Proof.Machine.execDrainComplete n s
  | .scrubVisit kind inst loc detail res lapEnd lap => Sys2Proof.Machine.execScrubVisit kind inst loc detail res lapEnd lap s
  | .lapSlow kind inst lap => Sys2Proof.Machine.execLapSlow kind inst lap s
  | .accvEnWrite n v => Sys2Proof.Machine.execAccvEnWrite n v s
  | .accvSelWrite n v => Sys2Proof.Machine.execAccvSelWrite n v s
  | .accvReadComplete n corrected uncorr => Sys2Proof.Machine.execAccvReadComplete n corrected uncorr s
  | .dringCfgWrite e a v => Sys2Proof.Machine.execDringCfgWrite e a v s
  | .lakeWriteComplete n => Sys2Proof.Machine.execLakeWriteComplete n s
  | .launch e rec => Sys2Proof.Machine.execLaunch e rec s
  | .groupFreed e sl => Sys2Proof.Machine.execGroupFreed e sl s
  | .groupPromotion e sl => Sys2Proof.Machine.execGroupPromotion e sl s
  | .napEnd e sl lane => Sys2Proof.Machine.execNapEnd e sl lane s
  | .barrierTimeout e sl block bar => Sys2Proof.Machine.execBarrierTimeout e sl block bar s
  | .dbgHalt e v => Sys2Proof.Machine.execDbgHalt e v s
  | .haltComplete e sl => Sys2Proof.Machine.execHaltComplete e sl s
  | .dbgResume e v => Sys2Proof.Machine.execDbgResume e v s
  | .dbgStep e v => Sys2Proof.Machine.execDbgStep e v s
  | .haltAll e v => Sys2Proof.Machine.execHaltAll e v s
  | .resumeAll e v => Sys2Proof.Machine.execResumeAll e v s
  | .dbgDataWrite e v => Sys2Proof.Machine.execDbgDataWrite e v s
  | .teCntClear e v => Sys2Proof.Machine.execTeCntClear e v s
  | .iadd e sl r => Sys2Proof.Machine.execIadd e sl r s
  | .isub e sl r => Sys2Proof.Machine.execIsub e sl r s
  | .imul e sl r => Sys2Proof.Machine.execImul e sl r s
  | .imulhiS e sl r => Sys2Proof.Machine.execImulhiS e sl r s
  | .imulhiU e sl r => Sys2Proof.Machine.execImulhiU e sl r s
  | .imad e sl r => Sys2Proof.Machine.execImad e sl r s
  | .and e sl r => Sys2Proof.Machine.execAnd e sl r s
  | .or e sl r => Sys2Proof.Machine.execOr e sl r s
  | .xor e sl r => Sys2Proof.Machine.execXor e sl r s
  | .not e sl r => Sys2Proof.Machine.execNot e sl r s
  | .shl e sl r => Sys2Proof.Machine.execShl e sl r s
  | .shr e sl r => Sys2Proof.Machine.execShr e sl r s
  | .sar e sl r => Sys2Proof.Machine.execSar e sl r s
  | .iminS e sl r => Sys2Proof.Machine.execIminS e sl r s
  | .imaxS e sl r => Sys2Proof.Machine.execImaxS e sl r s
  | .iminU e sl r => Sys2Proof.Machine.execIminU e sl r s
  | .imaxU e sl r => Sys2Proof.Machine.execImaxU e sl r s
  | .idivS e sl r => Sys2Proof.Machine.execIdivS e sl r s
  | .idivU e sl r => Sys2Proof.Machine.execIdivU e sl r s
  | .iremS e sl r => Sys2Proof.Machine.execIremS e sl r s
  | .iremU e sl r => Sys2Proof.Machine.execIremU e sl r s
  | .popc e sl r => Sys2Proof.Machine.execPopc e sl r s
  | .clz e sl r => Sys2Proof.Machine.execClz e sl r s
  | .icmp e sl r => Sys2Proof.Machine.execIcmp e sl r s
  | .sel e sl r => Sys2Proof.Machine.execSel e sl r s
  | .mov e sl r => Sys2Proof.Machine.execMov e sl r s
  | .movi e sl f => Sys2Proof.Machine.execMovi e sl f s
  | .addi e sl f => Sys2Proof.Machine.execAddi e sl f s
  | .pand e sl r => Sys2Proof.Machine.execPand e sl r s
  | .por e sl r => Sys2Proof.Machine.execPor e sl r s
  | .pnot e sl r => Sys2Proof.Machine.execPnot e sl r s
  | .ballot e sl r => Sys2Proof.Machine.execBallot e sl r s
  | .fadd e sl r => Sys2Proof.Machine.execFadd e sl r s
  | .fsub e sl r => Sys2Proof.Machine.execFsub e sl r s
  | .fmul e sl r => Sys2Proof.Machine.execFmul e sl r s
  | .ffma e sl r => Sys2Proof.Machine.execFfma e sl r s
  | .fmin e sl r => Sys2Proof.Machine.execFmin e sl r s
  | .fmax e sl r => Sys2Proof.Machine.execFmax e sl r s
  | .fabs e sl r => Sys2Proof.Machine.execFabs e sl r s
  | .fneg e sl r => Sys2Proof.Machine.execFneg e sl r s
  | .fcmp e sl r => Sys2Proof.Machine.execFcmp e sl r s
  | .exp2 e sl r => Sys2Proof.Machine.execExp2 e sl r s
  | .log2 e sl r => Sys2Proof.Machine.execLog2 e sl r s
  | .rcp e sl r => Sys2Proof.Machine.execRcp e sl r s
  | .rsqrt e sl r => Sys2Proof.Machine.execRsqrt e sl r s
  | .fdiv e sl r => Sys2Proof.Machine.execFdiv e sl r s
  | .hfma2 e sl r => Sys2Proof.Machine.execHfma2 e sl r s
  | .hadd2 e sl r => Sys2Proof.Machine.execHadd2 e sl r s
  | .hmul2 e sl r => Sys2Proof.Machine.execHmul2 e sl r s
  | .cvt e sl src r => Sys2Proof.Machine.execCvt e sl src r s
  | .cvtNar e sl src r => Sys2Proof.Machine.execCvtNar e sl src r s
  | .cvtBlk e sl src r => Sys2Proof.Machine.execCvtBlk e sl src r s
  | .br e sl f => Sys2Proof.Machine.execBr e sl f s
  | .brv e sl r => Sys2Proof.Machine.execBrv e sl r s
  | .jal e sl f => Sys2Proof.Machine.execJal e sl f s
  | .exit e sl r => Sys2Proof.Machine.execExit e sl r s
  | .nap e sl f => Sys2Proof.Machine.execNap e sl f s
  | .rdst e sl r => Sys2Proof.Machine.execRdst e sl r s
  | .clst e sl r => Sys2Proof.Machine.execClst e sl r s
  | .ldLocal e sl m => Sys2Proof.Machine.execLdLocal e sl m s
  | .stLocal e sl m => Sys2Proof.Machine.execStLocal e sl m s
  | .ldRing e sl m => Sys2Proof.Machine.execLdRing e sl m s
  | .ldBank e sl m => Sys2Proof.Machine.execLdBank e sl m s
  | .stBank e sl m => Sys2Proof.Machine.execStBank e sl m s
  | .ldGlobal e sl m => Sys2Proof.Machine.execLdGlobal e sl m s
  | .stGlobal e sl m => Sys2Proof.Machine.execStGlobal e sl m s
  | .aadd e sl m => Sys2Proof.Machine.execAadd e sl m s
  | .asub e sl m => Sys2Proof.Machine.execAsub e sl m s
  | .aand e sl m => Sys2Proof.Machine.execAand e sl m s
  | .aor e sl m => Sys2Proof.Machine.execAor e sl m s
  | .axor e sl m => Sys2Proof.Machine.execAxor e sl m s
  | .aminS e sl m => Sys2Proof.Machine.execAminS e sl m s
  | .amaxS e sl m => Sys2Proof.Machine.execAmaxS e sl m s
  | .aminU e sl m => Sys2Proof.Machine.execAminU e sl m s
  | .amaxU e sl m => Sys2Proof.Machine.execAmaxU e sl m s
  | .aexch e sl m => Sys2Proof.Machine.execAexch e sl m s
  | .acas e sl m => Sys2Proof.Machine.execAcas e sl m s
  | .afadd e sl m => Sys2Proof.Machine.execAfadd e sl m s
  | .aload e sl m => Sys2Proof.Machine.execAload e sl m s
  | .astore e sl m => Sys2Proof.Machine.execAstore e sl m s
  | .fence e sl r => Sys2Proof.Machine.execFence e sl r s
  | .bar e sl r => Sys2Proof.Machine.execBar e sl r s
  | .barMasked e sl r => Sys2Proof.Machine.execBarMasked e sl r s
  | .apass e sl r => Sys2Proof.Machine.execApass e sl r s
  | .apre e sl r => Sys2Proof.Machine.execApre e sl r s
  | .adrain e sl r => Sys2Proof.Machine.execAdrain e sl r s
  | .await e sl r => Sys2Proof.Machine.execAwait e sl r s
  | .lst e sl r => Sys2Proof.Machine.execLst e sl r s
  | .drel e sl r => Sys2Proof.Machine.execDrel e sl r s
  | .dpop e sl r => Sys2Proof.Machine.execDpop e sl r s
  | .tarm e sl r => Sys2Proof.Machine.execTarm e sl r s
  | .tsig e sl r => Sys2Proof.Machine.execTsig e sl r s
  | .scanrep e sl r => Sys2Proof.Machine.execScanrep e sl r s
  | .trap e sl f => Sys2Proof.Machine.execTrap e sl f s
  | .rdcyc e sl r => Sys2Proof.Machine.execRdcyc e sl r s
  | .scRequest a => Sys2Proof.Machine.execScRequest a s
  | .scMissFill f => Sys2Proof.Machine.execScMissFill f s
  | .tintEpoch => Sys2Proof.Machine.execTintEpoch s
  | .flushReq v => Sys2Proof.Machine.execFlushReq v s
  | .flushInval v => Sys2Proof.Machine.execFlushInval v s
  | .flushDone => Sys2Proof.Machine.execFlushDone s
  | .holdWaysWrite v => Sys2Proof.Machine.execHoldWaysWrite v s
  | .holdChangeComplete => Sys2Proof.Machine.execHoldChangeComplete s
  | .scHighClr sl_ v => Sys2Proof.Machine.execScHighClr sl_ v s
  | .vcWordResend ch write wires => Sys2Proof.Machine.execVcWordResend ch write wires s
  | .wireReplacementComplete ch write => Sys2Proof.Machine.execWireReplacementComplete ch write s
  | .sliceRetirement sl readLost => Sys2Proof.Machine.execSliceRetirement sl readLost s
  | .moverGo m v => Sys2Proof.Machine.execMoverGo m v s
  | .moverDescriptorComplete m => Sys2Proof.Machine.execMoverDescriptorComplete m s
  | .tintLimWrite t r v => Sys2Proof.Machine.execTintLimWrite t r v s
  | .recalibration c retries temp => Sys2Proof.Machine.execRecalibration c retries temp s
  | .controllerRetirement c => Sys2Proof.Machine.execControllerRetirement c s
  | .commit p granule => Sys2Proof.Machine.execCommit p granule s
  | .commitGranuleComplete p granule ok => Sys2Proof.Machine.execCommitGranuleComplete p granule ok s
  | .journalRecordComplete p granule => Sys2Proof.Machine.execJournalRecordComplete p granule s
  | .refresh p granule => Sys2Proof.Machine.execRefresh p granule s
  | .poweredHour p => Sys2Proof.Machine.execPoweredHour p s
  | .fm576Event p granules => Sys2Proof.Machine.execFm576Event p granules s
  | .persistReq v => Sys2Proof.Machine.execPersistReq v s
  | .persistComplete => Sys2Proof.Machine.execPersistComplete s
  | .farPortLinkLoss p => Sys2Proof.Machine.execFarPortLinkLoss p s
  | .farLinkReturn p found => Sys2Proof.Machine.execFarLinkReturn p found s
  | .format p v => Sys2Proof.Machine.execFormat p v s
  | .unmount p v => Sys2Proof.Machine.execUnmount p v s
  | .mount p v => Sys2Proof.Machine.execMount p v s
  | .work port pkt => Sys2Proof.Machine.execWork port pkt s
  | .itemDispatch key acts => Sys2Proof.Machine.execItemDispatch key acts s
  | .data port pkt => Sys2Proof.Machine.execData port pkt s
  | .itemComplete key inline => Sys2Proof.Machine.execItemComplete key inline s
  | .result port pkt => Sys2Proof.Machine.execResult port pkt s
  | .ack port pkt => Sys2Proof.Machine.execAck port pkt s
  | .nack port pkt => Sys2Proof.Machine.execNack port pkt s
  | .lot port pkt => Sys2Proof.Machine.execLot port pkt s
  | .resendTimeout key typ pseq => Sys2Proof.Machine.execResendTimeout key typ pseq s
  | .itemTimeout item => Sys2Proof.Machine.execItemTimeout item s
  | .submit ring entry payload => Sys2Proof.Machine.execSubmit ring entry payload s
  | .migrate ring entry => Sys2Proof.Machine.execMigrate ring entry s
  | .cancel ring entry => Sys2Proof.Machine.execCancel ring entry s
  | .completionEntryWrite ring => Sys2Proof.Machine.execCompletionEntryWrite ring s
  | .sqTailWrite ring v => Sys2Proof.Machine.execSqTailWrite ring v s
  | .cqHeadWrite ring v => Sys2Proof.Machine.execCqHeadWrite ring v s
  | .ringCfgWrite ring v => Sys2Proof.Machine.execRingCfgWrite ring v s
  | .ringBaseWrite ring which v => Sys2Proof.Machine.execRingBaseWrite ring which v s
  | .trainingComplete q res => Sys2Proof.Machine.execTrainingComplete q res s
  | .trainingRetry q => Sys2Proof.Machine.execTrainingRetry q s
  | .retrain q v => Sys2Proof.Machine.execRetrain q v s
  | .laneFail q tx lane => Sys2Proof.Machine.execLaneFail q tx lane s
  | .inServiceRetrainComplete q ok => Sys2Proof.Machine.execInServiceRetrainComplete q ok s
  | .dataFrame q f => Sys2Proof.Machine.execDataFrame q f s
  | .linkControlFrame q f => Sys2Proof.Machine.execLinkControlFrame q f s
  | .idleFrame q f => Sys2Proof.Machine.execIdleFrame q f s
  | .replayTimeout q => Sys2Proof.Machine.execReplayTimeout q s
  | .linkControlSend q => Sys2Proof.Machine.execLinkControlSend q s
  | .portDown q => Sys2Proof.Machine.execPortDown q s
  | .packetForward q pkt hop => Sys2Proof.Machine.execPacketForward q pkt hop s
  | .reorderTimeout q => Sys2Proof.Machine.execReorderTimeout q s
  | .hello q m => Sys2Proof.Machine.execHello q m s
  | .probe q mgrSerial rpath => Sys2Proof.Machine.execProbe q mgrSerial rpath s
  | .probeReply m => Sys2Proof.Machine.execProbeReply m s
  | .probeTimeout path => Sys2Proof.Machine.execProbeTimeout path s
  | .assign q m => Sys2Proof.Machine.execAssign q m s
  | .assignAck serial accept reason => Sys2Proof.Machine.execAssignAck serial accept reason s
  | .routeSet m => Sys2Proof.Machine.execRouteSet m s
  | .routeAck serial gen => Sys2Proof.Machine.execRouteAck serial gen s
  | .routeSetTimeout serial => Sys2Proof.Machine.execRouteSetTimeout serial s
  | .linkEvent m => Sys2Proof.Machine.execLinkEvent m s
  | .heartbeatInterval => Sys2Proof.Machine.execHeartbeatInterval s
  | .heartbeat mgrSerial => Sys2Proof.Machine.execHeartbeat mgrSerial s
  | .heartbeatReply serial => Sys2Proof.Machine.execHeartbeatReply serial s
  | .managerLoss => Sys2Proof.Machine.execManagerLoss s
  | .left m => Sys2Proof.Machine.execLeft m s
  | .leftTimeout member pseq => Sys2Proof.Machine.execLeftTimeout member pseq s
  | .leave devId => Sys2Proof.Machine.execLeave devId s
  | .domainInfo serial domain links => Sys2Proof.Machine.execDomainInfo serial domain links s
  | .domainRoute links => Sys2Proof.Machine.execDomainRoute links s
  | .joinWaitTimeout => Sys2Proof.Machine.execJoinWaitTimeout s
  | .fabCmdLeave v => Sys2Proof.Machine.execFabCmdLeave v s
  | .rediscover v => Sys2Proof.Machine.execRediscover v s
  | .fiEnWrite q v => Sys2Proof.Machine.execFiEnWrite q v s
  | .traceEnWrite q v => Sys2Proof.Machine.execTraceEnWrite q v s
  | .confirm v => Sys2Proof.Machine.execConfirm v s
  | .confirmAll v => Sys2Proof.Machine.execConfirmAll v s
  | .withdraw v => Sys2Proof.Machine.execWithdraw v s
  | .logCompaction ok => Sys2Proof.Machine.execLogCompaction ok s
  | .bucketLeak x => Sys2Proof.Machine.execBucketLeak x s
  | .phaseFail ph => Sys2Proof.Machine.execPhaseFail ph s
  | .currentSample p tenthAmps => Sys2Proof.Machine.execCurrentSample p tenthAmps s
  | .staging p logicFails memFails neighbourPeaks => Sys2Proof.Machine.execStaging p logicFails memFails neighbourPeaks s
  | .stagingStep p => Sys2Proof.Machine.execStagingStep p s
  | .governorTick volt1 volt2 watts => Sys2Proof.Machine.execGovernorTick volt1 volt2 watts s
  | .rampPhaseEnd => Sys2Proof.Machine.execRampPhaseEnd s
  | .effWrite v => Sys2Proof.Machine.execEffWrite v s
  | .modeMoveComplete => Sys2Proof.Machine.execModeMoveComplete s
  | .deep v => Sys2Proof.Machine.execDeep v s
  | .deepIdleEntered => Sys2Proof.Machine.execDeepIdleEntered s
  | .wake v => Sys2Proof.Machine.execWake v s
  | .wakeDone => Sys2Proof.Machine.execWakeDone s
  | .thermalSample r => Sys2Proof.Machine.execThermalSample r s
  | .autoRestart => Sys2Proof.Machine.execAutoRestart s
  | .tripCountReset => Sys2Proof.Machine.execTripCountReset s
  | .clearHold v => Sys2Proof.Machine.execClearHold v s
  | .power volt1 volt2 stbyOk railFail supervised smbAddr => Sys2Proof.Machine.execPower volt1 volt2 stbyOk railFail supervised smbAddr s
  | .clocks ref25 ref156 ref100 pllFail => Sys2Proof.Machine.execClocks ref25 ref156 ref100 pllFail s
  | .image flashFail holdReadable => Sys2Proof.Machine.execImage flashFail holdReadable s
  | .fuses dxMap rzMap dxOk rzOk => Sys2Proof.Machine.execFuses dxMap rzMap dxOk rzOk s
  | .bondTest runs bad => Sys2Proof.Machine.execBondTest runs bad s
  | .sramTest runs bad => Sys2Proof.Machine.execSramTest runs bad s
  | .logicTest runs bad => Sys2Proof.Machine.execLogicTest runs bad s
  | .repair macroFail => Sys2Proof.Machine.execRepair macroFail s
  | .regions logicFails memFails => Sys2Proof.Machine.execRegions logicFails memFails s
  | .nearMem trained => Sys2Proof.Machine.execNearMem trained s
  | .farMem found => Sys2Proof.Machine.execFarMem found s
  | .fabric trained => Sys2Proof.Machine.execFabric trained s
  | .join => Sys2Proof.Machine.execJoin s
  | .load failSection => Sys2Proof.Machine.execLoad failSection s
  | .ready => Sys2Proof.Machine.execReady s
  | .go v => Sys2Proof.Machine.execGo v s
  | .retry v => Sys2Proof.Machine.execRetry v s
  | .prog v => Sys2Proof.Machine.execProg v s
  | .erase v => Sys2Proof.Machine.execErase v s
  | .flashOpComplete ok => Sys2Proof.Machine.execFlashOpComplete ok s
  | .nonce v => Sys2Proof.Machine.execNonce v s
  | .tokenSubmit v => Sys2Proof.Machine.execTokenSubmit v s
  | .tokenCheckComplete => Sys2Proof.Machine.execTokenCheckComplete s
  | .extend6 v => Sys2Proof.Machine.execExtend6 v s
  | .extend7 v => Sys2Proof.Machine.execExtend7 v s
  | .relaySend v => Sys2Proof.Machine.execRelaySend v s
  | .spdmResponse src body => Sys2Proof.Machine.execSpdmResponse src body s
  | .relayTimeout => Sys2Proof.Machine.execRelayTimeout s
  | .getVersion via => Sys2Proof.Machine.execGetVersion via s
  | .getCapabilities via => Sys2Proof.Machine.execGetCapabilities via s
  | .negotiateAlgorithms via => Sys2Proof.Machine.execNegotiateAlgorithms via s
  | .challenge via slot nonce => Sys2Proof.Machine.execChallenge via slot nonce s
  | .getMeasurements via index signed nonce => Sys2Proof.Machine.execGetMeasurements via index signed nonce s
  | .spdmUnsupportedRequest via code => Sys2Proof.Machine.execSpdmUnsupportedRequest via code s
  | .bar2Read off len => Sys2Proof.Machine.execBar2Read off len s
  | .bar2Write off bytes poisoned => Sys2Proof.Machine.execBar2Write off bytes poisoned s
  | .hotReset => Sys2Proof.Machine.execHotReset s
  | .hostLinkChange rate width flit => Sys2Proof.Machine.execHostLinkChange rate width flit s
  | .busMasterEnable => Sys2Proof.Machine.execBusMasterEnable s
  | .msixUnmask v => Sys2Proof.Machine.execMsixUnmask v s
  | .warmReset lowCycles => Sys2Proof.Machine.execWarmReset lowCycles s
  | .powerLoss => Sys2Proof.Machine.execPowerLoss s
  | .perst high => Sys2Proof.Machine.execPerst high s
  | .smbusRead off pecOk => Sys2Proof.Machine.execSmbusRead off pecOk s
  | .smbusWrite off v pecOk => Sys2Proof.Machine.execSmbusWrite off v pecOk s
  | .smbusStatus => Sys2Proof.Machine.execSmbusStatus s
  | .smbusWake pecOk => Sys2Proof.Machine.execSmbusWake pecOk s
  | .alertResponse => Sys2Proof.Machine.execAlertResponse s
  | .testLogicReset => Sys2Proof.Machine.execTestLogicReset s
  | .extest scan => Sys2Proof.Machine.execExtest scan s
  | .idcode => Sys2Proof.Machine.execIdcode s
  | .samplePreload scan => Sys2Proof.Machine.execSamplePreload scan s
  | .regacc dr => Sys2Proof.Machine.execRegacc dr s
  | .bypass tdi => Sys2Proof.Machine.execBypass tdi s
  | .recalibrationComplete c ok => Sys2Proof.Machine.execRecalibrationComplete c ok s
  | .rampDownEnd n => Sys2Proof.Machine.execRampDownEnd n s
  | .bankZeroingComplete r => Sys2Proof.Machine.execBankZeroingComplete r s
  | .completionTimeout ring entry => Sys2Proof.Machine.execCompletionTimeout ring entry s
  | .badEntry ring entry => Sys2Proof.Machine.execBadEntry ring entry s
  | .illegalInstruction e sl w what => Sys2Proof.Machine.execIllegalInstruction e sl w what s
  | .crcDrop port pkt => Sys2Proof.Machine.execCrcDrop port pkt s
  | .busMasterDisable => Sys2Proof.Machine.execBusMasterDisable s
  | .msixEnableWrite en fmask => Sys2Proof.Machine.execMsixEnableWrite en fmask s

end Sys2Proof.Machine
end

