-- ==== Sys2Proof/Safety.lean ====
section
/-! DEFINITION. The terms that claims use: a safe step, the invariant of the state, and what a group-issue leaves. -/

namespace Sys2Proof.Machine

/-- A step is safe when it answers a next state. -/
def SafeStep (s : State) : Prop := ∃ t, step s = .next t

/-- A table in canonical form: keys rise strictly and no entry equals what its key reads as when unlisted. -/
def Canon {α : Type} (d : Nat → α) (t : Tbl α) : Prop := risingFrom 0 t = true ∧ ∀ e ∈ t, e.2 ≠ d e.1

/-- SEQ of each event log record is one above the one before it (R539). -/
def evSeq : List LogRec → Prop
  | [] => True
  | a :: t => (∀ b, t.head? = some b → b.seq = a.seq + 1) ∧ evSeq t

/-- The invariant: memory and the register table in canonical form, poisoned units in rising order, and an event log of at most
131,072 records numbered one after another (R539). -/
structure Inv (s : State) : Prop where
  mem : Memory.wf s.mem = true
  regs : Canon resetWord s.regs
  poison : s.poison.Pairwise (· < ·)
  log : s.evlog.length ≤ 131072
  seq : evSeq s.evlog

/-- The group g in slot sl of engine e issues the word w for the subset p that R195 picks: the group may issue, no instruction of its
is in issue, no promoted group goes before it, and its registers hold no uncorrectable error (R192, R193, R208); the word is legal,
its registers lie within VREGS, and no breakpoint holds it. -/
structure Issues (s : State) (e sl : Nat) (w : BitVec 64) (g : Group) (p : Subset) : Prop where
  slot : grp s e sl = some g
  pick : g.pick = some p
  eligible : g.eligible = true
  idle : g.inIssue = none
  first : outranked s e sl g = false
  sound : g.regFault = none
  fetch : fetchWord s e p.pc = some w
  brk : breakpointAt s e p.pc = false
  legal : legalWord w = true
  vregs : vregsNamed w ≤ launchVregs g.launch
  full : g.threads.length = 32

/-- The group g in slot sl of engine e is the one that issues, with the subset p of R195. -/
structure Picks (s : State) (e sl : Nat) (g : Group) (p : Subset) : Prop where
  slot : grp s e sl = some g
  pick : g.pick = some p
  eligible : g.eligible = true
  idle : g.inIssue = none
  first : outranked s e sl g = false
  full : g.threads.length = 32

/-- The issuing lanes whose guard is true (R234), lowest first. -/
def actLanes (w : BitVec 64) (g : Group) (p : Subset) : List Nat := p.lanes.filter (fun l => guardOf w (g.th l))

/-- s with the word w in the instruction cache of engine e, as the body of an instruction finds it (R185). -/
def fetched (s : State) (e : Nat) (pc : Addr) (w : BitVec 64) : State :=
  setEng s e { eng s e with icache := fillCache (eng s e).icache pc w }

/-- Where m is what the body of an instruction leaves, its issue from slot sl of engine e changes nothing more outside that slot
than the engine's instruction cache, its issue counters (R223) and STEP_DONE (R212). -/
structure IssueFrame (m t : State) (e sl : Nat) : Prop where
  rest : t = { m with engines := t.engines, regs := t.regs }
  engines : ∀ e', e' ≠ e → eng t e' = eng m e'
  slots : ∀ sl', sl' ≠ sl → grp t e sl' = grp m e sl'
  engine : { eng t e with groups := [], icache := [] } = { eng m e with groups := [], icache := [] }
  regs : ∀ off, ¬ (Reg.TE_CNT_ISSUE e ≤ off ∧ off < Reg.TE_CNT_BARWAIT e) → off ≠ Reg.TE_DBG_STAT e → regWord t off = regWord m off

/-- What an issue leaves in the group: upd changes the issuing threads with a true guard and nxt gives their program counters,
their ages become 0; an issuing thread with a false guard only advances by one instruction; every other thread grows older by 1
(R195, R234); u is the register file of the group. -/
def IssuedGroup (w : BitVec 64) (g : Group) (p : Subset) (upd : Nat → Thread → Thread) (u : Tbl Word) (nxt : Nat → Addr)
    (h : Group) : Prop :=
  { h with threads := g.threads } = { g with u := u, promoted := false, stepPend := false, stepOver := false } ∧
  h.threads.length = 32 ∧
  ∀ l, l < 32 → h.th l =
    if l ∈ actLanes w g p then { upd l (g.th l) with age := 0, pc := nxt l }
    else if l ∈ p.lanes then { g.th l with age := 0, pc := (g.th l).pc + 8 }
    else { g.th l with age := (g.th l).age + 1 }

/-- An issue after which each lane is at nxt, where m is what its body leaves. -/
def IssueTo (m t : State) (e sl : Nat) (w : BitVec 64) (g : Group) (p : Subset) (upd : Nat → Thread → Thread) (u : Tbl Word)
    (nxt : Nat → Addr) : Prop :=
  IssueFrame m t e sl ∧ ∃ h, grp t e sl = some h ∧ IssuedGroup w g p upd u nxt h

/-- An issue that goes on with the next instruction (R234). -/
def IssueDone (m t : State) (e sl : Nat) (w : BitVec 64) (g : Group) (p : Subset) (upd : Nat → Thread → Thread) (u : Tbl Word) : Prop :=
  IssueTo m t e sl w g p upd u (fun l => (g.th l).pc + 8)

/-- An issue in which every issuing thread traps: none of them moves on. -/
def IssueStuck (m t : State) (e sl : Nat) (g : Group) (p : Subset) : Prop :=
  IssueFrame m t e sl ∧ ∃ h, grp t e sl = some h ∧
    { h with threads := g.threads } = { g with promoted := false, stepPend := false, stepOver := false, regFault := none } ∧
    ∀ l, l < 32 → h.th l = if l ∈ p.lanes then { g.th l with age := 0 } else { g.th l with age := (g.th l).age + 1 }

/-- m with the word w of the group g kept in issue for the subset p, and the slots that its lanes wait for (R192, R246, R274). -/
def inIssueAt (m : State) (e sl : Nat) (w : BitVec 64) (g : Group) (p : Subset) (slots : List (Nat × Nat)) : State :=
  setGrp m e sl { g with
    inIssue := some { word := w, sub := p, slots := slots, step := decide (g.dbg = .halted) }
    stepPend := false
    dbg := if g.dbg = .halted then .running else g.dbg }

/-- Only what requests at the ports of Rilaz may change differs: the registers, memory with its poison, the SC, the tints, the far
tier, the error records, what is sent, and the free values used. -/
structure PortSide (s t : State) : Prop where
  arrays : t.arrays = s.arrays
  engines : t.engines = s.engines
  vc : t.vc = s.vc
  near : t.near = s.near
  movers : t.movers = s.movers
  items : t.items = s.items
  host : t.host = s.host
  fab : t.fab = s.fab
  power : t.power = s.power
  thermal : t.thermal = s.thermal
  boot : t.boot = s.boot
  pins : t.pins = s.pins
  aclkMhz : t.aclkMhz = s.aclkMhz
  pending : t.pending = s.pending

/-- What requests at the ports of Rilaz leave, before any byte is stored: they may fetch and write back lines, count, charge tints and
report errors, and nothing else; a byte of GDDR7 whose line was not cached, and every byte of the hold window and of the private
banks, reads as before (R280, R300). -/
structure Requested (s m : State) : Prop where
  rest : PortSide s m
  bytes : ∀ x, holdBase ≤ x ∨ (x < farBase ∧ look s.sc.lines (x / 128) = none) → readByte m x = readByte s x

/-- A word per lane into a v register: each lane's own (R230). -/
def destThread (ud : Bool) (d : BitVec 8) (f : Nat → Word) (l : Nat) (t : Thread) : Thread :=
  if ud then t else t.setReg d.toNat (f l)

/-- A word per lane into a u register: that of the lowest lane (R230). -/
def destFile (ud : Bool) (d : BitVec 8) (f : Nat → Word) (u : Tbl Word) : List Nat → Tbl Word
  | [] => u
  | l :: _ => if ud then putD 0 u d.toNat (f l) else u

/-- Command c issues the word w and writes the word f per lane to its destination. -/
def WritesWord (c : Instr) (e sl : Nat) (w : BitVec 64) (ud : Bool) (d : BitVec 8) (f : Group → Nat → Word) : Prop :=
  ∀ s g p, Issues s e sl w g p →
    ∃ t, exec c s = .next t ∧ IssueDone s t e sl w g p (destThread ud d (f g)) (destFile ud d (f g) g.u (actLanes w g p))

/-- Command c issues the word w and sets the predicate d to f per lane. -/
def WritesPred (c : Instr) (e sl : Nat) (w : BitVec 64) (d : BitVec 8) (f : Group → Nat → Bool) : Prop :=
  ∀ s g p, Issues s e sl w g p →
    ∃ t, exec c s = .next t ∧ IssueDone s t e sl w g p (fun l x => x.setPred d.toNat (f g l)) g.u

/-- Command c issues the word w, writes the result f per lane to its destination and ORs its conditions into STAT (R239). -/
def WritesFloat (c : Instr) (e sl : Nat) (w : BitVec 64) (ud : Bool) (d : BitVec 8) (f : Group → Nat → Nat × FpFlags) : Prop :=
  ∀ s g p, Issues s e sl w g p →
    ∃ t, exec c s = .next t ∧
      IssueDone s t e sl w g p
        (fun l x => destThread ud d (fun l => BitVec.ofNat 32 (f g l).1) l (x.orStat (f g l).2.bits))
        (destFile ud d (fun l => BitVec.ofNat 32 (f g l).1) g.u (actLanes w g p))

end Sys2Proof.Machine
end

