-- ==== Sys2Proof/WellFormed.lean ====
section
/-! DEFINITION. Well-formed commands: the checks on operands that their types do not make. An action-bit command carries a
written word with its bit set; a packet's payload has the length that PLEN gives; lists have the length that the hardware's
parts fix. exec answers for every command, well formed or not. -/

namespace Sys2Proof

open Machine

/-- A packet's payload is PLEN units of 64 bytes, at most 256 (R360). -/
def Packet.wf (p : Packet) : Bool := decide (p.payload.length = 64 * p.plen) && decide (p.plen ≤ 256)

/-- A data frame's body has the length that LEN gives, 1 to 4 units of 64 bytes (R400). -/
def Frame.wf (f : Frame) : Bool := decide (f.body.length = 64 * (fld f.hdr 35 2 + 1))

/-- The command is well formed. -/
def wellFormed (i : Instr) : Bool :=
  match i with
  | .registerWrite _ _ _ _ _ _ => true
  | .pllLossOfLock _ => true
  | .deviceFault _ => true
  | .descriptorQueueEntry _ _ => true
  | .passStart _ => true
  | .tileLoadComplete _ => true
  | .passComplete _ => true
  | .stopRequest _ _ => true
  | .stopDone _ => true
  | .passFault _ _ => true
  | .taCntClear _ v => bit v 3
  | .taHighClr _ v => bit v 17
  | .taStopReq _ v _ => bit v 0
  | .taStopResume _ v => bit v 1
  | .preloadStart _ => true
  | .preloadComplete _ => true
  | .drainEnter _ => true
  | .drainColumnRead _ => true
  | .drainComplete _ => true
  | .scrubVisit _ _ _ _ _ _ _ => true
  | .lapSlow _ _ _ => true
  | .accvEnWrite _ _ => true
  | .accvSelWrite _ _ => true
  | .accvReadComplete _ corrected uncorr => !(corrected && uncorr)
  | .dringCfgWrite _ _ _ => true
  | .lakeWriteComplete _ => true
  | .launch _ _ => true
  | .groupFreed _ _ => true
  | .groupPromotion _ _ => true
  | .napEnd _ _ _ => true
  | .barrierTimeout _ _ _ _ => true
  | .dbgHalt _ v => bit v 8
  | .haltComplete _ _ => true
  | .dbgResume _ v => bit v 9
  | .dbgStep _ v => bit v 10
  | .haltAll _ v => bit v 12
  | .resumeAll _ v => bit v 13
  | .dbgDataWrite _ _ => true
  | .teCntClear _ v => bit v 6
  | .iadd _ _ _ => true
  | .isub _ _ _ => true
  | .imul _ _ _ => true
  | .imulhiS _ _ _ => true
  | .imulhiU _ _ _ => true
  | .imad _ _ _ => true
  | .and _ _ _ => true
  | .or _ _ _ => true
  | .xor _ _ _ => true
  | .not _ _ _ => true
  | .shl _ _ _ => true
  | .shr _ _ _ => true
  | .sar _ _ _ => true
  | .iminS _ _ _ => true
  | .imaxS _ _ _ => true
  | .iminU _ _ _ => true
  | .imaxU _ _ _ => true
  | .idivS _ _ _ => true
  | .idivU _ _ _ => true
  | .iremS _ _ _ => true
  | .iremU _ _ _ => true
  | .popc _ _ _ => true
  | .clz _ _ _ => true
  | .icmp _ _ _ => true
  | .sel _ _ _ => true
  | .mov _ _ _ => true
  | .movi _ _ _ => true
  | .addi _ _ _ => true
  | .pand _ _ _ => true
  | .por _ _ _ => true
  | .pnot _ _ _ => true
  | .ballot _ _ _ => true
  | .fadd _ _ _ => true
  | .fsub _ _ _ => true
  | .fmul _ _ _ => true
  | .ffma _ _ _ => true
  | .fmin _ _ _ => true
  | .fmax _ _ _ => true
  | .fabs _ _ _ => true
  | .fneg _ _ _ => true
  | .fcmp _ _ _ => true
  | .exp2 _ _ _ => true
  | .log2 _ _ _ => true
  | .rcp _ _ _ => true
  | .rsqrt _ _ _ => true
  | .fdiv _ _ _ => true
  | .hfma2 _ _ _ => true
  | .hadd2 _ _ _ => true
  | .hmul2 _ _ _ => true
  | .cvt _ _ _ _ => true
  | .cvtNar _ _ _ _ => true
  | .cvtBlk _ _ _ _ => true
  | .br _ _ _ => true
  | .brv _ _ _ => true
  | .jal _ _ _ => true
  | .exit _ _ _ => true
  | .nap _ _ _ => true
  | .rdst _ _ _ => true
  | .clst _ _ _ => true
  | .ldLocal _ _ _ => true
  | .stLocal _ _ _ => true
  | .ldRing _ _ _ => true
  | .ldBank _ _ _ => true
  | .stBank _ _ _ => true
  | .ldGlobal _ _ _ => true
  | .stGlobal _ _ _ => true
  | .aadd _ _ _ => true
  | .asub _ _ _ => true
  | .aand _ _ _ => true
  | .aor _ _ _ => true
  | .axor _ _ _ => true
  | .aminS _ _ _ => true
  | .amaxS _ _ _ => true
  | .aminU _ _ _ => true
  | .amaxU _ _ _ => true
  | .aexch _ _ _ => true
  | .acas _ _ _ => true
  | .afadd _ _ _ => true
  | .aload _ _ _ => true
  | .astore _ _ _ => true
  | .fence _ _ _ => true
  | .bar _ _ _ => true
  | .barMasked _ _ _ => true
  | .apass _ _ _ => true
  | .apre _ _ _ => true
  | .adrain _ _ _ => true
  | .await _ _ _ => true
  | .lst _ _ _ => true
  | .drel _ _ _ => true
  | .dpop _ _ _ => true
  | .tarm _ _ _ => true
  | .tsig _ _ _ => true
  | .scanrep _ _ _ => true
  | .trap _ _ _ => true
  | .rdcyc _ _ _ => true
  | .scRequest ⟨q, _⟩ => decide (0 < q.len.val) && decide (q.addr.toNat % 128 + q.len.val ≤ 128)
  | .scMissFill _ => true
  | .tintEpoch => true
  | .flushReq v => bit v 0
  | .flushInval v => bit v 1
  | .flushDone => true
  | .holdWaysWrite _ => true
  | .holdChangeComplete => true
  | .scHighClr _ v => bit v 17
  | .vcWordResend _ _ wires => decide (wires ≠ []) && wires.all (fun w => decide (w < 10560))
  | .wireReplacementComplete _ _ => true
  | .sliceRetirement _ _ => true
  | .moverGo _ v => bit v 0
  | .moverDescriptorComplete _ => true
  | .tintLimWrite _ _ _ => true
  | .recalibration _ _ _ => true
  | .controllerRetirement _ => true
  | .commit _ _ => true
  | .commitGranuleComplete _ _ _ => true
  | .journalRecordComplete _ _ => true
  | .refresh _ _ => true
  | .poweredHour _ => true
  | .fm576Event _ granules => decide (granules ≠ [])
  | .persistReq v => bit v 0
  | .persistComplete => true
  | .farPortLinkLoss _ => true
  | .farLinkReturn _ _ => true
  | .format _ v => decide (fld v 0 3 = 1)
  | .unmount _ v => decide (fld v 0 3 = 2)
  | .mount _ v => decide (fld v 0 3 = 3)
  | .work _ pkt => pkt.wf
  | .itemDispatch _ _ => true
  | .data _ pkt => pkt.wf
  | .itemComplete _ inline => decide (inline.length ≤ 16384)
  | .result _ pkt => pkt.wf
  | .ack _ pkt => pkt.wf
  | .nack _ pkt => pkt.wf
  | .lot _ pkt => pkt.wf
  | .resendTimeout _ _ _ => true
  | .itemTimeout _ => true
  | .submit _ _ payload => decide (payload.length ≤ 512)
  | .migrate _ _ => true
  | .cancel _ _ => true
  | .completionEntryWrite _ => true
  | .sqTailWrite _ _ => true
  | .cqHeadWrite _ _ => true
  | .ringCfgWrite _ _ => true
  | .ringBaseWrite _ _ _ => true
  | .trainingComplete _ _ => true
  | .trainingRetry _ => true
  | .retrain _ v => bit v 1
  | .laneFail _ _ _ => true
  | .inServiceRetrainComplete _ _ => true
  | .dataFrame _ f => f.wf
  | .linkControlFrame _ f => decide (f.body = [])
  | .idleFrame _ f => decide (f.body = [])
  | .replayTimeout _ => true
  | .linkControlSend _ => true
  | .portDown _ => true
  | .packetForward _ pkt _ => pkt.wf
  | .reorderTimeout _ => true
  | .hello _ _ => true
  | .probe _ _ rpath => decide (rpath.length ≤ 16) && decide (rpath ≠ [])
  | .probeReply m => decide (m.ports.length = 16) && decide (m.path ≠ []) && decide (m.path.length ≤ 16)
  | .probeTimeout path => decide (path.length ≤ 16) && decide (path ≠ [])
  | .assign _ _ => true
  | .assignAck _ _ _ => true
  | .routeSet m => decide (m.first.toNat + m.entries.length ≤ 4112) && decide (m.entries.length ≤ 4080)
  | .routeAck _ _ => true
  | .routeSetTimeout _ => true
  | .linkEvent _ => true
  | .heartbeatInterval => true
  | .heartbeat _ => true
  | .heartbeatReply _ => true
  | .managerLoss => true
  | .left _ => true
  | .leftTimeout _ _ => true
  | .leave _ => true
  | .domainInfo _ _ _ => true
  | .domainRoute _ => true
  | .joinWaitTimeout => true
  | .fabCmdLeave v => bit v 0
  | .rediscover v => bit v 1
  | .fiEnWrite _ _ => true
  | .traceEnWrite _ _ => true
  | .confirm v => bit v 0
  | .confirmAll v => bit v 1
  | .withdraw v => bit v 2
  | .logCompaction _ => true
  | .bucketLeak _ => true
  | .phaseFail _ => true
  | .currentSample _ _ => true
  | .staging _ _ _ _ => true
  | .stagingStep _ => true
  | .governorTick _ _ _ => true
  | .rampPhaseEnd => true
  | .effWrite _ => true
  | .modeMoveComplete => true
  | .deep v => bit v 0
  | .deepIdleEntered => true
  | .wake v => bit v 1
  | .wakeDone => true
  | .thermalSample r => decide (r.sensors.length = 384) && decide (r.slicePower.length = 64)
  | .autoRestart => true
  | .tripCountReset => true
  | .clearHold v => bit v 0
  | .power _ _ _ _ _ _ => true
  | .clocks _ _ _ _ => true
  | .image _ _ => true
  | .fuses dxMap rzMap _ _ => decide (dxMap.length ≤ 1024) && decide (rzMap.length ≤ 1024)
  | .bondTest _ _ => true
  | .sramTest _ _ => true
  | .logicTest _ _ => true
  | .repair _ => true
  | .regions logicFails memFails => decide (logicFails.length = 50) && decide (memFails.length = 50)
  | .nearMem trained => decide (trained.length = 12)
  | .farMem found => decide (found.length = 12)
  | .fabric trained => decide (trained.length = 16)
  | .join => true
  | .load _ => true
  | .ready => true
  | .go v => bit v 0
  | .retry v => bit v 1
  | .prog v => bit v 0
  | .erase v => bit v 1
  | .flashOpComplete _ => true
  | .nonce v => bit v 0
  | .tokenSubmit v => bit v 1
  | .tokenCheckComplete => true
  | .extend6 v => bit v 2
  | .extend7 v => bit v 3
  | .relaySend v => bit v 0
  | .spdmResponse _ body => decide (body.length ≤ 4096)
  | .relayTimeout => true
  | .getVersion _ => true
  | .getCapabilities _ => true
  | .negotiateAlgorithms _ => true
  | .challenge _ _ nonce => decide (nonce.length = 32)
  | .getMeasurements _ _ _ nonce => decide (nonce.length = 32)
  | .spdmUnsupportedRequest _ _ => true
  | .bar2Read _ len => decide (0 < len.val)
  | .bar2Write _ bytes _ => decide (bytes ≠ []) && decide (bytes.length ≤ 4096)
  | .hotReset => true
  | .hostLinkChange _ _ _ => true
  | .busMasterEnable => true
  | .msixUnmask _ => true
  | .warmReset _ => true
  | .powerLoss => true
  | .perst _ => true
  | .smbusRead _ _ => true
  | .smbusWrite _ _ _ => true
  | .smbusStatus => true
  | .smbusWake _ => true
  | .alertResponse => true
  | .testLogicReset => true
  | .extest _ => true
  | .idcode => true
  | .samplePreload _ => true
  | .regacc _ => true
  | .bypass _ => true
  | .recalibrationComplete _ _ => true
  | .rampDownEnd _ => true
  | .bankZeroingComplete _ => true
  | .completionTimeout _ _ => true
  | .badEntry _ _ => true
  | .illegalInstruction _ _ _ _ => true
  | .crcDrop _ pkt => pkt.wf
  | .busMasterDisable => true
  | .msixEnableWrite _ _ => true

end Sys2Proof
end

