-- ==== Sys2Proof/Certificates/Slice0/Obligations.lean ====
section
/-! DEFINITION. The statements about the block, for the provers. -/

section

open Sys2Proof Sys2Proof.Machine

/-- A step takes the command at the front of the queue and runs it on the state with the queue's rest; with an empty queue the block
idles (the model's own choice, log 2). -/
def Obligations.StepRunsFrontCommand : Prop :=
  (∀ (s : State) (c : Instr) (rest : List Instr),
    step { s with pending := c :: rest } = exec c { s with pending := rest }) ∧
  ∀ s : State, s.pending = [] → step s = .next s

/-- Reset: every register at its reset word, nothing waiting, nothing sent, memory unlisted; the manual's own reset values of some
registers (R10, R15).
It rests on the model's own choices or readings of logs 3, 4 and 5. -/
def Obligations.ResetState : Prop :=
  (∀ off, regWord State.reset off = resetWord off) ∧ State.reset.pending = [] ∧ State.reset.outbox = [] ∧
  State.reset.mem = [] ∧ State.reset.poison = [] ∧ State.reset.evlog = [] ∧
  (∀ n, arr State.reset n = {}) ∧ (∀ e, eng State.reset e = {}) ∧
  (∀ off, findReg regMap off = none → resetWord off = 0) ∧
  (∀ e, e < 50 → regFld State.reset (Reg.TE_CTRL e) 0 5 = 20) ∧ regFld State.reset Reg.FAB_CFG 5 8 = 1 ∧
  (∀ n, n < 200 → regFld State.reset (Reg.TA_ID n) 0 8 = n ∧ regFld State.reset (Reg.TA_ID n) 8 8 = 255)

/-- The invariant holds at reset. -/
def Obligations.InvHoldsAtReset : Prop := Inv State.reset

/-- Every step keeps the invariant: memory and the register table stay in canonical form, poisoned units stay in order, and the
event log keeps at most 131,072 records numbered one after another (R539).
It rests on the model's own choices or readings of log 6. -/
def Obligations.StepKeepsInvariant : Prop :=
  ∀ s t : State, Inv s → step s = .next t → Inv t

/-- What every command leaves alone: the queue is changed by the step only, what has been sent stays sent in its order, and
free values are consumed in order.
It rests on the model's own choices or readings of logs 7 and 8. -/
def Obligations.CommandsKeepQueueAndOutputs : Prop :=
  ∀ (c : Instr) (s t : State), exec c s = .next t →
    t.pending = s.pending ∧ (∃ l, t.outbox = s.outbox ++ l) ∧ s.fresh ≤ t.fresh

/-- Only GOVERNOR_TICK can stop, with the fault of R591; every other command answers a next state, and no command is refused.
It rests on the model's own choices or readings of log 11. -/
def Obligations.OnlyGovernorTickStops : Prop :=
  ∀ (c : Instr) (s : State), (∃ t, exec c s = .next t) ∨
    (exec c s = .fault .beyondAbsoluteLimits ∧ ∃ v0 v1 w, c = .governorTick v0 v1 w)

/-- The four forms of the thread instruction word lose no field (R231): every field of every form reads back from the word, beside
its class and operation. -/
def Obligations.ThreadWordsRoundTrip : Prop :=
  ∀ (cls : BitVec 4) (op : BitVec 8),
    (∀ r : RForm, RForm.ofWord (r.encode cls op) = r ∧ wordClass (r.encode cls op) = cls.toNat ∧ wordOp (r.encode cls op) = op.toNat) ∧
    (∀ i : IForm, IForm.ofWord (i.encode cls op) = i ∧ wordClass (i.encode cls op) = cls.toNat ∧ wordOp (i.encode cls op) = op.toNat) ∧
    (∀ m : MForm, MForm.ofWord (m.encode cls op) = m ∧ wordClass (m.encode cls op) = cls.toNat ∧ wordOp (m.encode cls op) = op.toNat) ∧
    (∀ a : AForm, AForm.ofWord (a.encode cls op) = a ∧ wordClass (a.encode cls op) = cls.toNat ∧ wordOp (a.encode cls op) = op.toNat) ∧
    (∀ w : BitVec 64,
      (RForm.ofWord w).encode (BitVec.ofNat 4 (wordClass w)) (BitVec.ofNat 8 (wordOp w)) = w ∧
      (IForm.ofWord w).encode (BitVec.ofNat 4 (wordClass w)) (BitVec.ofNat 8 (wordOp w)) = w ∧
      (MForm.ofWord w).encode (BitVec.ofNat 4 (wordClass w)) (BitVec.ofNat 8 (wordOp w)) = w ∧
      (AForm.ofWord w).encode (BitVec.ofNat 4 (wordClass w)) (BitVec.ofNat 8 (wordOp w)) = w)

/-- The two-operand integer instructions of R236: each lane's result goes to D, and nothing but the group and the counters of its
engine changes; no STAT bit is set and no trap is taken (R237). -/
def Obligations.IntegerBinaryResults : Prop :=
  ∀ (e : Fin 50) (sl : Fin 48) (r : RForm),
    let W (c : Instr) (op : BitVec 8) (f : Word → Word → Word) : Prop :=
      WritesWord c e sl (r.encode 0x0#4 op) r.ud r.d (fun g l => f (r.opA g l) (r.opB g l))
    W (.iadd e sl r) 0x00#8 (fun a b => a + b) ∧
    W (.isub e sl r) 0x01#8 (fun a b => a - b) ∧
    W (.imul e sl r) 0x02#8 (fun a b => a * b) ∧
    W (.imulhiS e sl r) 0x03#8 (fun a b => (a.signExtend 64 * b.signExtend 64).extractLsb' 32 32) ∧
    W (.imulhiU e sl r) 0x04#8 (fun a b => (a.setWidth 64 * b.setWidth 64).extractLsb' 32 32) ∧
    W (.and e sl r) 0x06#8 (fun a b => a &&& b) ∧
    W (.or e sl r) 0x07#8 (fun a b => a ||| b) ∧
    W (.xor e sl r) 0x08#8 (fun a b => a ^^^ b) ∧
    W (.shl e sl r) 0x0A#8 (fun a b => a <<< (b.toNat % 32)) ∧
    W (.shr e sl r) 0x0B#8 (fun a b => a >>> (b.toNat % 32)) ∧
    W (.sar e sl r) 0x0C#8 (fun a b => a.sshiftRight (b.toNat % 32)) ∧
    W (.iminS e sl r) 0x0D#8 (fun a b => BitVec.ofInt 32 (min a.toInt b.toInt)) ∧
    W (.imaxS e sl r) 0x0E#8 (fun a b => BitVec.ofInt 32 (max a.toInt b.toInt)) ∧
    W (.iminU e sl r) 0x0F#8 (fun a b => BitVec.ofNat 32 (min a.toNat b.toNat)) ∧
    W (.imaxU e sl r) 0x10#8 (fun a b => BitVec.ofNat 32 (max a.toNat b.toNat))

/-- The divisions of R236 with the corners of R237: quotients round toward zero and the remainder has the sign of A; a divisor of
zero gives 0xFFFF_FFFF and A; the most negative number over −1 gives 0x8000_0000 and 0. -/
def Obligations.IntegerDivisionResults : Prop :=
  ∀ (e : Fin 50) (sl : Fin 48) (r : RForm), ∃ qs qu rs ru : Word → Word → Word,
    (let W (c : Instr) (op : BitVec 8) (f : Word → Word → Word) : Prop :=
      WritesWord c e sl (r.encode 0x0#4 op) r.ud r.d (fun g l => f (r.opA g l) (r.opB g l))
     W (.idivS e sl r) 0x11#8 qs ∧ W (.idivU e sl r) 0x12#8 qu ∧ W (.iremS e sl r) 0x13#8 rs ∧ W (.iremU e sl r) 0x14#8 ru) ∧
    (∀ a, qs a 0 = 0xFFFFFFFF#32 ∧ qu a 0 = 0xFFFFFFFF#32 ∧ rs a 0 = a ∧ ru a 0 = a) ∧
    (∀ a b, b ≠ 0 → (qu a b).toNat = a.toNat / b.toNat ∧ (ru a b).toNat = a.toNat % b.toNat) ∧
    qs 0x80000000#32 0xFFFFFFFF#32 = 0x80000000#32 ∧ rs 0x80000000#32 0xFFFFFFFF#32 = 0 ∧
    (∀ a b, b ≠ 0 → ¬ (a = 0x80000000#32 ∧ b = 0xFFFFFFFF#32) →
      a.toInt = (qs a b).toInt * b.toInt + (rs a b).toInt ∧ (rs a b).toInt.natAbs < b.toInt.natAbs ∧
      ((rs a b).toInt < 0 → a.toInt < 0) ∧ (0 < (rs a b).toInt → 0 < a.toInt))

/-- The other integer instructions that write D (R236): a register, an immediate, a select, a count of bits. -/
def Obligations.IntegerMoveAndCountResults : Prop :=
  (∀ (e : Fin 50) (sl : Fin 48) (r : RForm),
    let W (c : Instr) (op : BitVec 8) (f : Group → Nat → Word) : Prop := WritesWord c e sl (r.encode 0x0#4 op) r.ud r.d f
    W (.imad e sl r) 0x05#8 (fun g l => r.opA g l * r.opB g l + r.opC g l) ∧
    W (.not e sl r) 0x09#8 (fun g l => ~~~ r.opA g l) ∧
    W (.popc e sl r) 0x15#8 (fun g l => BitVec.ofNat 32 ((List.range 32).countP (fun i => (r.opA g l).getLsbD i))) ∧
    W (.clz e sl r) 0x16#8 (fun g l => BitVec.ofNat 32 (((List.range 32).map (fun i => 31 - i)).findIdx (fun i => (r.opA g l).getLsbD i))) ∧
    W (.sel e sl r) 0x18#8 (fun g l => if (g.th l).p.getLsbD (r.c.toNat % 16) then r.opA g l else r.opB g l) ∧
    W (.mov e sl r) 0x19#8 (fun g l => r.opA g l)) ∧
  (∀ (e : Fin 50) (sl : Fin 48) (i : IForm),
    WritesWord (.movi e sl i) e sl (i.encode 0x0#4 0x1A#8) i.ud i.d (fun _ _ => i.imm) ∧
    WritesWord (.addi e sl i) e sl (i.encode 0x0#4 0x1B#8) i.ud i.d
      (fun g l => (if i.ud then g.ureg i.d.toNat else (g.th l).reg i.d.toNat) + i.imm))

/-- The instructions that write a predicate register (R236, R238): the integer comparisons, the logic of predicates, and the FP32
comparisons, every condition of which but ne and unordered is false for a NaN; and ballot, whose mask has bit l set exactly when lane l
issued with a true guard and p(A[3:0]) is 1 in it. -/
def Obligations.PredicateResults : Prop :=
  ∀ (e : Fin 50) (sl : Fin 48) (r : RForm),
    let P (c : Instr) (cls : BitVec 4) (op : BitVec 8) (f : Group → Nat → Bool) : Prop := WritesPred c e sl (r.encode cls op) r.d f
    let p (g : Group) (l : Nat) (n : BitVec 8) : Bool := (g.th l).p.getLsbD (n.toNat % 16)
    let fp (g : Group) (l : Nat) : Option Int := (Fmt.fp32.decode (r.opA g l).toNat).cmp (Fmt.fp32.decode (r.opB g l).toNat)
    (r.mod = 0#10 → P (.icmp e sl r) 0x0#4 0x17#8 (fun g l => decide (r.opA g l = r.opB g l))) ∧
    (r.mod = 1#10 → P (.icmp e sl r) 0x0#4 0x17#8 (fun g l => decide (r.opA g l ≠ r.opB g l))) ∧
    (r.mod = 2#10 → P (.icmp e sl r) 0x0#4 0x17#8 (fun g l => (r.opA g l).slt (r.opB g l))) ∧
    (r.mod = 3#10 → P (.icmp e sl r) 0x0#4 0x17#8 (fun g l => (r.opA g l).sle (r.opB g l))) ∧
    (r.mod = 4#10 → P (.icmp e sl r) 0x0#4 0x17#8 (fun g l => (r.opA g l).ult (r.opB g l))) ∧
    (r.mod = 5#10 → P (.icmp e sl r) 0x0#4 0x17#8 (fun g l => (r.opA g l).ule (r.opB g l))) ∧
    P (.pand e sl r) 0x0#4 0x1C#8 (fun g l => p g l r.a && p g l r.b) ∧
    P (.por e sl r) 0x0#4 0x1D#8 (fun g l => p g l r.a || p g l r.b) ∧
    P (.pnot e sl r) 0x0#4 0x1E#8 (fun g l => !p g l r.a) ∧
    (r.mod.toNat / 4 = 0 → P (.fcmp e sl r) 0x1#4 0x08#8 (fun g l => fp g l == some 0)) ∧
    (r.mod.toNat / 4 = 1 → P (.fcmp e sl r) 0x1#4 0x08#8 (fun g l => fp g l != some 0)) ∧
    (r.mod.toNat / 4 = 2 → P (.fcmp e sl r) 0x1#4 0x08#8 (fun g l => fp g l == some (-1))) ∧
    (r.mod.toNat / 4 = 3 → P (.fcmp e sl r) 0x1#4 0x08#8 (fun g l => fp g l == some (-1) || fp g l == some 0)) ∧
    (r.mod.toNat / 4 = 4 → P (.fcmp e sl r) 0x1#4 0x08#8 (fun g l => fp g l == some 1)) ∧
    (r.mod.toNat / 4 = 5 → P (.fcmp e sl r) 0x1#4 0x08#8 (fun g l => fp g l == some 1 || fp g l == some 0)) ∧
    (r.mod.toNat / 4 = 6 → P (.fcmp e sl r) 0x1#4 0x08#8 (fun g l => fp g l == none)) ∧
    (∀ s g p, let w := r.encode 0x0#4 0x1F#8
      Issues s e sl w g p →
        ∃ t mask, exec (.ballot e sl r) s = .next t ∧
          IssueDone s t e sl w g p (destThread r.ud r.d (fun _ => mask)) (destFile r.ud r.d (fun _ => mask) g.u (actLanes w g p)) ∧
          ∀ l, l < 32 → mask.getLsbD l = (decide (l ∈ actLanes w g p) && (g.th l).p.getLsbD (r.a.toNat % 16)))

/-- The arithmetic of class 0x1 (R238, R239): the exact result of the decoded operands is rounded once, by MOD[1:0], into FP32 or
into both BF16 halves; invalid, divide-by-zero, overflow, underflow and inexact are ORed into STAT; no trap is taken.
It rests on the model's own choices or readings of log 46. -/
def Obligations.FloatArithmeticResults : Prop :=
  ∀ (e : Fin 50) (sl : Fin 48) (r : RForm),
    let mode : RMode := if r.mod.getLsbD 0 then .zero else .nearest
    let F (c : Instr) (op : BitVec 8) (f : Group → Nat → Nat × FpFlags) : Prop := WritesFloat c e sl (r.encode 0x1#4 op) r.ud r.d f
    let x (g : Group) (l : Nat) : Val := Fmt.fp32.decode (r.opA g l).toNat
    let y (g : Group) (l : Nat) : Val := Fmt.fp32.decode (r.opB g l).toNat
    let z (g : Group) (l : Nat) : Val := Fmt.fp32.decode (r.opC g l).toNat
    let out (f : Fmt) (v : Val) (invalid divZero : Bool) : Nat × FpFlags :=
      ((f.round mode v).1, { (f.round mode v).2 with invalid := invalid, divZero := divZero })
    let half (v : Val → Val → Val → Val × Bool) (g : Group) (l : Nat) : Nat × FpFlags :=
      let at_ (i : Nat) (o : Word) : Val := Fmt.bf16.decode (fld o (16 * i) 16)
      let h (i : Nat) : Nat × FpFlags :=
        let q := v (at_ i (r.opA g l)) (at_ i (r.opB g l)) (at_ i (r.opC g l))
        out .bf16 q.1 q.2 false
      ((h 0).1 + (h 1).1 * 2 ^ 16, (h 0).2.or (h 1).2)
    F (.fadd e sl r) 0x00#8 (fun g l => out .fp32 ((x g l).add (y g l)).1 ((x g l).add (y g l)).2 false) ∧
    F (.fsub e sl r) 0x01#8 (fun g l => out .fp32 ((x g l).add (y g l).neg).1 ((x g l).add (y g l).neg).2 false) ∧
    F (.fmul e sl r) 0x02#8 (fun g l => out .fp32 ((x g l).mul (y g l)).1 ((x g l).mul (y g l)).2 false) ∧
    F (.ffma e sl r) 0x03#8 (fun g l => out .fp32 ((x g l).fma (y g l) (z g l)).1 ((x g l).fma (y g l) (z g l)).2 false) ∧
    F (.fdiv e sl r) 0x0D#8 (fun g l =>
      out .fp32 ((x g l).div (y g l)).1 ((x g l).div (y g l)).2.1 ((x g l).div (y g l)).2.2) ∧
    F (.hfma2 e sl r) 0x10#8 (half (fun a b c => a.fma b c)) ∧
    F (.hadd2 e sl r) 0x11#8 (half (fun a b _ => a.add b)) ∧
    F (.hmul2 e sl r) 0x12#8 (half (fun a b _ => a.mul b))

/-- The FP32 instructions that only pick a value or change the sign bit, and set no flag (R238): minimum and maximum with −0 below
+0 and a NaN giving way to the other operand, absolute value and negation for every operand. -/
def Obligations.FloatPickAndSignResults : Prop :=
  (∀ (e : Fin 50) (sl : Fin 48) (r : RForm),
    let W (c : Instr) (op : BitVec 8) (f : Group → Nat → Word) : Prop := WritesWord c e sl (r.encode 0x1#4 op) r.ud r.d f
    W (.fmin e sl r) 0x04#8 (fun g l => fpPick false (r.opA g l) (r.opB g l)) ∧
    W (.fmax e sl r) 0x05#8 (fun g l => fpPick true (r.opA g l) (r.opB g l)) ∧
    W (.fabs e sl r) 0x06#8 (fun g l => 0#1 ++ (r.opA g l).extractLsb' 0 31) ∧
    W (.fneg e sl r) 0x07#8 (fun g l => BitVec.ofBool (!(r.opA g l).getLsbD 31) ++ (r.opA g l).extractLsb' 0 31)) ∧
  (∀ (most : Bool) (a b : Word),
    let nan (x : Word) : Bool := (Fmt.fp32.decode x.toNat).isNan
    (nan a = true → nan b = true → fpPick most a b = 0x7FC00000#32) ∧
    (nan a = true → nan b = false → fpPick most a b = b) ∧
    (nan a = false → nan b = true → fpPick most a b = a) ∧
    (nan a = false → nan b = false → fpPick most a b = a ∨ fpPick most a b = b) ∧
    (nan a = false → nan b = false →
      ∃ c, (Fmt.fp32.decode (fpPick false a b).toNat).cmp (Fmt.fp32.decode (fpPick true a b).toNat) = some c ∧ c ≤ 0)) ∧
  fpPick false 0x80000000#32 0#32 = 0x80000000#32 ∧ fpPick false 0#32 0x80000000#32 = 0x80000000#32 ∧
  fpPick true 0x80000000#32 0#32 = 0#32 ∧ fpPick true 0#32 0x80000000#32 = 0#32

/-- exp2, log2, rcp and rsqrt (R238, R239): the instruction issues for every operand, each lane's result going to D and its conditions to
STAT; the special cases of R239, and, the model's own (log 15), those of the other infinities and of the square root of a negative
number; any other operand gives the exact value of 2^x, log2 x, 1/x or 1/√x, as the model computes it, rounded to a value within one
unit in the last place, which one the unit chooses (DEDUCED, log 15). -/
def Obligations.ApproximateFunctionResults : Prop :=
  (∀ (e : Fin 50) (sl : Fin 48) (r : RForm) (s : State) (g : Group) (p : Subset),
    let mode : RMode := if r.mod.getLsbD 0 then .zero else .nearest
    let F (c : Instr) (op : BitVec 8) (f : Approx) : Prop :=
      let w := r.encode 0x1#4 op
      let y (l : Nat) : Nat × FpFlags := approxFn f mode (r.opA g l)
      let v (l : Nat) : Word := BitVec.ofNat 32 (y l).1
      Issues s e sl w g p → ∃ t, exec c s = .next t ∧
        IssueDone s t e sl w g p (fun l x => destThread r.ud r.d v l (x.orStat (y l).2.bits)) (destFile r.ud r.d v g.u (actLanes w g p))
    F (.exp2 e sl r) 0x09#8 .exp2 ∧ F (.log2 e sl r) 0x0A#8 .log2 ∧ F (.rcp e sl r) 0x0B#8 .rcp ∧ F (.rsqrt e sl r) 0x0C#8 .rsqrt) ∧
  (∀ mode : RMode,
    (approxFn .exp2 mode 0xFF800000#32).1 = 0 ∧ (approxFn .exp2 mode 0x7F800000#32).1 = 0x7F800000 ∧
    approxFn .log2 mode 0#32 = (0xFF800000, { divZero := true }) ∧ approxFn .log2 mode 0x7F800000#32 = (0x7F800000, {}) ∧
    (∀ x : Word, x.getLsbD 31 = true → x ≠ 0x80000000#32 → (Fmt.fp32.decode x.toNat).isNan = false →
      approxFn .log2 mode x = (0x7FC00000, { invalid := true }) ∧ approxFn .rsqrt mode x = (0x7FC00000, { invalid := true })) ∧
    approxFn .rcp mode 0#32 = (0x7F800000, { divZero := true }) ∧
    approxFn .rcp mode 0x80000000#32 = (0xFF800000, { divZero := true }) ∧
    approxFn .rcp mode 0x7F800000#32 = (0, {}) ∧ approxFn .rcp mode 0xFF800000#32 = (0x80000000, {}) ∧
    approxFn .rsqrt mode 0#32 = (0x7F800000, { divZero := true }) ∧
    approxFn .rsqrt mode 0x80000000#32 = (0xFF800000, { divZero := true }) ∧ approxFn .rsqrt mode 0x7F800000#32 = (0, {}) ∧
    (∀ f (x : Word), (Fmt.fp32.decode x.toNat).isNan = true → approxFn f mode x = (0x7FC00000, {})) ∧
    (∀ (x : Word) neg m q, Fmt.fp32.decode x.toNat = .num neg m q →
      approxFn .exp2 mode x = approxRound .exp2 mode x (exp2Val neg m q) ∧
      (0 < m → approxFn .rcp mode x = approxRound .rcp mode x (rcpVal neg m q)) ∧
      (0 < m → neg = false → approxFn .log2 mode x = approxRound .log2 mode x (log2Val m q) ∧
        approxFn .rsqrt mode x = approxRound .rsqrt mode x (rsqrtVal m q)))) ∧
  (∀ (f : Approx) (mode : RMode) (x : Word) (neg : Bool) (m : Nat) (q : Int), 0 < m →
    (Fmt.fp32.round mode (.num neg m q)).2.overflow = false →
      (approxRound f mode x (.num neg m q)).1 % 2 ^ 31 ∈ approxSet m q)

/-- The conversions (R240, R241): cvt of the low bits of A, cvt.nar of an element under the scale in B[7:0], each by MOD's target,
rounding mode and OVF with the lane's own draw in stochastic mode, their conditions ORed into STAT (R242); cvt.blk converts the
issuing lanes in ascending order as one block, each lane's code into D and the scale into u(C), with no lane issuing nothing. -/
def Obligations.ConversionResults : Prop :=
  ∀ (e : Fin 50) (sl : Fin 48) (src : BitVec 4) (r : RForm),
    let f : Fmt := cvtSrc src
    let cv (v : Val) (k : Nat) : Nat × FpFlags := cvtValue (cvtDst r.mod) (cvtMode r.mod) (r.mod.getLsbD 3) k v
    WritesFloat (.cvt e sl src r) e sl (r.encode 0x2#4 (0x0#4 ++ src)) r.ud r.d
      (fun g l => cv (f.decode (fld (r.opA g l) 0 f.width)) (laneDraw g l r.mod r.b)) ∧
    WritesFloat (.cvtNar e sl src r) e sl (r.encode 0x2#4 (0x2#4 ++ src)) r.ud r.d
      (fun g l => cv (narrowVal f (r.opA g l).toNat (fld (r.opB g l) 0 8)) (laneDraw g l r.mod r.c)) ∧
    (∀ s g p, let w := r.encode 0x2#4 (0x3#4 ++ src)
      Issues s e sl w g p →
        let act := actLanes w g p
        let blk := convertBlock (cvtDst r.mod) (cvtMode r.mod) (act.map (fun l => laneDraw g l r.mod r.b))
          (act.map (fun l => f.decode (fld (r.opA g l) 0 f.width)))
        let el (l : Nat) : Nat × FpFlags := (blk.2[act.idxOf l]?).getD (0, {})
        let code (l : Nat) : Word := BitVec.ofNat 32 (el l).1
        ∃ t, exec (.cvtBlk e sl src r) s = .next t ∧
          IssueDone s t e sl w g p (fun l x => destThread r.ud r.d code l (x.orStat (el l).2.bits))
            (if act = [] then g.u else putD 0 (destFile r.ud r.d code g.u act) r.c.toNat (BitVec.ofNat 32 blk.1)))

/-- The control instructions (R243): br and jal go to the signed IMM beyond their own address, jal leaving the next instruction's
address in its pair; brv sends each thread to its own 8-byte aligned target; exit, nap, rdst and clst act on the thread, and after
an exit the barriers of the group and of its block settle (R203).
It rests on the model's own choices or readings of log 23. -/
def Obligations.ControlInstructionEffects : Prop :=
  ∀ (e : Fin 50) (sl : Fin 48) (s : State) (g : Group) (p : Subset),
    (∀ i : IForm, let w := i.encode 0x3#4 0x00#8
      Issues s e sl w g p → ∃ t, exec (.br e sl i) s = .next t ∧
        IssueTo s t e sl w g p (fun _ x => x) g.u (fun l => (g.th l).pc + i.imm.signExtend 48)) ∧
    (∀ i : IForm, let w := i.encode 0x3#4 0x02#8
      let back (l : Nat) : Addr := (g.th l).pc + 8
      Issues s e sl w g p → ∃ t, exec (.jal e sl i) s = .next t ∧
        IssueTo s t e sl w g p
          (fun l x => (x.setReg i.d.toNat ((back l).extractLsb' 0 32)).setReg (i.d.toNat + 1) (0#16 ++ (back l).extractLsb' 32 16)) g.u
          (fun l => (g.th l).pc + i.imm.signExtend 48)) ∧
    (∀ r : RForm, let w := r.encode 0x3#4 0x01#8
      let go (l : Nat) : Addr := (g.operand l r.ua (r.a + 1)).extractLsb' 0 16 ++ g.operand l r.ua r.a
      Issues s e sl w g p → (∀ l, l ∈ actLanes w g p → (go l).toNat % 8 = 0) → ∃ t, exec (.brv e sl r) s = .next t ∧
        IssueTo s t e sl w g p (fun _ x => x) g.u go) ∧
    (∀ r : RForm, let w := r.encode 0x3#4 0x03#8
      Issues s e sl w g p → ∃ t, exec (.exit e sl r) s = .next (settleAll t e sl) ∧
        IssueDone s t e sl w g p (fun _ x => { x with exited := true }) g.u) ∧
    (∀ i : IForm, let w := i.encode 0x3#4 0x04#8
      Issues s e sl w g p → ∃ t, exec (.nap e sl i) s = .next t ∧
        IssueDone s t e sl w g p (fun _ x => { x with nap := some i.imm.toNat }) g.u) ∧
    (∀ r : RForm, WritesWord (.rdst e sl r) e sl (r.encode 0x3#4 0x05#8) r.ud r.d (fun g l => 0#27 ++ (g.th l).stat)) ∧
    (∀ r : RForm, let w := r.encode 0x3#4 0x06#8
      Issues s e sl w g p → ∃ t, exec (.clst e sl r) s = .next t ∧
        IssueDone s t e sl w g p (fun _ x => { x with stat := x.stat &&& ~~~ r.mod.extractLsb' 0 5 }) g.u)

/-- The debug instructions and the fence (R252, R261): rdcyc writes the cycle count, one free value for the whole group-issue
(DESIGN CHOICE, log 12), and uses it up; fence has its effect at once, since every access reaches its point in order (DESIGN CHOICE, log 10). -/
def Obligations.FenceAndCycleCountEffects : Prop :=
  ∀ (e : Fin 50) (sl : Fin 48) (s : State) (g : Group) (p : Subset) (r : RForm),
    (let w := r.encode 0x8#4 0x00#8;
      Issues s e sl w g p → ∃ t, exec (.fence e sl r) s = .next t ∧ IssueDone s t e sl w g p (fun _ x => x) g.u) ∧
    (let w := r.encode 0xB#4 0x01#8;
      let c := Config.freeWord s.fresh;
      Issues s e sl w g p → ∃ t, exec (.rdcyc e sl r) s = .next t ∧
        IssueDone { s with fresh := s.fresh + 1 } t e sl w g p (destThread r.ud r.d (fun _ => c))
          (destFile r.ud r.d (fun _ => c) g.u (actLanes w g p)))

/-- The traps that an instruction takes by what it is (R208, R209, R233, R261): trap with its operand as the detail; an illegal
word, a word that names a v register beyond VREGS, and a word that cannot be fetched, in place of every instruction; brv to a
target that is not 8-byte aligned. The lowest lane is recorded, and the threads that trap stay at their instruction (DEDUCED, log 33).
It rests on the model's own choices or readings of log 22. -/
def Obligations.InstructionTraps : Prop :=
  ∀ (e : Fin 50) (sl : Fin 48) (s : State) (g : Group) (p : Subset),
    (∀ i : IForm, let w := i.encode 0xB#4 0x00#8
      ∀ l0 rest, Issues s e sl w g p → actLanes w g p = l0 :: rest →
        ∃ t, exec (.trap e sl i) s = .next (trapGroup t e sl l0 0x0A (fld i.imm 0 8) 0) ∧
          IssueTo s t e sl w g p (fun _ x => x) g.u (fun l => (g.th l).pc)) ∧
    (∀ r : RForm, let w := r.encode 0x3#4 0x01#8
      let go (l : Nat) : Addr := (g.operand l r.ua (r.a + 1)).extractLsb' 0 16 ++ g.operand l r.ua r.a
      ∀ l0 rest, Issues s e sl w g p → (actLanes w g p).filter (fun l => decide ((go l).toNat % 8 ≠ 0)) = l0 :: rest →
        ∃ t, exec (.brv e sl r) s = .next (trapGroup t e sl l0 0x0E 0 (go l0)) ∧
          IssueTo s t e sl w g p (fun _ x => x) g.u (fun l => if (go l).toNat % 8 = 0 then go l else (g.th l).pc)) ∧
    (∀ (w : BitVec 64) l0 rest, Picks s e sl g p → p.lanes = l0 :: rest → fetchWord s e p.pc = some w →
      breakpointAt s e p.pc = false →
      (legalWord w = false → ∃ t, exec (.illegalInstruction e sl w .word) s = .next (trapGroup t e sl l0 1 0 0) ∧ IssueStuck s t e sl g p) ∧
      (legalWord w = false → ∀ body, ∃ t, issue s e sl w body = trapGroup t e sl l0 1 0 0 ∧ IssueStuck s t e sl g p) ∧
      (legalWord w = true → launchVregs g.launch < vregsNamed w →
        ∀ body, ∃ t, issue s e sl w body = trapGroup t e sl l0 3 0 0 ∧ IssueStuck s t e sl g p)) ∧
    (∀ (w : BitVec 64) l0 rest, Picks s e sl g p → p.lanes = l0 :: rest → fetchWord s e p.pc = none →
      ∃ t, exec (.illegalInstruction e sl w .fetch) s = .next (trapGroup t e sl l0 0x0E 0 p.pc) ∧ IssueStuck s t e sl g p)

/-- What taking a trap does (R207, R216, R219, R221): the record of the lane goes into the group's slot, whose pending bit is set; in debug
mode with TRAP_HALT the groups of the block halt, an instruction in issue first completing, and the block keeps the code; otherwise
they stop and the block's item fails with the thread-engine trap code of R379.
It rests on the model's own choices or readings of log 33. -/
def Obligations.TrapRecordsAndStopsBlock : Prop :=
  ∀ (s : State) (e : Fin 50) (sl : Fin 48) (lane code detail : Nat) (addr : Addr) (g : Group), grp s e sl = some g → lane < 32 →
    let t := trapGroup s e sl lane code detail addr
    let halts := debugMode s && regBit s (Reg.TE_DBG_CTRL e) 11
    let pend := Reg.TE_TRAP_PEND e (sl / 32)
    let r : TrapRec := {
      code := BitVec.ofNat 8 code
      lane := Fin.ofNat 32 lane
      detail := BitVec.ofNat 8 detail
      gidx := BitVec.ofNat 5 g.gidx
      pc := (g.th lane).pc
      addr := addr
      orig := g.launch.extractLsb' 160 16
      item := g.launch.extractLsb' 176 13 }
    look (eng t e).traps sl = some r ∧
    (∀ sl' : Nat, sl' ≠ sl → look (eng t e).traps sl' = look (eng s e).traps sl') ∧
    regBit t pend (sl % 32) = true ∧
    (halts = true →
      t = { s with engines := t.engines, regs := t.regs } ∧ (∀ off, off ≠ pend → regWord t off = regWord s off) ∧
      (∀ i, i ≠ sl.val % 32 → regBit t pend i = regBit s pend i) ∧ (∀ e' : Nat, e' ≠ e → eng t e' = eng s e') ∧
      (∀ sl' h, grp s e sl' = some h → grp t e sl' = some (if h.block = g.block then
        { h with dbg := if h.inIssue = none then .halted else .halting, stepPend := false } else h)) ∧
      (∀ b, blockOf s e g = some b → blockOf t e g = some { b with trapped := some (BitVec.ofNat 8 code) })) ∧
    (halts = false →
      (∀ sl' h, grp s e sl' = some h → h.block = g.block → ∃ h', grp t e sl' = some h' ∧ h'.stopped = true) ∧
      (∀ x, ittOf s (launchKey g.launch) = some x → x.live = true →
        ∃ y, ittOf t (launchKey g.launch) = some y ∧ y.state = .failed ∧ y.code = 4#8 ∧
          y.detail = BitVec.ofNat 24 (code + engineNumber s e * 256)))

/-- Loads of local store, private bank, global memory and drain rings (R244 to R246, R300, R301): every lane with a true guard that passes
the checks of R208, once the requests of the group-issue have been issued at the engine's port under the launch record's tint and its
lane finds no poison, gets the bytes at the address it forms in v(D) onward, zero-extended; no byte of memory changes, and nothing else
but what the requests themselves do and the far ports that the item is known to use (R347); the local store takes no request. While a
request is held, or a lane's ring slot is undelivered, the instruction stays in issue, each lane of a ring load keeping the slot that it
named (R274).
It rests on the model's own choices or readings of logs 23 and 73. -/
def Obligations.LoadEffects : Prop :=
  ∀ (e : Fin 50) (sl : Fin 48) (m : MForm) (s : State) (g : Group) (p : Subset),
    let n := 2 ^ m.size.toNat
    let port := enginePort s e g.launch (decide (m.hint = 1))
    let L (c : Instr) (cls : BitVec 4) (sp : Space) : Prop :=
      let w := m.encode cls 0x00#8
      let f := fetched s e p.pc w
      ∀ (a : Nat → Nat) (u : State), Issues s e sl w g p →
        (∀ l, l ∈ actLanes w g p → laneCheck s e g sp false n l (laneAddr sp g l m.a m.b m.off) = .inr (a l) ∧
          laneCheck u e g sp false n l (laneAddr sp g l m.a m.b m.off) = .inr (a l)) →
        let made := if sp = .local then (true, f) else issueAll f port ((actLanes w g p).map (fun l => ⟨true, a l, n, false⟩))
        (made = (true, u) → (∀ l, l ∈ actLanes w g p → (spaceRead u e g sp (a l) n).2 = false) →
          ∃ t far, exec c s = .next t ∧
            IssueDone { u with far := far } t e sl w g p (fun l x => x.setRegs m.d.toNat (wordsOf (spaceRead u e g sp (a l) n).1)) g.u ∧
            Requested f u ∧ far = { u.far with users := far.users } ∧ (sp ≠ .global → far = u.far) ∧
            (∀ l, l ∈ actLanes w g p → sp = .global → farBase ≤ a l → a l < farBase + 12 * farSize →
              (launchKey g.launch, (a l - farBase) / farSize) ∈ far.users)) ∧
        (made = (false, u) → exec c s = .next (inIssueAt u e sl w g p []))
    (m.w = false → L (.ldLocal e sl m) 0x4#4 .local) ∧ L (.ldBank e sl m) 0x5#4 .bank ∧ L (.ldGlobal e sl m) 0x6#4 .global ∧
    (m.w = true → let w := m.encode 0x4#4 0x00#8
      ∀ (k : Nat → Nat) (bs : Nat → List Byte), Issues s e sl w g p →
        (∀ l, l ∈ actLanes w g p → ringLane s e m g l = .inr (k l, some (bs l))) →
        ∃ t, exec (.ldRing e sl m) s = .next t ∧
          IssueDone s t e sl w g p (fun l x => x.setRegs m.d.toNat (wordsOf (bs l))) g.u) ∧
    (m.w = true → let w := m.encode 0x4#4 0x00#8
      ∀ (k : Nat → Nat) (bs : Nat → Option (List Byte)) (l : Nat), Issues s e sl w g p → l ∈ actLanes w g p → bs l = none →
        (∀ l, l ∈ actLanes w g p → ringLane s e m g l = .inr (k l, bs l)) →
        exec (.ldRing e sl m) s = .next (inIssueAt (fetched s e p.pc w) e sl w g p ((actLanes w g p).map (fun l => (l, k l)))))

/-- Stores to local store, private bank and global memory (R244, R245, R247, R300, R301): every lane with a true guard that passes the
checks of R208, once the requests of the group-issue have been issued at the engine's port under the launch record's tint the lanes'
values of v(D) onward are written in lane order (DESIGN CHOICE, log 24) at the addresses they form, and the group moves on; while a
request is held the instruction stays in issue and has written nothing. -/
def Obligations.StoreEffects : Prop :=
  ∀ (e : Fin 50) (sl : Fin 48) (m : MForm) (s : State) (g : Group) (p : Subset),
    let n := 2 ^ m.size.toNat
    let port := enginePort s e g.launch (decide (m.hint = 1))
    let S (c : Instr) (cls : BitVec 4) (sp : Space) : Prop :=
      let w := m.encode cls 0x01#8
      let f := fetched s e p.pc w
      ∀ (a : Nat → Nat) (u : State), Issues s e sl w g p →
        let put (v : State) (l : Nat) : State :=
          noteLane (spaceWrite v e g sp (a l) ((g.th l).regBytes m.d.toNat n) (decide (m.hint = 1))) g sp (a l)
        let made := if sp = .local then (true, f) else issueAll f port ((actLanes w g p).map (fun l => ⟨false, a l, n, false⟩))
        (∀ l, l ∈ actLanes w g p → laneCheck s e g sp true n l (laneAddr sp g l m.a m.b m.off) = .inr (a l) ∧
          laneCheck (((actLanes w g p).takeWhile (fun k => decide (k ≠ l))).foldl put u) e g sp true n l (laneAddr sp g l m.a m.b m.off) =
            .inr (a l)) →
        (made = (true, u) → ∃ t, exec c s = .next t ∧ Requested f u ∧
          IssueDone ((actLanes w g p).foldl put u) t e sl w g p (fun _ x => x) g.u) ∧
        (made = (false, u) → exec c s = .next (inIssueAt u e sl w g p []))
    (m.w = false → S (.stLocal e sl m) 0x4#4 .local) ∧ S (.stBank e sl m) 0x5#4 .bank ∧ S (.stGlobal e sl m) 0x6#4 .global

/-- Where memory accesses trap (R208, R209, R246, R248): misaligned, beyond the map or not open to the engine, beyond the block's
allocation, poisoned; the lowest lane is recorded, a lane that traps writes nothing, and a store into a drain ring always traps. -/
def Obligations.AccessTraps : Prop :=
  (∀ (s : State) (e : Nat) (g : Group) (sp : Space) (write : Bool) (n l : Nat) (x : Int),
    (x % (n : Int) ≠ 0 → laneCheck s e g sp write n l x = .inl ⟨l, 4, 0, addr48 x⟩) ∧
    (x % (n : Int) = 0 → sp = .local → laneCheck s e g sp write n l x =
      if 0 ≤ x ∧ x + n ≤ 1024 * launchLsize g.launch then .inr x.toNat else .inl ⟨l, 6, 0, addr48 x⟩) ∧
    (x % (n : Int) = 0 → sp = .bank → ¬ (0 ≤ x ∧ x + n ≤ 0x800000) → laneCheck s e g sp write n l x = .inl ⟨l, 5, 0, addr48 x⟩) ∧
    (x % (n : Int) = 0 → sp = .global → laneCheck s e g sp write n l x =
      if (if write then mappedW s .teGlobal x.toNat n else mapped s .teGlobal x.toNat n) then .inr x.toNat else .inl ⟨l, 5, 0, addr48 x⟩)) ∧
  (∀ (e : Fin 50) (sl : Fin 48) (m : MForm) (s : State) (g : Group) (p : Subset),
    let n := 2 ^ m.size.toNat
    let T (c : Instr) (cls : BitVec 4) (op : BitVec 8) (sp : Space) (write : Bool) : Prop :=
      let w := m.encode cls op
      ∀ (f : Nat → LaneFault) l0 rest, Issues s e sl w g p → actLanes w g p = l0 :: rest →
        (∀ l, l ∈ actLanes w g p → laneCheck s e g sp write n l (laneAddr sp g l m.a m.b m.off) = .inl (f l)) →
        ∃ t, exec c s = .next (trapGroup t e sl l0 (f l0).code 0 (f l0).addr) ∧
          IssueTo s t e sl w g p (fun _ x => x) g.u (fun l => (g.th l).pc)
    (m.w = false → T (.ldLocal e sl m) 0x4#4 0x00#8 .local false ∧ T (.stLocal e sl m) 0x4#4 0x01#8 .local true) ∧
    T (.ldBank e sl m) 0x5#4 0x00#8 .bank false ∧ T (.stBank e sl m) 0x5#4 0x01#8 .bank true ∧
    T (.ldGlobal e sl m) 0x6#4 0x00#8 .global false ∧ T (.stGlobal e sl m) 0x6#4 0x01#8 .global true ∧
    (m.w = true → let w := m.encode 0x4#4 0x01#8
      ∀ l0 rest, Issues s e sl w g p → actLanes w g p = l0 :: rest →
        ∃ t, exec (.stLocal e sl m) s =
            .next (trapGroup t e sl l0 (if laneAddr .local g l0 m.a m.b m.off % (n : Int) = 0 then 6 else 4) 0 (addr48 (laneAddr .local g l0 m.a m.b m.off))) ∧
          IssueTo s t e sl w g p (fun _ x => x) g.u (fun l => (g.th l).pc)) ∧
    (let w := m.encode 0x6#4 0x00#8;
      ∀ (a : Nat) l0 (u : State), Issues s e sl w g p → actLanes w g p = [l0] →
        issueAll (fetched s e p.pc w) (enginePort s e g.launch (decide (m.hint = 1))) [⟨true, a, n, false⟩] = (true, u) →
        laneCheck s e g .global false n l0 (laneAddr .global g l0 m.a m.b m.off) = .inr a →
        laneCheck u e g .global false n l0 (laneAddr .global g l0 m.a m.b m.off) = .inr a → (spaceRead u e g .global a n).2 = true →
        ∃ t far, exec (.ldGlobal e sl m) s = .next (trapGroup t e sl l0 7 0 (BitVec.ofNat 48 a)) ∧
          IssueTo { u with far := far } t e sl w g p (fun _ x => x) g.u (fun l => (g.th l).pc) ∧ far = { u.far with users := far.users }))

/-- The atomics on one word (R199 to R201, R249 to R251, R300): once the one request of the lanes has been issued, lanes that name the same
word are served in ascending lane order, each receiving the word as it finds it; afadd adds the tree sum of its lanes once and all of
them receive the word before it; aload writes nothing and astore returns nothing.
It rests on the model's own choices or readings of log 73. -/
def Obligations.AtomicEffects : Prop :=
  ∀ (e : Fin 50) (sl : Fin 48) (m : AForm) (s : State) (g : Group) (p : Subset),
    let sp : Space := if m.space = 0 then .global else if m.space = 1 then .bank else .local
    let val (r : BitVec 8) (l : Nat) : Word := (g.th l).reg r.toNat
    let port := enginePort s e g.launch false
    let hyp (w : BitVec 64) (write : Bool) (a : Nat) (u : State) : Prop :=
      Issues s e sl w g p ∧ actLanes w g p ≠ [] ∧
      (∀ l, l ∈ actLanes w g p → laneCheck s e g sp write 4 l (laneAddr sp g l m.a m.b 0) = .inr a) ∧
      (if sp = .local then u = fetched s e p.pc w else issueAll (fetched s e p.pc w) port [⟨!write, a, 4, write⟩] = (true, u))
    let clean (a : Nat) (u : State) : Prop := (spaceRead u e g sp a 4).2 = false
    let word (a : Nat) (u : State) : Word := BitVec.ofNat 32 (ofBytes (spaceRead u e g sp a 4).1)
    let put (u : State) (a : Nat) (x : Word) : State := spaceWrite (noteLane u g sp a) e g sp a (bvBytes x) false
    let A (c : Instr) (op : BitVec 8) (f : Word → Word → Word → Word) : Prop :=
      let w := m.encode 0x7#4 op
      ∀ a u, hyp w true a u → clean a u →
        let upTo (ls : List Nat) : Word := ls.foldl (fun x l => f x (val m.c l) (val m.e l)) (word a u)
        ∃ t, exec c s = .next t ∧ Requested (fetched s e p.pc w) u ∧
          IssueDone (put u a (upTo (actLanes w g p))) t e sl w g p
            (fun l x => x.setReg m.d.toNat (upTo ((actLanes w g p).takeWhile (fun k => decide (k < l))))) g.u
    A (.aadd e sl m) 0x00#8 (fun x c _ => x + c) ∧ A (.asub e sl m) 0x01#8 (fun x c _ => x - c) ∧
    A (.aand e sl m) 0x02#8 (fun x c _ => x &&& c) ∧ A (.aor e sl m) 0x03#8 (fun x c _ => x ||| c) ∧
    A (.axor e sl m) 0x04#8 (fun x c _ => x ^^^ c) ∧
    A (.aminS e sl m) 0x05#8 (fun x c _ => if x.toInt ≤ c.toInt then x else c) ∧
    A (.amaxS e sl m) 0x06#8 (fun x c _ => if x.toInt ≤ c.toInt then c else x) ∧
    A (.aminU e sl m) 0x07#8 (fun x c _ => if x.toNat ≤ c.toNat then x else c) ∧
    A (.amaxU e sl m) 0x08#8 (fun x c _ => if x.toNat ≤ c.toNat then c else x) ∧
    A (.aexch e sl m) 0x09#8 (fun _ c _ => c) ∧ A (.acas e sl m) 0x0A#8 (fun x c n => if x = c then n else x) ∧
    (let w := m.encode 0x7#4 0x0B#8;
      ∀ a u, hyp w true a u → clean a u →
        let leaves := (List.range 32).map (fun l => if l ∈ actLanes w g p then some (val m.c l) else none)
        ∃ t x, treeRoot leaves = some x ∧ exec (.afadd e sl m) s = .next t ∧ Requested (fetched s e p.pc w) u ∧
          IssueDone (put u a (fadd32 (word a u) x)) t e sl w g p (fun _ x => x.setReg m.d.toNat (word a u)) g.u) ∧
    (let w := m.encode 0x7#4 0x0C#8;
      ∀ a u, hyp w false a u → clean a u → ∃ t, exec (.aload e sl m) s = .next t ∧ Requested (fetched s e p.pc w) u ∧
        IssueDone (noteLane u g sp a) t e sl w g p (fun _ x => x.setReg m.d.toNat (word a u)) g.u) ∧
    (let w := m.encode 0x7#4 0x0D#8;
      ∀ a u l, hyp w true a u → (actLanes w g p).getLast? = some l → ∃ t, exec (.astore e sl m) s = .next t ∧
        Requested (fetched s e p.pc w) u ∧ IssueDone (put u a (val m.c l)) t e sl w g p (fun _ x => x) g.u)

/-- What a write of local memory leaves at every address (R275 to R281, R291): the bytes written read back; in the hold window and the
private banks every other byte is untouched; below them, where the slice of the line allocates and (for the far tier) the staging area
has room, every byte is whose line the write did not evict from the SC, and an evicted line that was written in full reads as before. -/
def Obligations.WritesReachTheirBytes : Prop :=
  ∀ (s : State) (a : Nat) (bs : List Byte) (poison streaming : Bool), bs ≠ [] →
    let t := writeBytesHint s a bs poison streaming
    (holdBase ≤ a → ∀ x, readByte t x = if a ≤ x ∧ x < a + bs.length then bs.getD (x - a) 0 else readByte s x) ∧
    (a + bs.length ≤ holdBase → a / 128 = (a + bs.length - 1) / 128 →
      (look s.sc.lines (a / 128)).isSome = true ∨ sliceAllocates s (a / 128) = true →
      (∀ x, a ≤ x → x < a + bs.length → readByte t x = bs.getD (x - a) 0) ∧
      (∀ x, ¬ (a ≤ x ∧ x < a + bs.length) → x < farBase ∨ holdBase ≤ x ∨ stagedCount s < stagingBuffers →
        (look s.sc.lines (x / 128) = none ∨ (look t.sc.lines (x / 128)).isSome = true ∨ holdBase ≤ x) → readByte t x = readByte s x) ∧
      (∀ x q, look s.sc.lines (x / 128) = some q → look t.sc.lines (x / 128) = none → x < farBase →
        q.valid = BitVec.allOnes 128 → q.dirty = BitVec.allOnes 128 → readByte t x = readByte s x))

/-- Atomics whose lanes name several words (R199, R249): one request for each word, in the order of its first lane (DESIGN CHOICE, log 24);
once all of them have been issued, each acts on the state that the one before left; while one is held the instruction stays in issue. -/
def Obligations.AtomicsOnSeveralWords : Prop :=
  ∀ (e : Fin 50) (sl : Fin 48) (m : AForm) (s : State) (g : Group) (p : Subset) (a : Nat → Nat) (u : State),
    let sp : Space := if m.space = 0 then .global else if m.space = 1 then .bank else .local
    let A (c : Instr) (o : AtomOp) : Prop :=
      let w := m.encode 0x7#4 o.op
      let act := actLanes w g p
      let words := (act.map a).eraseDups
      let made := if sp = .local then (true, fetched s e p.pc w) else issueAll (fetched s e p.pc w) (enginePort s e g.launch false)
        (words.map (fun q => ⟨decide (o = .load), q, 4, decide (o ≠ .load)⟩))
      let r := words.foldl (fun r q => atomRequest e o m r q (act.filter (fun l => decide (a l = q)))) { st := u, g := g, faults := [] }
      Issues s e sl w g p →
        (∀ l, l ∈ act → laneCheck s e g sp (decide (o ≠ .load)) 4 l (laneAddr sp g l m.a m.b 0) = .inr (a l)) →
        (made = (true, u) → r.faults = [] → ∃ t, exec c s = .next t ∧ IssueDone r.st t e sl w g p (fun l _ => r.g.th l) g.u) ∧
        (made = (false, u) → exec c s = .next (inIssueAt u e sl w g p []))
    A (.aadd e sl m) .add ∧ A (.asub e sl m) .sub ∧ A (.aand e sl m) .and ∧ A (.aor e sl m) .or ∧ A (.axor e sl m) .xor ∧
    A (.aminS e sl m) .minS ∧ A (.amaxS e sl m) .maxS ∧ A (.aminU e sl m) .minU ∧ A (.amaxU e sl m) .maxU ∧
    A (.aexch e sl m) .exch ∧ A (.acas e sl m) .cas ∧ A (.afadd e sl m) .fadd ∧ A (.aload e sl m) .load ∧ A (.astore e sl m) .store

/-- Barriers (R202 to R205, R208, R221): the threads with a true guard wait at the barrier that MOD names, and the group goes on to settle
it: where every thread that it counts has arrived all of them are ready again; a lane outside its mask, and every lane where the
generation was entered in another form, traps with code 9 and the barrier's number as its detail. -/
def Obligations.BarrierEffects : Prop :=
  ∀ (e : Fin 50) (sl : Fin 48) (r : RForm) (s : State) (g : Group) (p : Subset),
    let w := r.encode 0x9#4 0x00#8
    let block := r.mod.getLsbD 0
    let num : Fin 8 := Fin.ofNat 8 (fld r.mod 1 3)
    let B (c : Instr) (mask : Option Word) : Prop :=
      let b : BarWait := ⟨block, num, mask⟩
      let inMask (l : Nat) : Prop := ∀ m, mask = some m → m.getLsbD l = true
      let same : Prop := ∀ x, barrierForm s e sl g block num = some x → x = b
      (Issues s e sl w g p → (∀ l, l ∈ actLanes w g p → inMask l) → same →
        ∃ t, exec c s = .next (settleBarrier t e sl block num) ∧ IssueDone s t e sl w g p (fun _ x => { x with bar := some b }) g.u) ∧
      (∀ (bad : Nat → Bool) l0 rest, Issues s e sl w g p → (∀ l, bad l = true ↔ (¬ same ∨ ¬ inMask l)) →
        (actLanes w g p).filter bad = l0 :: rest →
        ∃ t, exec c s = .next (trapGroup (settleBarrier t e sl block num) e sl l0 9 num 0) ∧
          IssueTo s t e sl w g p (fun l x => if bad l then x else { x with bar := some b }) g.u
            (fun l => if bad l then (g.th l).pc else (g.th l).pc + 8))
    (r.mod.getLsbD 4 = false → B (.bar e sl r) none) ∧
    (r.mod.getLsbD 4 = true → B (.barMasked e sl r) (some (g.ureg r.a.toNat)))

/-- The release of a barrier (R202 to R204): every thread of the group, or of the block's groups, that has not exited and lies in the
mask is counted; once all of them wait none of them waits any more; otherwise nothing changes. -/
def Obligations.BarrierReleasesWhenAllArrive : Prop :=
  ∀ (s : State) (e sl : Nat) (g : Group) (block : Bool) (num : Fin 8) (b : BarWait),
    grp s e sl = some g → g.threads.length = 32 → barrierForm s e sl g block num = some b →
    let counted (h : Group) (l : Nat) : Prop := l < 32 ∧ (h.th l).exited = false ∧ ∀ m, b.mask = some m → m.getLsbD l = true
    let member (sl' : Nat) (h : Group) : Prop := if b.block then (sl', h) ∈ (eng s e).groups ∧ h.block = g.block else sl' = sl ∧ h = g
    let waits (t : Thread) : Prop := ∃ x, t.bar = some x ∧ x.block = block ∧ x.num = num
    let t := settleBarrier s e sl block num
    ((∃ sl' h l, member sl' h ∧ grp s e sl' = some h ∧ counted h l ∧ ¬ waits (h.th l)) → t = s) ∧
    ((∀ sl' h l, member sl' h → counted h l → ∃ h', grp s e sl' = some h' ∧ waits (h'.th l)) →
      t = { s with engines := t.engines } ∧
      ∀ sl' h, grp s e sl' = some h → ∃ h', grp t e sl' = some h' ∧ h'.threads.length = h.threads.length ∧
        ∀ l, l < h.threads.length → h'.th l =
          if (if block then h.block = g.block else sl' = sl) ∧ waits (h.th l) then { h.th l with bar := none } else h.th l)

/-- The instructions that give work to the tensor arrays (R82, R83, R154, R187, R254, R255): the descriptor in u(A) onward goes to
array MOD[1:0] of the engine's own region under the identity of the launch record; a wrong OP or an array that is not granted traps;
a full queue or ring keeps the instruction in issue. -/
def Obligations.ArrayDescriptorInstructions : Prop :=
  ∀ (e : Fin 50) (sl : Fin 48) (r : RForm) (s : State) (g : Group) (p : Subset),
    let n := 4 * e.val + fld r.mod 0 2
    let D (c : Instr) (code : BitVec 8) (op : Nat) : Prop :=
      let w := r.encode 0xA#4 code
      let u := issueDesc (fetched s e p.pc w) n (argDesc g r) (.group sl g.age)
      let once : Prop := Issues s e sl w g p ∧ actLanes w g p ≠ []
      let named : Prop := fld (g.ureg r.a.toNat) 0 4 = op
      let open_ : Prop := g.launch.getLsbD (224 + fld r.mod 0 2) = true ∧ arrayEnabled s n = true
      (Issues s e sl w g p → actLanes w g p = [] → ∃ t, exec c s = .next t ∧ IssueDone s t e sl w g p (fun _ x => x) g.u) ∧
      (once → named → open_ → u.1 ≠ .full → u.1 ≠ .ringHeld →
        ∃ t, exec c s = .next t ∧ IssueFrame u.2 t e sl ∧
          ((∀ h, grp u.2 e sl = some h → h.stopped = false) → IssueDone u.2 t e sl w g p (fun _ x => x) g.u)) ∧
      (once → named → open_ → u.1 = .full ∨ u.1 = .ringHeld → exec c s = .next (inIssueAt u.2 e sl w g p [])) ∧
      (∀ l0 rest, once → actLanes w g p = l0 :: rest → (¬ named ∨ ¬ open_) →
        ∃ t, exec c s = .next (trapGroup t e sl l0 (if fld (g.ureg r.a.toNat) 0 4 = op then 2 else 1) 0 0) ∧
          IssueTo s t e sl w g p (fun _ x => x) g.u (fun l => (g.th l).pc))
    D (.apass e sl r) 0x00#8 1 ∧ D (.apre e sl r) 0x01#8 2 ∧ D (.adrain e sl r) 0x02#8 3

/-- Waiting for the arrays and reading their rings (R153, R155, R256, R258): await takes MOD[9:2] completions of its group and gives
the OR of their flags, dpop takes a ring's oldest completion as {SEQ, flags}, and both stay in issue while there are too few; drel
releases that many of the oldest slots, keeping them only for a ring load that is in issue, and traps with code 0x0C, releasing none, when fewer are delivered. -/
def Obligations.CompletionAndRingInstructions : Prop :=
  ∀ (e : Fin 50) (sl : Fin 48) (r : RForm) (s : State) (g : Group) (p : Subset),
    let a := fld r.mod 0 2
    let n := fld r.mod 2 8
    let once (w : BitVec 64) : Prop := Issues s e sl w g p ∧ actLanes w g p ≠ []
    let rel (q : Ring) (s : State) : State := setRing s e a q
    (let w := r.encode 0xA#4 0x03#8;
      let l := g.done.getD a [];
      let v : Word := ((l.take n).foldl (· ||| ·) 0).setWidth 32;
      let k : Group := { g with done := modAt g.done a (fun l => l.drop n) };
      (once w → n ≤ l.length → ∃ t h, exec (.await e sl r) s = .next t ∧ IssueFrame s t e sl ∧ grp t e sl = some h ∧
        IssuedGroup w k p (destThread r.ud r.d (fun _ => v)) (destFile r.ud r.d (fun _ => v) g.u (actLanes w g p))
          (fun l => (g.th l).pc + 8) h) ∧
      (once w → l.length < n → exec (.await e sl r) s = .next (inIssueAt (fetched s e p.pc w) e sl w g p []))) ∧
    (let w := r.encode 0xA#4 0x09#8;
      (∀ k fl seq q, once w → (ring s e a).fifo = (k, fl, seq) :: q →
        let v : Word := seq ++ (0#7 ++ fl.extractLsb' 0 9)
        ∃ t, exec (.dpop e sl r) s = .next t ∧
          IssueDone (rel { ring s e a with fifo := q } (fetched s e p.pc w)) t e sl w g p (destThread r.ud r.d (fun _ => v))
            (destFile r.ud r.d (fun _ => v) g.u (actLanes w g p))) ∧
      (once w → (ring s e a).fifo = [] → exec (.dpop e sl r) s = .next (inIssueAt (fetched s e p.pc w) e sl w g p []))) ∧
    (let w := r.encode 0xA#4 0x08#8;
      (once w → n ≤ (ring s e a).slots.length → ∃ t, exec (.drel e sl r) s = .next t ∧
        IssueDone (rel ((ring s e a).release n (ringWaits s e)) (fetched s e p.pc w)) t e sl w g p (fun _ x => x) g.u ∧
        ((ring s e a).release n (ringWaits s e)).slots = (ring s e a).slots.drop n) ∧
      (∀ l0 rest, once w → actLanes w g p = l0 :: rest → (ring s e a).slots.length < n →
        ∃ t, exec (.drel e sl r) s = .next (trapGroup t e sl l0 0x0C 0 0) ∧
          IssueTo s t e sl w g p (fun _ x => x) g.u (fun l => (g.th l).pc)))

/-- lst (R171, R257): the tile of the local store reserves the free shadow slot of the array as a lake write; it stays in issue while
R171 withholds the shadow; a format that is no array input, a tile beyond MT or KT, an unaligned offset or pitch and a byte beyond the
allocation trap with codes 1, 4 and 6. -/
def Obligations.LakeTileInstruction : Prop :=
  ∀ (e : Fin 50) (sl : Fin 48) (r : RForm) (s : State) (g : Group) (p : Subset) (f : Fmt),
    let w := r.encode 0xA#4 0x04#8
    let n := 4 * e.val + fld r.mod 0 2
    let q (i : Nat) : Word := g.ureg (r.a.toNat + i)
    let off := (q 0).toNat
    let pitch := (q 1).toNat
    let mt := fld (q 2) 0 8 + 1
    let kt := fld (q 2) 8 9 + 1
    let code := fld (q 2) 20 4
    let sc := (q 3).toNat
    let size := 1024 * launchLsize g.launch
    let input : Prop := f.rateClass ≠ none ∧ mt ≤ 128 ∧ kt ≤ (if f.narrow then 256 else 128)
    let aligned : Prop := off % 64 = 0 ∧ pitch % 64 = 0 ∧ (f.narrow = true → sc % 64 = 0)
    let inside : Prop := off + (mt - 1) * pitch + f.rowBytes kt ≤ size ∧ (f.narrow = true → sc + 8 * mt ≤ size)
    let once : Prop := Issues s e sl w g p ∧ actLanes w g p ≠ []
    let a := arr s n
    (once → Fmt.ofCode code = some f → input → aligned → inside → lakeOpen a = true →
      ∃ t x, exec (.lst e sl r) s = .next t ∧
        IssueDone (setArr s n { a with lake := some ⟨x, false, false⟩ }) t e sl w g p (fun _ x => x) g.u ∧
        x.key = launchKey g.launch ∧ x.fmt = BitVec.ofNat 4 code ∧ x.mt = mt ∧ x.kt = kt ∧ x.codes.length = mt ∧
        (∀ i k b, i < mt → k < kt → blockOf s e g = some b →
          (x.codes.getD i []).getD k 0 = BitVec.ofNat 32 (f.element (tab (f.rowBytes kt) (fun j => b.byte (off + i * pitch + j))) k))) ∧
    (once → Fmt.ofCode code = some f → input → aligned → inside → lakeOpen a = false →
      exec (.lst e sl r) s = .next (inIssueAt (fetched s e p.pc w) e sl w g p [])) ∧
    (∀ l0 rest, once → actLanes w g p = l0 :: rest →
      let T (c : Nat) (addr : Addr) : Prop := ∃ t, exec (.lst e sl r) s = .next (trapGroup t e sl l0 c 0 addr) ∧
        IssueTo s t e sl w g p (fun _ x => x) g.u (fun l => (g.th l).pc)
      (Fmt.ofCode code = none → T 1 0) ∧
      (Fmt.ofCode code = some f → ¬ input → T 1 0) ∧
      (Fmt.ofCode code = some f → input → ¬ aligned → T 4 (BitVec.ofNat 48 off)) ∧
      (Fmt.ofCode code = some f → input → aligned → ¬ inside → T 6 (BitVec.ofNat 48 off)))

/-- Arming and signalling a tag (R164 to R167, R184, R259): the entry of the group's key and the tag; arming a tag with no entry creates it,
arming a counted one gives it its EXPECT, a second arming fails the item while it is live; a signal counts once and a count beyond
EXPECT fails the item while it is live; while the table is full a tarm stays in issue, and so does a tsig of a tag with no entry, and
FULL is set; a tag or EXPECT of 0 traps.
It rests on the model's own choices or readings of log 23. -/
def Obligations.TriggerInstructions : Prop :=
  ∀ (e : Fin 50) (sl : Fin 48) (r : RForm) (s : State) (g : Group) (p : Subset),
    let k := launchKey g.launch
    let tag := fld (g.ureg r.a.toNat) 0 16
    let x := fld (g.ureg r.a.toNat) 16 16
    let live : Prop := ∃ i, ittOf s k = some i ∧ i.live = true
    let once (w : BitVec 64) : Prop := Issues s e sl w g p ∧ actLanes w g p ≠ []
    let room : Prop := s.items.trig.length < 4096
    let add (y : TrigEntry) : State := { s with items := { s.items with trig := s.items.trig ++ [y] } }
    let fails (w : BitVec 64) : State := failItem (setRegBit (fetched s e p.pc w) Reg.DSP_TRIG_STAT 18) k 5 tag
    let done (c : Instr) (w : BitVec 64) (m : State) : Prop :=
      ∃ t, exec c s = .next t ∧ IssueFrame m t e sl ∧
        ((∀ h, grp m e sl = some h → h.stopped = false) → IssueDone m t e sl w g p (fun _ x => x) g.u)
    let waits (c : Instr) (w : BitVec 64) : Prop :=
      exec c s = .next (inIssueAt (setRegBit (fetched s e p.pc w) Reg.DSP_TRIG_STAT 16) e sl w g p [])
    let traps (c : Instr) (w : BitVec 64) : Prop := ∀ l0 rest, actLanes w g p = l0 :: rest →
      ∃ t, exec c s = .next (trapGroup t e sl l0 1 0 0) ∧ IssueTo s t e sl w g p (fun _ x => x) g.u (fun l => (g.th l).pc)
    (let w := r.encode 0xA#4 0x0C#8;
      (once w → tag ≠ 0 → x ≠ 0 → trigOf s k tag = none → room →
        done (.tarm e sl r) w (add ⟨k, BitVec.ofNat 16 tag, some (BitVec.ofNat 16 x), 0⟩)) ∧
      (∀ y, once w → tag ≠ 0 → x ≠ 0 → trigOf s k tag = some y → y.expect = none → y.count ≤ x → room →
        done (.tarm e sl r) w (setTrig s k tag (fun z => { z with expect := some (BitVec.ofNat 16 x) }))) ∧
      (∀ y, once w → tag ≠ 0 → x ≠ 0 → trigOf s k tag = some y → (y.expect ≠ none ∨ x < y.count) → room →
        (live → done (.tarm e sl r) w (fails w)) ∧ (¬ live → done (.tarm e sl r) w s)) ∧
      (once w → tag ≠ 0 → x ≠ 0 → ¬ room → waits (.tarm e sl r) w) ∧ (once w → tag = 0 ∨ x = 0 → traps (.tarm e sl r) w)) ∧
    (let w := r.encode 0xA#4 0x0D#8;
      (once w → tag ≠ 0 → trigOf s k tag = none → room → done (.tsig e sl r) w (add ⟨k, BitVec.ofNat 16 tag, none, 1⟩)) ∧
      (∀ y, once w → tag ≠ 0 → trigOf s k tag = some y → (∀ n, y.expect = some n → y.count + 1 ≤ n.toNat) →
        done (.tsig e sl r) w (setTrig s k tag (fun z => { z with count := z.count + 1 }))) ∧
      (∀ y n, once w → tag ≠ 0 → trigOf s k tag = some y → y.expect = some n → n.toNat < y.count + 1 →
        (live → done (.tsig e sl r) w (fails w)) ∧ (¬ live → done (.tsig e sl r) w s)) ∧
      (once w → tag ≠ 0 → trigOf s k tag = none → ¬ room → waits (.tsig e sl r) w) ∧ (once w → tag = 0 → traps (.tsig e sl r) w))

/-- scanrep (R150, R254, R260): the first report of an engine for a pre-scan lowers its number from those awaited and raises the maxima,
0x8000_0000 being absent; the last share gives the anchor of R123; other anchors and later reports change nothing. -/
def Obligations.ScanReportInstruction : Prop :=
  ∀ (e : Fin 50) (sl : Fin 48) (r : RForm) (s : State) (g : Group) (p : Subset),
    let w := r.encode 0xA#4 0x0E#8
    let q (i : Nat) : Word := g.ureg (r.a.toNat + i)
    let share (v : Word) : Option Int := if v = 0x80000000#32 then none else some v.toInt
    let best (x y : Option Int) : Option Int := if x = none then y else if y = none then x else some (max (x.getD 0) (y.getD 0))
    let hit (x : AnchorEntry) : Prop := x.key = launchKey g.launch ∧ x.t.val = fld (q 0) 0 4 ∧ e ∈ x.waiting
    Issues s e sl w g p → actLanes w g p ≠ [] →
      ∃ (t : State) (as : List AnchorEntry), exec (.scanrep e sl r) s = .next t ∧
        IssueDone { s with items := { s.items with anchors := as } } t e sl w g p (fun _ x => x) g.u ∧
        as.length = s.items.anchors.length ∧
        ∀ (i : Nat) x y, s.items.anchors[i]? = some x → as[i]? = some y →
          (¬ hit x → y = x) ∧
          (hit x → y.waiting = x.waiting.filter (fun i => i ≠ e) ∧ y.ex = best x.ex (share (q 1)) ∧ y.ew = best x.ew (share (q 2)) ∧
            y.eb = best x.eb (share (q 3)) ∧ y.key = x.key ∧ y.t = x.t ∧ y.k = x.k ∧
            (y.waiting ≠ [] → y.anchor = x.anchor) ∧ (y.waiting = [] → y.anchor = some (prescanAnchor y.ex y.ew y.eb x.k.toNat)))

/-- GDDR7 controllers and the commits of the far tier (R327 to R329, R335, R336, R338, R341, R342): a controller recalibrates after its
retries or its move of temperature and is retired with the loss of all GDDR7 contents, or the device faults with fewer than 6 left; a
commit takes the least worn free granule as its target, a completed COMMIT_GRANULE adds 1 to its WEAR, and only its journal record
changes the forward entry and frees or retires the old granule, unless a levelling move (R337) takes them up at once; a program failure retires the target and a third one fails the port.
A command that finds nothing to act on leaves the state as it is (the model's choice, log 1).
It rests on the model's own choices or readings of logs 50, 51 and 73. -/
def Obligations.ControllerAndCommitCommands : Prop :=
  (∀ (c : Fin 12) (s : State),
    (∀ retries temp, ctlState s c = 2 →
      let moved : Prop := ∃ x, look s.near.calib c = some x ∧ 10 ≤ (temp - x).natAbs
      (64 < retries ∨ moved → ∃ t, exec (.recalibration c retries temp) s = .next t ∧ ctlState t c = 3 ∧
        t = { s with regs := t.regs, near := { s.near with calib := put s.near.calib c temp } }) ∧
      (retries ≤ 64 → ¬ moved → exec (.recalibration c retries temp) s = .next s)) ∧
    (∀ retries temp, ctlState s c ≠ 2 → exec (.recalibration c retries temp) s = .next s) ∧
    (ctlState s c = 3 →
      (∃ u, exec (.recalibrationComplete c true) s = .next (serveWaiting u) ∧ ctlState u c = 2 ∧ u = { s with regs := u.regs }) ∧
      (∃ u, exec (.recalibrationComplete c false) s = .next (serveWaiting u) ∧ ctlState u c = 2 ∧ c.val ∈ u.near.failing ∧
        u = { s with regs := u.regs, near := { s.near with failing := u.near.failing } })) ∧
    (ctlState s c ≠ 3 → ∀ ok, exec (.recalibrationComplete c ok) s = .next s) ∧
    (s.sc.held = [] → s.sc.host = [] → serveWaiting s = s) ∧
    (∀ on, on = (List.range 12).filter (fun i => decide (i ≠ c.val) && (decide (ctlState s i = 2) || decide (ctlState s i = 3))) →
      c.val ∈ s.near.failing → ctlState s c = 2 →
        (6 ≤ on.length → ∃ t, exec (.controllerRetirement c) s = .next t ∧ ctlState t c = 4 ∧ regBit t Reg.NEAR_STATUS 4 = true ∧
          regFld t Reg.NEAR_STATUS 0 4 = on.length ∧ regFld t Reg.NEAR_STATUS 8 24 = 7936 * on.length - 2048 ∧
          (∀ x, x ∈ t.mem → holdBase ≤ x.1) ∧ (∀ l, l * 128 < farBase → look t.sc.lines l = none) ∧
          (∀ k x, ittOf s k = some x → x.live = true →
            ∃ y, ittOf t k = some y ∧ y.state = .failed ∧ y.code = 7#8 ∧ y.detail = BitVec.ofNat 24 c) ∧
          (∀ p, p < 12 → portServes s p = true → (farPort s p).staging ≠ [] → regBit t (Reg.FME_PORT_STAT p) 7 = true)) ∧
        (on.length < 6 → ∃ t, exec (.controllerRetirement c) s = .next t ∧ t.pins.coreUp = false ∧ t.pins.railsFault = true ∧ t.mem = []))) ∧
  (∀ (p : Fin 12) (g : BitVec 23) (s : State),
    let f := farPort s p
    let k := g.toNat
    let free : Prop := portServes s p = true ∧ look f.commits k = none
    (∀ x, free → leastWorn f.tables = some x →
      (commitDue s p k = true → ∃ t c, exec (.commit p g) s = .next t ∧ look (farPort t p).commits k = some c ∧ c.target = x ∧
        c.image = commitImage s p k ∧ c.committed = false ∧ (farPort t p).tables.fwd = f.tables.fwd ∧
        (farModule t p).media = (farModule s p).media) ∧
      (∀ y, look f.tables.fwd k = some y → regFld s Reg.FME_CFG 0 11 ≤ granuleAge f.tables y → f.first = [] ∨ k ∈ f.first →
        ∃ t c, exec (.refresh p g) s = .next t ∧ look (farPort t p).commits k = some c ∧ c.target = x ∧ c.image = commitImage s p k) ∧
      (∀ y, look f.tables.fwd k = some y →
        ∃ t c, exec (.fm576Event p [g]) s = .next t ∧ look (farPort t p).commits k = some c ∧ c.target = x ∧ c.image = commitImage s p k)) ∧
    (commitDue s p k = false → exec (.commit p g) s = .next s) ∧
    (∀ y, look f.tables.fwd k = some y → granuleAge f.tables y < regFld s Reg.FME_CFG 0 11 ∨ (f.first ≠ [] ∧ k ∉ f.first) →
      exec (.refresh p g) s = .next s) ∧
    (∀ c, look f.commits k = some c → c.committed = false →
      (∃ t, exec (.commitGranuleComplete p g true) s = .next t ∧ look (farPort t p).commits k = some { c with committed := true } ∧
        (physRec (farPort t p).tables c.target).wear = (physRec f.tables c.target).wear + 1 ∧
        (physRec (farPort t p).tables c.target).state = 1 ∧ (farPort t p).tables.fwd = f.tables.fwd ∧
        (farModule t p).journal = (farModule s p).journal) ∧
      (2 ≤ c.fails → ∃ t, exec (.commitGranuleComplete p g false) s = .next t ∧ farState t p = 6 ∧ (farPort t p).staging = [] ∧
        (farModule t p).media = (farModule s p).media) ∧
      (∀ x, c.fails < 2 → leastWorn { f.tables with phys := put f.tables.phys c.target { physRec f.tables c.target with state := 3 } } = some x →
        ∃ t, exec (.commitGranuleComplete p g false) s = .next t ∧
          look (farPort t p).commits k = some { c with target := x, fails := c.fails + 1 } ∧
          (farModule t p).journal = (farModule s p).journal ++ [⟨k, 4, c.target, f.seq + 1⟩] ∧ (farPort t p).tables.fwd = f.tables.fwd)) ∧
    (∀ c, look f.commits k = some c → c.committed = false → exec (.journalRecordComplete p g) s = .next s) ∧
    (∀ c, look f.commits k = some c → c.committed = true → ∃ t, exec (.journalRecordComplete p g) s = .next t ∧
      look (farPort t p).tables.fwd k = some c.target ∧ (∀ k', k' ≠ k → look (farPort t p).tables.fwd k' = look f.tables.fwd k') ∧
      (f.sinceLevel < 1024 → look (farPort t p).commits k = none) ∧
      (∀ x, look f.tables.fwd k = some x →
        (c.defective = false → (physRec f.tables x).wear < wearLimit s → f.sinceLevel < 1024 → (physRec (farPort t p).tables x).state = 0) ∧
        (c.defective = false → wearLimit s ≤ (physRec f.tables x).wear → (physRec (farPort t p).tables x).state = 2) ∧
        (c.defective = true → (physRec (farPort t p).tables x).state = 3))) ∧
    (portServes s p = true → ∃ t, exec (.poweredHour p) s = .next t ∧ (farModule t p).hours = (farModule s p).hours + 1 ∧
      (farPort t p).tables.hours = f.tables.hours + 1 ∧ (farPort t p).tables.fwd = f.tables.fwd ∧
      (f.sinceLevel < 1024 →
        farPort t p = { f with tables := { f.tables with hours := f.tables.hours + 1 } } ∧ t = { s with far := t.far, tint := t.tint })) ∧
    (portServes s p = false → exec (.poweredHour p) s = .next s))

/-- Persists and the states of the far ports (R345 to R348, R356): a request takes the next sequence number while fewer than 32,767
persists are outstanding and is discarded with REQ_REFUSED otherwise; the oldest persist ends once nothing that it waits for is left;
a port that loses its link is DOWN without its staged writes, and what its link finds on its return decides the state that it mounts
in; FORMAT, UNMOUNT and MOUNT act only while no item is accepted and in the states of R356.
A command that finds nothing to act on leaves the state as it is (the model's choice, log 1). -/
def Obligations.PersistAndMountCommands : Prop :=
  (∀ (v : Word) (s : State), blockLive s Reg.FME_PERSIST = true →
    (s.far.persists.length < 32767 → ∃ t, exec (.persistReq v) s = .next t ∧
      regFld t Reg.FME_PERSIST_STAT 0 16 = (regFld s Reg.FME_PERSIST_STAT 0 16 + 1) % 2 ^ 16 ∧
      regFld t Reg.FME_PERSIST_STAT 16 16 = regFld s Reg.FME_PERSIST_STAT 16 16 ∧ regBit t Reg.FME_STATUS 0 = true ∧
      (∃ q r, t.far.persists = q ++ [r] ∧ q.map (·.seq) = s.far.persists.map (·.seq) ∧
        r.seq.toNat = (regFld s Reg.FME_PERSIST_STAT 0 16 + 1) % 2 ^ 16) ∧ t.mem = s.mem) ∧
    (32767 ≤ s.far.persists.length → exec (.persistReq v) s = .next (setRegBit s Reg.FME_STATUS 2))) ∧
  (∀ (s : State) r q, s.far.persists = r :: q →
    (r.covers = [] → ∃ t, exec .persistComplete s = .next t ∧ t.far = { s.far with persists := q } ∧
      regFld t Reg.FME_PERSIST_STAT 16 16 = r.seq.toNat ∧ regFld t Reg.FME_PERSIST_STAT 0 16 = regFld s Reg.FME_PERSIST_STAT 0 16 ∧
      regBit t Reg.GLB_CAUSE 6 = true ∧ t.mem = s.mem) ∧
    (r.covers ≠ [] → exec .persistComplete s = .next s)) ∧
  (∀ (p : Fin 12) (s : State),
    (farState s p = 0 → exec (.farPortLinkLoss p) s = .next s) ∧
    (farState s p ≠ 0 → ∃ t, exec (.farPortLinkLoss p) s = .next t ∧ farState t p = 0 ∧ regFld t (Reg.FME_PORT_STAT p) 4 3 = 0 ∧
      (farPort t p).staging = [] ∧ t.far.modules = s.far.modules ∧
      (portServes s p = true → (farPort s p).staging ≠ [] → regBit t (Reg.FME_PORT_STAT p) 7 = true) ∧
      ∀ k x, portServes s p = true → s.far.users = [(k, p.val)] → ittOf s k = some x → x.live = true →
        ∃ y, ittOf t k = some y ∧ y.state = .failed ∧ y.code = 8#8 ∧ y.detail = BitVec.ofNat 24 p) ∧
    (∀ f : FarFound, farState s p = 0 → 11 ≤ s.boot.done →
      (f.ready = false ∨ f.rate64 = false ∨ (f.width.toNat ≠ 1 ∧ f.width.toNat ≠ 2 ∧ f.width.toNat ≠ 4)) →
        ∃ t, exec (.farLinkReturn p f) s = .next t ∧ farState t p = 0 ∧ regFld t (Reg.FME_PORT_STAT p) 4 3 = 0 ∧ t.far.modules = s.far.modules) ∧
    (∀ f : FarFound, farState s p = 0 → 11 ≤ s.boot.done → f.ready = true → f.rate64 = true →
      (f.width.toNat = 1 ∨ f.width.toNat = 2 ∨ f.width.toNat = 4) →
        ∃ t, exec (.farLinkReturn p f) s = .next t ∧ regFld t (Reg.FME_PORT_STAT p) 4 3 = f.width.toNat ∧
          (f.mediaOk = false → farState t p = 6) ∧
          (f.mediaOk = true → (farModule s p).header = .absent → farState t p = 1) ∧
          (f.mediaOk = true → (farModule s p).header = .foreign → farState t p = 2) ∧
          (f.mediaOk = true → (farModule s p).header = .valid → (farModule s p).readonly = true → farState t p = 5) ∧
          (f.mediaOk = true → (farModule s p).header = .valid → (farModule s p).readonly = false →
            (farPort t p).tables.fwd = (mountTables s (farModule s p)).fwd ∧
            (4096 ≤ poolSize (mountTables s (farModule s p)) → (farPort s p).sinceLevel < 1024 → farState t p = 4 ∧
              (farPort t p).tables = mountTables s (farModule s p)))) ∧
    (farState s p ≠ 0 → ∀ f, exec (.farLinkReturn p f) s = .next s)) ∧
  (∀ (p : Fin 12) (v : Word) (s : State), blockLive s (Reg.FME_PORT_CMD p) = true →
    (s.items.itt = [] → (farState s p = 1 ∨ farState s p = 2 ∨ farState s p = 4) → ∃ t, exec (.format p v) s = .next t ∧
      (farState t p = 4 ∨ farState t p = 5) ∧ (farModule t p).header = .valid ∧ (farModule t p).journal = [] ∧ (farModule t p).media = [] ∧
      (farPort t p).tables.fwd = [] ∧ (farPort t p).staging = [] ∧ (∀ x, (physRec (farPort t p).tables x).state ≠ 1)) ∧
    ((s.items.itt ≠ [] ∨ (farState s p ≠ 1 ∧ farState s p ≠ 2 ∧ farState s p ≠ 4)) →
      exec (.format p v) s = .next (setRegBit s (Reg.FME_PORT_STAT p) 9)) ∧
    (s.items.itt = [] → (farState s p = 4 ∨ farState s p = 5) → ∃ t, exec (.unmount p v) s = .next t ∧ farState t p = 0 ∧
      regFld t (Reg.FME_PORT_STAT p) 4 3 = 0 ∧ (farPort t p).staging = [] ∧ (farModule t p).journal = []) ∧
    ((s.items.itt ≠ [] ∨ (farState s p ≠ 4 ∧ farState s p ≠ 5)) → exec (.unmount p v) s = .next (setRegBit s (Reg.FME_PORT_STAT p) 9)) ∧
    (s.items.itt = [] → farState s p = 0 → 0 < (farPort s p).width → (farPort s p).width < 8 → (farModule s p).header = .valid →
      ∃ t, exec (.mount p v) s = .next t ∧ (farState t p = 4 ∨ farState t p = 5) ∧
        regFld t (Reg.FME_PORT_STAT p) 4 3 = (farPort s p).width ∧ (farPort t p).tables.fwd = (mountTables s (farModule s p)).fwd ∧
        ((farPort s p).sinceLevel < 1024 → (farPort t p).tables = mountTables s (farModule s p)) ∧ (farPort t p).staging = []) ∧
    ((s.items.itt ≠ [] ∨ farState s p ≠ 0 ∨ (farPort s p).width = 0) → exec (.mount p v) s = .next (setRegBit s (Reg.FME_PORT_STAT p) 9)))

/-- An item on its executing device (R361 to R375, R379, R382): a WORK packet that passes every check of R372 takes an ITT entry and is
answered by ACK, one that meets a check is answered by NACK with the code of R379; a DATA payload goes to a mover; a dispatch makes the
item RUNNING; completed work with nothing to wait for ends DONE with a RESULT, its output inline
or in memory, that of a product or chain the rows that its standard task computes, with PERSIST only after its persist; a newer LOT ends the
older lot as SUPERSEDED; a packet with a failing CRC is dropped.
A command that finds nothing to act on leaves the state as it is (the model's choice, log 1).
It rests on the model's own choices or readings of logs 38 and 47. -/
def Obligations.ExecutingDeviceCommands : Prop :=
  (∀ (port : Fin 17) (p : Packet) (s : State),
    let k := p.key
    let got (typ : Nat) : Prop := forMe s p = true ∧ p.typ.toNat = typ ∧ p.sound = true ∧ packetFault p = none
    let d : TaskDesc := BitVec.ofNat 2048 (ofBytes (p.payload.take 256))
    let arms := armList d p.payload
    let tags := arms.map (·.1) ++ (if tkSigtag d = 0 then [] else [tkSigtag d])
    let fresh : Prop := ittOf s k = none ∧ keyEnded s k = false ∧ ∀ e, e ∈ s.items.itt → ItemKey.same e.key k = false
    let same (t : State) : Prop := t.items = { s.items with pseq := t.items.pseq }
    let nack (t : State) (code detail : Nat) : Prop := same t ∧ t.outbox = (sendNack s p code detail).outbox
    (got 1 → fresh → acceptsWork s = true → s.items.itt.length < 8192 →
      s.items.trig.length + (tags.eraseDups.filter (fun x => (trigOf s k x).isNone)).length ≤ 4096 → taskRefusal s d arms = none →
      (∀ y, y ∈ s.items.trig → y.key ≠ k) →
        ∃ t x, exec (.work port p) s = .next t ∧ t.items.itt = s.items.itt ++ [x] ∧ x.key = k ∧ x.state = .accepted ∧ x.tint = p.tint ∧
          x.task = d ∧ x.flags = 0 ∧ x.srcPort = port ∧ x.out = none ∧ t.outbox = (sendAck s p).outbox ∧
          (∀ a, a ∈ arms → trigOf t k a.1 = some ⟨k, BitVec.ofNat 16 a.1, some (BitVec.ofNat 16 a.2), 0⟩) ∧
          t.items.orig = s.items.orig ∧ t.mem = s.mem ∧ t.regs = s.regs) ∧
    (got 1 → (ittOf s k).isSome = true → ∃ t, exec (.work port p) s = .next t ∧ same t ∧ t.outbox = (sendAck s p).outbox) ∧
    (got 1 → ittOf s k = none → keyEnded s k = true → ∃ t, exec (.work port p) s = .next t ∧ nack t 0x17 0) ∧
    (got 1 → fresh → acceptsWork s = false → ∃ t, exec (.work port p) s = .next t ∧ nack t 0x13 (bootStep s)) ∧
    (got 1 → fresh → acceptsWork s = true → 8192 ≤ s.items.itt.length → ∃ t, exec (.work port p) s = .next t ∧ nack t 0x10 0 ∧
      regBit t Reg.DSP_ITEM_STAT 14 = true) ∧
    (∀ x, got 1 → fresh → acceptsWork s = true → s.items.itt.length < 8192 →
      s.items.trig.length + (tags.eraseDups.filter (fun x => (trigOf s k x).isNone)).length ≤ 4096 → taskRefusal s d arms = some x →
        ∃ t, exec (.work port p) s = .next t ∧ nack t 0x01 x) ∧
    (∀ m, got 2 → p.tag = 0 → reachAll s .mover true (p.addr + p.payload.length) 64 p.addr = true → dataMover s = some m →
      ∃ t, exec (.data port p) s = .next t ∧ mvQueue t m = mvQueue s m ++ [{ desc := 0, src := .packet port p }] ∧ t.items = s.items ∧ t.mem = s.mem) ∧
    (got 2 → p.tag = 0 → reachAll s .mover true (p.addr + p.payload.length) 64 p.addr = false →
      ∃ t, exec (.data port p) s = .next t ∧ nack t 0x16 0 ∧ t.mem = s.mem ∧ t.movers = s.movers) ∧
    (got 2 → p.tag ≠ 0 → keyEnded s k = false → ittOf s k = none → ∃ t, exec (.data port p) s = .next t ∧ nack t 0x12 p.tag.toNat) ∧
    (got 7 → ((∃ e, e ∈ s.items.itt ∧ ItemKey.same e.key k = true) →
        (∃ t, exec (.lot port p) s = .next t ∧
          ∀ x, ittOf s x.key = some x → ItemKey.same x.key k = true → x.key.lot.toNat < k.lot.toNat → x.live = true →
            ∃ y, ittOf t x.key = some y ∧ y.state = .superseded ∧ y.code = 0) ∧
        ((∀ e, e ∈ s.items.itt → ItemKey.same e.key k = true → k.lot.toNat ≤ e.key.lot.toNat) →
          ∃ t, exec (.lot port p) s = .next t ∧ same t ∧ t.outbox = (sendAck s p).outbox)) ∧
      ((∀ e, e ∈ s.items.itt → ItemKey.same e.key k = false) → k.lot ≠ 0 → ∃ t, exec (.lot port p) s = .next t ∧
        t.items.itt = s.items.itt ∧ t.items.recent.getLast? = some { k with lot := k.lot - 1 } ∧ t.outbox = (sendAck s p).outbox)) ∧
    (forMe s p = true → p.sound = false → ∃ t, exec (.crcDrop port p) s = .next t ∧ t.items = s.items ∧ t.outbox = s.outbox ∧
      counter t Reg.DSP_CNT_CRCDROP = (counter s Reg.DSP_CNT_CRCDROP + 1) % 2 ^ 64)) ∧
  (∀ (key : ItemKey) (s : State) e, ittOf s key = some e →
    (∀ acts, e.live = true → e.out = none → s.power.phaseWait = false → planOk s e acts = true →
      exec (.itemDispatch key acts) s =
        .next ((acts.map (ownAct e)).foldl (runAct key) (setItt s key (fun e => { e with state := .running }))) ∧
      ∀ m m0, acts = [.mover m m0] → mvCheck s m (ownMove e m0) = none →
        ∃ t, exec (.itemDispatch key acts) s = .next t ∧ ittOf t key = some { e with state := .running } ∧
          mvQueue t m = mvQueue s m ++ [{ desc := ownMove e m0, src := .dispatcher }] ∧ t.outbox = s.outbox) ∧
    (∀ acts, (e.live = false ∨ s.power.phaseWait = true) → exec (.itemDispatch key acts) s = .next s) ∧
    (∀ bs, e.out = none → e.state = .running → workDone s key = true → outputFits e.task bs.length = true → outputAway s e.task = false →
      (tkPersist e.task = false → (∀ x, x ∈ s.items.sent → x.owner ≠ some key) → e.persist = none →
        let ps := stdPieces e.task (stdOutput s e)
        let fl := orFlags ((stdOutput s e).map (fun r => r.2.2))
        let u : State := { addFlags s key fl with fresh := s.fresh + outBytes e.task }
        ∃ t y x, exec (.itemComplete key bs) s = .next t ∧ ittOf t key = some y ∧ y.state = .done ∧
          t.items.sent = s.items.sent ++ [x] ∧ t.outbox = s.outbox ++ [.packet x.pkt] ∧
          (tkProducts e.task = 0 → y.out = some bs ∧ y.flags = e.flags ∧ t.mem = s.mem) ∧
          (tkProducts e.task ≠ 0 → y.flags = e.flags ||| BitVec.ofNat 10 fl ∧
            (tkOutmode e.task = true → y.out = some (outputBytes s ps) ∧ t.mem = s.mem) ∧
            (tkOutmode e.task = false → y.out = some [] ∧ t.mem = (writeOutput u e ps).mem ∧ t.sc = (writeOutput u e ps).sc))) ∧
      (tkPersist e.task = true → s.far.persists.length < 32767 →
        regFld s Reg.FME_PERSIST_STAT 16 16 = regFld s Reg.FME_PERSIST_STAT 0 16 →
          ∃ t y, exec (.itemComplete key bs) s = .next t ∧ ittOf t key = some y ∧ y.state = .running ∧
            y.persist = some (BitVec.ofNat 16 (regFld s Reg.FME_PERSIST_STAT 0 16 + 1)) ∧ t.outbox = s.outbox)) ∧
    (∀ bs out, e.out = some out → exec (.itemComplete key bs) s = .next (sendDone s key)) ∧
    (∀ bs, e.out = none → workDone s key = false → exec (.itemComplete key bs) s = .next s))

/-- An item at its originator (R357, R358, R364 to R366, R377, R381 to R385): an entry of the ring that is served next is taken; a SUBMIT
that passes the checks issues its item at the next lot, a MIGRATE at one lot more with a LOT to the old device, a CANCEL decides FAILED; a
rejected or unreadable entry yields one completion entry; the RESULT of the current lot decides the item, that of an older lot is reported
as SUPERSEDED, any other is late; ACK, NACK, resends and the item's timer act on the kept packet and the item.
A command that finds nothing to act on leaves the state as it is (the model's choice, log 1).
It rests on the model's own choices or readings of log 49. -/
def Obligations.OriginatorCommands : Prop :=
  (∀ (r : Fin 64) (e : Desc) (s : State), nextRing s = some r.val →
    let i := sqItem e
    let head (t : State) : Prop := regFld t (Reg.DSP_SQ_HEAD r) 0 16 = (regFld s (Reg.DSP_SQ_HEAD r) 0 16 + 1) % sqSize s r % 2 ^ 16
    let due (t : State) (w : BitVec 256) : Prop := t.items.held = s.items.held ++ [⟨r, w, none⟩]
    let rejected (code detail : Nat) : BitVec 256 :=
      ({ item := i, state := 4, rejected := true, code := code, detail := detail, cookie := sqCookie e } : CqSpec).words
    (∀ bs : List Byte, sqOpc e = 1 → entryFault s e = none → bs.length = 64 * sqDlen e →
      ∃ t o x, exec (.submit r e bs) s = .next t ∧ head t ∧ origOf t i = some o ∧
        o.lot = BitVec.ofNat 16 (match lastLot s i with | some l => l + 1 | none => 0) ∧ o.dst = sqDst e ∧ o.state = .issued ∧
        o.cq = sqCq e ∧ o.cookie = sqCookie e ∧ o.decided = false ∧ t.items.sent = s.items.sent ++ [x] ∧
        t.outbox = s.outbox ++ [.packet x.pkt] ∧ t.items.held = s.items.held ∧ (∀ j, j ≠ i → origOf t j = origOf s j)) ∧
    (∀ (bs : List Byte) c d, sqOpc e = 1 → entryFault s e = some (c, d) →
      ∃ t, exec (.submit r e bs) s = .next t ∧ head t ∧ due t (rejected c d) ∧ t.items.orig = s.items.orig ∧ t.outbox = s.outbox) ∧
    (∀ o, sqOpc e = 2 → entryFault s e = none → origOf s i = some o →
      ∃ t u x y, exec (.migrate r e) s = .next t ∧ head t ∧ origOf t i = some u ∧ u.lot = o.lot + 1 ∧ u.dst = sqDst e ∧ u.state = .issued ∧
        t.items.sent = (forgetWork s i).items.sent ++ [x, y] ∧ t.outbox = s.outbox ++ [.packet x.pkt, .packet y.pkt]) ∧
    (∀ o, sqOpc e = 3 → entryFault s e = none → origOf s i = some o →
      ∃ t x h, exec (.cancel r e) s = .next t ∧ head t ∧ origOf t i = some { o with decided := true, state := .failed } ∧
        t.items.sent = s.items.sent ++ [x] ∧ t.outbox = s.outbox ++ [.packet x.pkt] ∧
        t.items.held = s.items.held ++ [h] ∧ h.ring = o.cq ∧ h.final = some i ∧
        h.words = ({ item := i, state := 4, final := true, code := 0x0B, lot := o.lot.toNat, exec := o.dst.toNat, cookie := o.cookie } : CqSpec).words) ∧
    (∀ c d, sqOpc e = 2 → entryFault s e = some (c, d) → ∃ t, exec (.migrate r e) s = .next t ∧ head t ∧ due t (rejected c d)) ∧
    (∀ c d, sqOpc e = 3 → entryFault s e = some (c, d) → ∃ t, exec (.cancel r e) s = .next t ∧ head t ∧ due t (rejected c d)) ∧
    ((sqOpc e = 0 ∨ 3 < sqOpc e) → ∃ t, exec (.badEntry r e) s = .next t ∧ head t ∧ due t (rejected 0x23 0) ∧ t.items.orig = s.items.orig) ∧
    (sqOpc e = 1 → entryFault s e = none → ∃ t, exec (.completionTimeout r (some e)) s = .next t ∧ head t ∧ due t (rejected 0x23 0xFF) ∧
      regBit t (Reg.DSP_RING_STAT r) 2 = true) ∧
    (∃ t w, exec (.completionTimeout r none) s = .next t ∧ head t ∧ due t w ∧ fld w 32 8 = 0x23 ∧ fld w 40 24 = 0xFF ∧ bit w 20 = true ∧
      regBit t (Reg.DSP_RING_STAT r) 2 = true)) ∧
  (∀ (port : Fin 17) (p : Packet) (s : State),
    let got (typ : Nat) : Prop := forMe s p = true ∧ p.typ.toNat = typ ∧ p.sound = true ∧ packetFault p = none
    let i := p.key.item
    (∀ o, got 3 → p.key.orig.toNat = ownId s → origOf s i = some o → o.decided = false → (o.device p.key.lot).isSome = true →
      p.key.lot ∉ o.ended →
        (p.key.lot = o.lot → ∃ t y h, exec (.result port p) s = .next t ∧ origOf t i = some y ∧ y.decided = true ∧
          y.state = (if p.state = 3 then .done else .failed) ∧ t.items.held = s.items.held ++ [h] ∧ h.ring = o.cq ∧ h.final = some i ∧
          t.outbox = (sendAck s p).outbox ∧ ((p.state ≠ 3 ∨ p.payload = []) → t.mem = s.mem) ∧
          (p.state = 3 → p.payload ≠ [] → mappedW s .mover p.addr p.payload.length = true →
            t.mem = (writeBytes s p.addr p.payload false).mem ∧ t.sc = (writeBytes s p.addr p.payload false).sc)) ∧
        (p.key.lot ≠ o.lot → ∃ t h, exec (.result port p) s = .next t ∧ origOf t i = some { o with ended := o.ended ++ [p.key.lot] } ∧
          t.items.held = s.items.held ++ [h] ∧ h.ring = o.cq ∧ h.final = none ∧ fld h.words 16 3 = 5 ∧ t.mem = s.mem)) ∧
    (got 3 → origOf s i = none → ∃ t, exec (.result port p) s = .next t ∧ regBit t Reg.DSP_ITEM_STAT 30 = true ∧
      t.items = { s.items with pseq := t.items.pseq } ∧
      t.mem = s.mem ∧ t.outbox = (sendAck s p).outbox) ∧
    (∀ x, got 4 → p.atype ≠ 6 → s.items.sent.find? (answered p) = some x →
      (x.pkt.typ.toNat = 3 → ∃ t, exec (.ack port p) s = .next t ∧ ittOf t p.key = none ∧ t.items.recent.getLast? = some p.key ∧
        t.items.sent = dropFirst (fun y => decide (y = x)) s.items.sent) ∧
      (∀ o, x.pkt.typ.toNat = 1 → origOf s i = some o → o.lot = p.key.lot → o.state = .issued →
        ∃ t, exec (.ack port p) s = .next t ∧ origOf t i = some { o with state := .accepted } ∧
          t.items.sent = dropFirst (fun y => decide (y = x)) s.items.sent)) ∧
    (got 4 → p.atype ≠ 6 → s.items.sent.find? (answered p) = none → ∃ t, exec (.ack port p) s = .next t ∧ t.items = s.items) ∧
    (∀ x, got 5 → s.items.sent.find? (answered p) = some x →
      (retryable p.code.toNat = true → ∃ t, exec (.nack port p) s = .next t ∧ t.outbox = s.outbox ∧ t.items.orig = s.items.orig ∧
        t.items.sent = s.items.sent.map (fun z => if z = x then { x with nack := some (p.code, p.detail), retry := true } else z)) ∧
      (∀ o, retryable p.code.toNat = false → x.pkt.typ.toNat = 1 → origOf s x.pkt.key.item = some o → o.decided = false →
        o.lot = x.pkt.key.lot → ∃ t, exec (.nack port p) s = .next t ∧
          origOf t x.pkt.key.item = some { o with decided := true, state := .failed } ∧
          t.items.sent = dropFirst (fun y => decide (y = x)) s.items.sent))) ∧
  (∀ (key : ItemKey) (typ : BitVec 4) (pseq : BitVec 16) (s : State) x,
    s.items.sent.find? (fun x => decide (x.pkt.key = key) && decide (x.pkt.typ = typ) && decide (x.pkt.pseq = pseq)) = some x →
      (x.resends < regFld s Reg.DSP_ITEM_CFG 24 4 → typ.toNat ≠ 2 → ∃ t, exec (.resendTimeout key typ pseq) s = .next t ∧
        t.outbox = s.outbox ++ [.packet x.pkt] ∧ counter t Reg.DSP_CNT_RESENT = (counter s Reg.DSP_CNT_RESENT + 1) % 2 ^ 64 ∧
        t.items.sent = s.items.sent.map (fun z => if z = x then { x with resends := x.resends + 1, retry := false } else z)) ∧
      (∀ o, regFld s Reg.DSP_ITEM_CFG 24 4 ≤ x.resends → typ.toNat = 1 → x.nack = none → origOf s key.item = some o → o.decided = false →
        o.lot = key.lot → ∃ t h, exec (.resendTimeout key typ pseq) s = .next t ∧
          origOf t key.item = some { o with decided := true, state := .failed } ∧ t.items.held = s.items.held ++ [h] ∧
          fld h.words 32 8 = 0x0C)) ∧
  (∀ (i : BitVec 13) (s : State) o, origOf s i = some o →
    (o.decided = false → ∃ t h, exec (.itemTimeout i) s = .next t ∧ origOf t i = some { o with decided := true, state := .abandoned } ∧
      t.items.held = s.items.held ++ [h] ∧ h.ring = o.cq ∧ h.final = some i ∧
      (o.lot ≠ 0xFFFF → ∃ x, t.items.sent = s.items.sent ++ [x] ∧ t.outbox = s.outbox ++ [.packet x.pkt]) ∧
      (o.lot = 0xFFFF → t.outbox = s.outbox)) ∧
    (o.decided = true → exec (.itemTimeout i) s = .next s))

/-- The rings, register writes and BAR2 (R9, R11, R13, R14, R385 to R387, R392, R569, R571 to R574, R589): the oldest completion entry due
to a ring is written at its tail once the ring is enabled, has room and Bus Master Enable is 1, and frees the item it ends; a pointer that
moves beyond the other end and a configuration of an enabled ring are discarded with PTR_ERR; enabling a ring zeroes its pointers; an
aligned write of 32 or 64 bits acts by the types of its fields, any other has no effect, and one by BAR0 waits behind the host's accesses
before it; a BAR2 access makes its requests at the host's port and then reads or writes its bytes, or waits with those that the port does
not take, and one that R276 does not allow gives the error response.
A command that finds nothing to act on leaves the state as it is (the model's choice, log 1).
It rests on the model's own choices or readings of logs 59, 68 and 73. -/
def Obligations.RingRegisterAndWindowCommands : Prop :=
  (∀ (r : Fin 64) (s : State),
    let served : Prop := ringOn s r = true ∧ cqRoom s r ≠ 0 ∧ s.host.bme = true
    let tail := regFld s (Reg.DSP_CQ_TAIL r) 0 16
    let base := (regWord s (Reg.DSP_CQ_BASE_LO r)).toNat + (regWord s (Reg.DSP_CQ_BASE_HI r)).toNat * 2 ^ 32
    (∀ h, s.items.held.find? (fun h => decide (h.ring = r)) = some h → served → ∃ t xs, exec (.completionEntryWrite r) s = .next t ∧
      t.outbox = s.outbox ++ .hostWrite (BitVec.ofNat 64 (base + 32 * tail))
        (bvBytes (setFld h.words 31 1 (b2n (decide (lookD s.items.wraps r 0 % 2 = 0))))) :: xs ∧ xs.length ≤ 1 ∧
      regFld t (Reg.DSP_CQ_TAIL r) 0 16 = (tail + 1) % cqSize s r % 2 ^ 16 ∧
      t.items.held = dropFirst (fun x => decide (x = h)) s.items.held ∧ (∀ i, h.final = some i → origOf t i = none) ∧
      (h.final = none → t.items.orig = s.items.orig) ∧ t.mem = s.mem) ∧
    (¬ served → exec (.completionEntryWrite r) s = .next s)) ∧
  (∀ (r : Fin 64) (v : Word) (s : State), blockLive s (Reg.DSP_SQ_TAIL r) = true →
    let refused : State := setRegBit s (Reg.DSP_RING_STAT r) 0
    let x := fld v 0 16
    let n := sqSize s r
    let m := cqSize s r
    let st := regFld s (Reg.DSP_SQ_TAIL r) 0 16
    let sh := regFld s (Reg.DSP_SQ_HEAD r) 0 16
    let ct := regFld s (Reg.DSP_CQ_TAIL r) 0 16
    let ch := regFld s (Reg.DSP_CQ_HEAD r) 0 16
    (x < n → (x + n - st) % n ≤ (sh + 2 * n - 1 - st) % n →
      exec (.sqTailWrite r v) s = .next (setRegFld s (Reg.DSP_SQ_TAIL r) 0 16 x)) ∧
    ((n ≤ x ∨ (sh + 2 * n - 1 - st) % n < (x + n - st) % n) → exec (.sqTailWrite r v) s = .next refused) ∧
    (x < m → (x + m - ch) % m ≤ (ct + m - ch) % m → exec (.cqHeadWrite r v) s = .next (setRegFld s (Reg.DSP_CQ_HEAD r) 0 16 x)) ∧
    ((m ≤ x ∨ (ct + m - ch) % m < (x + m - ch) % m) → exec (.cqHeadWrite r v) s = .next refused) ∧
    (ringOn s r = false → v.getLsbD 16 = true → ∃ t, exec (.ringCfgWrite r v) s = .next t ∧ ringOn t r = true ∧
      regWord t (Reg.DSP_SQ_TAIL r) = 0 ∧ regWord t (Reg.DSP_SQ_HEAD r) = 0 ∧ regWord t (Reg.DSP_CQ_TAIL r) = 0 ∧
      regWord t (Reg.DSP_CQ_HEAD r) = 0 ∧ look t.items.wraps r = none ∧ t.items.held = s.items.held) ∧
    (ringOn s r = true → (fld v 0 5 ≠ regFld s (Reg.DSP_RING_CFG r) 0 5 ∨ fld v 8 5 ≠ regFld s (Reg.DSP_RING_CFG r) 8 5) →
      exec (.ringCfgWrite r v) s = .next refused) ∧
    (ringOn s r = false →
      (∃ t, exec (.ringBaseWrite r .sqLo v) s = .next t ∧ t = { s with regs := t.regs } ∧
        regWord t (Reg.DSP_SQ_BASE_LO r) = BitVec.ofNat 32 (fld v 12 20 * 2 ^ 12)) ∧
      (∃ t, exec (.ringBaseWrite r .sqHi v) s = .next t ∧ t = { s with regs := t.regs } ∧ regWord t (Reg.DSP_SQ_BASE_HI r) = v) ∧
      (∃ t, exec (.ringBaseWrite r .cqLo v) s = .next t ∧ t = { s with regs := t.regs } ∧
        regWord t (Reg.DSP_CQ_BASE_LO r) = BitVec.ofNat 32 (fld v 12 20 * 2 ^ 12)) ∧
      (∃ t, exec (.ringBaseWrite r .cqHi v) s = .next t ∧ t = { s with regs := t.regs } ∧ regWord t (Reg.DSP_CQ_BASE_HI r) = v)) ∧
    (ringOn s r = true → ∀ which, exec (.ringBaseWrite r which v) s = .next refused)) ∧
  (∀ (path : AccPath) (d : BitVec 64) (hw : Word) (s : State),
    (∀ off size, exec (.registerWrite .bar0 off size d true hw) s = .next s) ∧
    (s.sc.host ≠ [] → ∀ off size, exec (.registerWrite .bar0 off size d false hw) s =
      .next { s with sc := { s.sc with host := s.sc.host ++ [.bar0 off.toNat size d hw] } }) ∧
    (path ≠ .bar0 ∨ s.sc.host = [] →
      (∀ off : BitVec 26, off.toNat % 4 ≠ 0 → ∀ size, exec (.registerWrite path off size d false hw) s = .next s) ∧
      (∀ off : BitVec 26, exec (.registerWrite path off .b8 d false hw) s = .next s ∧ exec (.registerWrite path off .b16 d false hw) s = .next s) ∧
      (∀ off : BitVec 26, blockLive s off.toNat = false → exec (.registerWrite path off .b32 d false hw) s = .next s) ∧
      (∀ (off : BitVec 26) r is, findReg regMap off.toNat = some (r, is) → off.toNat % 4 = 0 → blockLive s off.toNat = true →
        (off.toNat < 0x68 ∨ (0x8000 ≤ off.toNat ∧ off.toNat < 0x8800 ∧ off.toNat % 16 ≠ 12) ∨ (0x101000 ≤ off.toNat ∧ off.toNat < 0x102000) ∨
          (0x108040 ≤ off.toNat ∧ off.toNat < 0x108300) ∨ (0x10A000 ≤ off.toNat ∧ off.toNat < 0x110000) ∨
          (0x400010 ≤ off.toNat ∧ off.toNat < 0x400080) ∨ off.toNat = Reg.DSP_ITEM_CFG ∨ off.toNat = Reg.FME_CFG ∨ off.toNat = Reg.FME_CFG2) →
        ∃ t, exec (.registerWrite path off .b32 d false 0) s = .next t ∧ t = { s with regs := t.regs } ∧
          (∀ o, o ≠ off.toNat → regWord t o = regWord s o) ∧
          ∀ f, f ∈ r.fields →
            let x := fld (d.extractLsb' 0 32) f.lo f.w
            regFld t off.toNat f.lo f.w = if f.ty = .rw ∧ f.least ≤ x ∧ x ≤ f.most then x else regFld s off.toNat f.lo f.w) ∧
      (∀ i : Fin 4, 2 ≤ s.boot.done → exec (.registerWrite path (BitVec.ofNat 26 (Reg.GLB_SCRATCH i)) .b32 d false 0) s =
        .next (setRegWord s (Reg.GLB_SCRATCH i) (d.extractLsb' 0 32))) ∧
      (2 ≤ s.boot.done → exec (.registerWrite path (BitVec.ofNat 26 (Reg.GLB_SCRATCH 0)) .b64 d false 0) s =
        .next (setRegWord (setRegWord s (Reg.GLB_SCRATCH 0) (d.extractLsb' 0 32)) (Reg.GLB_SCRATCH 1) (d.extractLsb' 32 32))) ∧
      (2 ≤ s.boot.done → ∃ t, exec (.registerWrite path (BitVec.ofNat 26 Reg.PWR_CAUSE) .b32 d false hw) s = .next t ∧
        (∀ i, i < 8 → regBit t Reg.PWR_CAUSE i = ((regBit s Reg.PWR_CAUSE i && !d.getLsbD i) || hw.getLsbD i)) ∧ t.items = s.items ∧
        t.mem = s.mem))) ∧
  (∀ (off : BitVec 30) (s : State),
    let a := bar2Addr s off.toNat
    let alone (x : Bar2Req) : State := { s with sc := { s.sc with host := [.bar2 x] } }
    let freed (m : State) : State := { m with sc := { m.sc with host := [] } }
    let quiet : Prop := s.sc.held = [] ∧ s.sc.host = []
    (∀ len : Fin 4097, bar2Made s off.toNat len = true →
      let x : Bar2Req := { addr := a, len := len, data := none }
      let rs := reqsOf true a len
      (bar2Served s false a len = true → quiet → ∀ m n, issueReqs (alone x) (hostPort s) rs = (n, m) →
        (n = rs.length → exec (.bar2Read off len) s =
          .next { freed m with outbox := m.outbox ++ [.bar2Data (readBytes (freed m) a len) (readPoison (freed m) a len)] }) ∧
        (n ≠ rs.length → exec (.bar2Read off len) s = .next { m with sc := { m.sc with host := [.bar2 { x with issued := n }] } })) ∧
      (bar2Served s false a len = false → ∃ t, exec (.bar2Read off len) s = .next t ∧ regBit t Reg.GLB_HSTAT 16 = true ∧
        regWord t Reg.GLB_BAR2_ERRADDR_LO = BitVec.ofNat 32 a ∧ t.outbox.getLast? = some .bar2Unsupported ∧ t.mem = s.mem)) ∧
    (∀ (bs : List Byte) (p : Bool), bar2Made s off.toNat bs.length = true →
      let x : Bar2Req := { addr := a, len := bs.length, data := some (bs, p) }
      let rs := reqsOf false a bs.length
      (bar2Served s true a bs.length = true → quiet → ∀ m n, issueReqs (alone x) (hostPort s) rs = (n, m) →
        (n = rs.length → exec (.bar2Write off bs p) s = .next (writeBytes (freed m) a bs p)) ∧
        (n ≠ rs.length → exec (.bar2Write off bs p) s = .next { m with sc := { m.sc with host := [.bar2 { x with issued := n }] } })) ∧
      (bar2Served s true a bs.length = false → ∃ t, exec (.bar2Write off bs p) s = .next t ∧ regBit t Reg.GLB_HSTAT 16 = true ∧
        regWord t Reg.GLB_BAR2_ERRADDR_LO = BitVec.ofNat 32 a ∧ t.mem = s.mem)))

/-- The host function (R567 to R569, R579 to R581, R588, R600): a hot reset and a link that goes down return the configuration space to
its reset values, set LINK_EV and keep items, rings and memory; a link change shows rate and width; Bus Master Enable, the masks and MSI-X
Enable decide whether a pending vector is sent, once, and MSI-X Enable 0 keeps none pending.
A command that finds nothing to act on leaves the state as it is (the model's choice, log 1).
It rests on the model's own choices or readings of log 9. -/
def Obligations.HostFunctionCommands : Prop :=
  ∀ s : State,
    let config (t : State) : Prop := t.host = {} ∧ regBit t Reg.GLB_HSTAT 7 = false ∧ (∀ i, i < 4 → regWord t (Reg.MSIX_PBA i) = 0) ∧
      t.items = s.items ∧ t.mem = s.mem ∧ t.boot = s.boot
    let pending (v : Fin 128) (t : State) : Prop := regBit t (Reg.MSIX_PBA (v.val / 32)) (v.val % 32) = true
    (hostReaches s = true → ∃ t, exec .hotReset s = .next t ∧ config t ∧ regBit t Reg.GLB_HSTAT 17 = true ∧
      regFld t Reg.GLB_HSTAT 0 7 = regFld s Reg.GLB_HSTAT 0 7) ∧
    (hostReaches s = false → exec .hotReset s = .next s) ∧
    (linkUp s = true → ∀ w f, ∃ t, exec (.hostLinkChange 0 w f) s = .next t ∧ config t ∧ regFld t Reg.GLB_HSTAT 0 7 = 0 ∧
      regBit t Reg.GLB_HSTAT 17 = true) ∧
    (linkMay s = true → ∀ (r w : BitVec 3) (f : Bool), r ≠ 0 → (w = 1 ∨ w = 2 ∨ w = 4) →
      ∃ t, exec (.hostLinkChange r w f) s = .next t ∧ t.host = s.host ∧ regFld t Reg.GLB_HSTAT 0 3 = r.toNat ∧
        regFld t Reg.GLB_HSTAT 3 3 = w.toNat ∧ (6 ≤ r.toNat → regBit t Reg.GLB_HSTAT 6 = true) ∧
        (regFld s Reg.GLB_HSTAT 0 6 ≠ r.toNat + w.toNat * 8 → regBit t Reg.GLB_HSTAT 17 = true)) ∧
    exec (.perst true) s = .next { s with pins := { s.pins with perst := true } } ∧
    (linkUp s = true → s.pins.perst = true → ∃ t, exec (.perst false) s = .next t ∧ config t ∧ regFld t Reg.GLB_HSTAT 0 7 = 0 ∧
      regBit t Reg.GLB_HSTAT 17 = true ∧ t.pins = { s.pins with perst := false }) ∧
    (hostReaches s = true →
      (∃ t, exec .busMasterEnable s = .next t ∧ t.host = { s.host with bme := true } ∧ regBit t Reg.GLB_HSTAT 7 = true ∧
        ∀ v, s.host.msixEn = true → s.host.fmask = false → pending v s → regBit s (Reg.MSIX_CTRL v) 0 = false →
          ¬ pending v t ∧ .msix v ∈ t.outbox) ∧
      (∃ t, exec .busMasterDisable s = .next t ∧ t = { s with host := { s.host with bme := false }, regs := t.regs } ∧
        regBit t Reg.GLB_HSTAT 7 = false) ∧
      (∀ v : Fin 128, ∃ t, exec (.msixUnmask (some v)) s = .next t ∧ regBit t (Reg.MSIX_CTRL v) 0 = false ∧ t.host = s.host ∧
        (s.host.msixEn = true → s.host.bme = true → s.host.fmask = false → pending v s → ¬ pending v t ∧ t.outbox = s.outbox ++ [.msix v]) ∧
        (¬ pending v s → t.outbox = s.outbox)) ∧
      (∃ t, exec (.msixUnmask none) s = .next t ∧ t.host = { s.host with fmask := false } ∧
        ∀ v, s.host.msixEn = true → s.host.bme = true → pending v s → regBit s (Reg.MSIX_CTRL v) 0 = false →
          ¬ pending v t ∧ .msix v ∈ t.outbox) ∧
      (∀ m, ∃ t, exec (.msixEnableWrite false m) s = .next t ∧ t.host = { s.host with msixEn := false, fmask := m } ∧
        (∀ i, i < 4 → regWord t (Reg.MSIX_PBA i) = 0) ∧ t.outbox = s.outbox) ∧
      (∃ t, exec (.msixEnableWrite true false) s = .next t ∧ t.host = { s.host with msixEn := true, fmask := false } ∧
        ∀ v, s.host.bme = true → pending v s → regBit s (Reg.MSIX_CTRL v) 0 = false → ¬ pending v t ∧ .msix v ∈ t.outbox))

/-- Resets and the sideband (R375, R461, R496, R528, R534, R593, R597 to R599, R602, R604, R606 to R608): a warm reset of at least 250,000
MCLK cycles and a loss of power stop everything and lose items, GDDR7, engines and arrays; a warm reset keeps the scratch registers; SMBus
reads and writes registers where R528 serves it, gives STATUS, WAKE and its alert address; JTAG drives and samples the contacts, reads
IDCODE, accesses registers by REGACC and bypasses.
A command that finds nothing to act on leaves the state as it is (the model's choice, log 1).
It rests on the model's own choices or readings of logs 32, 44, 58 and 64. -/
def Obligations.ResetAndSidebandCommands : Prop :=
  ∀ s : State,
    let gone (t : State) : Prop := t.items = {} ∧ t.mem = [] ∧ t.engines = [] ∧ t.arrays = [] ∧ t.pins.pwrGood = false ∧
      t.pins.coreUp = false ∧ t.pins.startDue = true ∧ t.boot.begun = 0 ∧ t.boot.done = 0 ∧ t.outbox = s.outbox ∧ t.evlog = s.evlog ∧
      t.repair.log = s.repair.log
    (∀ n, (n < 250000 ∨ s.pins.stby = false) → exec (.warmReset n) s = .next s) ∧
    (∀ n, 250000 ≤ n → s.pins.stby = true → ∃ t, exec (.warmReset n) s = .next t ∧ gone t ∧ t.pins.warm = true ∧
      t.repair.merged = s.repair.merged ∧ (∀ i, i < 4 → regWord t (Reg.GLB_SCRATCH i) = regWord s (Reg.GLB_SCRATCH i)) ∧
      (∀ off, keptReg true off = false → off ≠ Reg.SEC_STAT → off ≠ Reg.BOOT_CTRL → regWord t off = resetWord off)) ∧
    (∃ t, exec .powerLoss s = .next t ∧ gone t ∧ t.pins.stby = false ∧ t.repair.merged = [] ∧ t.pend = [] ∧
      ∀ off, keptReg false off = false → off ≠ Reg.SEC_STAT → regWord t off = resetWord off) ∧
    (s.pins.stby = true →
      (∀ off : Word, 2 ≤ s.boot.done → ∃ t, exec (.smbusRead off true) s = .next t ∧ t.pins = { s.pins with smbCode := 0 } ∧
        t.outbox = s.outbox ++ [.smb (0#8 :: toBytes 4 (regRead s off.toNat 4))]) ∧
      (∀ off : Word, s.boot.done < 2 → ∃ t bs, exec (.smbusRead off true) s = .next t ∧ t.pins = { s.pins with smbCode := 1 } ∧
        t.outbox = s.outbox ++ [.smb (1#8 :: bs)]) ∧
      (∀ off v : Word, 2 ≤ s.boot.done → ∃ t, exec (.smbusWrite off v true) s = .next t ∧ t.pins.smbCode = 0 ∧
        (off.toNat % 4 ≠ 0 → t = { s with pins := { s.pins with smbCode := 0 } }) ∧
        (∀ i : Fin 4, off.toNat = Reg.GLB_SCRATCH i → t = { setRegWord s (Reg.GLB_SCRATCH i) v with pins := { s.pins with smbCode := 0 } })) ∧
      (∀ off v : Word, s.boot.done < 2 → off.toNat ≠ Reg.BOOT_CMD → exec (.smbusWrite off v true) s =
        .next { s with pins := { s.pins with smbCode := 1 } }) ∧
      (∀ off v : Word, exec (.smbusRead off false) s = .next { s with pins := { s.pins with smbCode := 3 } } ∧
        exec (.smbusWrite off v false) s = .next { s with pins := { s.pins with smbCode := 3 } } ∧
        exec (.smbusWake false) s = .next { s with pins := { s.pins with smbCode := 3 } }) ∧
      (∃ t a b, exec .smbusStatus s = .next t ∧ t = { s with outbox := s.outbox ++ [.smb [a, b]] } ∧
        a.toNat = regFld s Reg.BOOT_STEP 0 7 ∧ b.getLsbD 0 = s.pins.pwrGood ∧ b.getLsbD 2 = regBit s Reg.THM_STATUS 16 ∧
        b.extractLsb' 4 4 = s.pins.smbCode) ∧
      (s.power.deep = .deep → ∃ t, exec (.smbusWake true) s = .next t ∧ t.power.deep = .resuming ∧ t.pins.fmPerst = true) ∧
      (s.power.deep = .entering → exec (.smbusWake true) s = .next { s with power := { s.power with wakePend := true } })) ∧
    (alertLow s = true → exec .alertResponse s =
      .next { s with outbox := s.outbox ++ [.smb [BitVec.ofNat 8 (0x58 + s.pins.smbAddr.toNat)]] }) ∧
    (alertLow s = false → exec .alertResponse s = .next s) ∧
    exec .testLogicReset s = .next { s with pins := { s.pins with jtagIr := 0x01 } } ∧
    (∀ w, exec (.extest w) s = .next { s with pins := { s.pins with jtagIr := 0x00, boundary := w }, outbox := s.outbox ++ [.contacts w] }) ∧
    (∃ t w, exec .idcode s = .next t ∧ t = { s with pins := { s.pins with jtagIr := 0x01 }, outbox := s.outbox ++ [.jtag w] } ∧
      fld w 0 28 = 0x0D960C5B ∧ fld w 28 4 = regFld s Reg.GLB_REV 0 4 ∧ fld w 32 40 = 0) ∧
    (∀ x, ∃ t w, exec (.samplePreload x) s = .next t ∧ t.outbox = s.outbox ++ [.jtag w] ∧ t.pins = { s.pins with jtagIr := 0x02, boundary := x } ∧
      bit w 0 = s.pins.perst ∧ bit w 1 = s.pins.pwrGood ∧ bit w 3 = !alertLow s) ∧
    (∀ dr : BitVec 72,
      let j : State := { s with pins := { s.pins with jtagIr := 0x20 }, outbox := s.outbox ++ [.jtag s.pins.regacc] }
      let loads (t u : State) (done notServed : Bool) (w : BitVec 72) : Prop :=
        t = { u with pins := { u.pins with regacc := w } } ∧ fld w 32 32 = fld dr 32 32 ∧ bit w 64 = bit dr 64 ∧ bit w 65 = done ∧ bit w 66 = notServed
      (2 ≤ s.boot.done → bit dr 64 = false →
        ∃ t w, exec (.regacc dr) s = .next t ∧ loads t j true false w ∧ fld w 0 32 = regRead s (fld dr 32 32) 4) ∧
      (2 ≤ s.boot.done → bit dr 64 = true → ∃ t w, exec (.regacc dr) s = .next t ∧
        loads t (accessWrite j (fld dr 32 32) .b32 (dr.extractLsb' 0 64) 0) true false w ∧ fld w 0 32 = fld dr 0 32) ∧
      (s.boot.done < 2 → ∃ t w, exec (.regacc dr) s = .next t ∧ loads t { j with fresh := t.fresh } false true w)) ∧
    (∀ b, exec (.bypass b) s =
      .next { s with pins := { s.pins with jtagIr := 0xFF, bypass := b }, outbox := s.outbox ++ [.jtag (BitVec.ofNat 72 (b2n s.pins.bypass))] })

/-- Descriptors and passes of an array (R80 to R86, R92, R96, R98, R114, R149, R171, R299, R300): an enabled array with room takes a
descriptor that passes its checks at the end of its queue, where the one at the head is checked at once, and one that fails them fails its
item; one that a full queue, a mover or the item's epilogue keeps back is held, and one that a stop has saved is issued again; the tile of
the next pass enters the free shadow slot once its reads have issued; the head pass begins to stream when its tile, trigger, columns and
anchor are there, claiming its columns with CLEAR; the oldest pass in flight completes and is reported; a lake write done is marked so.
It rests on the model's own choices or readings of logs 20, 73 and 74. -/
def Obligations.ArrayPassCommands : Prop :=
  ∀ (n : Fin 200) (s : State),
    let a := arr s n
    (∀ d : Desc, arrayEnabled s n = true → (∀ x, x ∈ s.items.heldDesc → x.1 ≠ n) → a.fenced = false → resumesHead a d = false →
      savedOf a d = none → keptBack s n d = false → drainPieces s n d = [d] →
      let e : QEntry := { id := a.nextId, desc := unspill a d, issuer := .dispatcher }
      let r := ring s (n / 4) (n % 4)
      let claimed := if descOp d = 1 ∧ descXsrc d = 2 then a.lake.map (fun l => { l with claimed := true }) else a.lake
      (a.queue.length < 16 → checkDesc s n (unspill a d) = none →
        (descToRing d = true → descNcol d ≤ ringSlots s (n / 4) (n % 4) ∧ descNcol d ≤ ringFree s (n / 4) (n % 4) ∧
          r.fifo.length + r.fifoRes < 16) →
        (∀ h q, a.queue = h :: q → a.streaming = true ∨ h.checked = true) →
        (a.queue = [] → a.streaming = false ∧ headOk a (unspill a d) = true) →
        ∃ t, exec (.descriptorQueueEntry n d) s = .next t ∧
          arr t n = { a with queue := a.queue ++ [{ e with checked := a.queue.isEmpty }], nextId := a.nextId + 1, lake := claimed } ∧
          (∀ k, k ≠ n.val → arr t k = arr s k) ∧ t = { s with arrays := t.arrays, engines := t.engines, regs := t.regs } ∧
          (descToRing d = false → t.engines = s.engines) ∧
          (descToRing d = true → ring t (n / 4) (n % 4) = { r with reserved := r.reserved + descNcol d, fifoRes := r.fifoRes + 1 }) ∧
          (∀ off, off ≠ Reg.TA_QSTAT n → regWord t off = regWord s off) ∧
          regFld t (Reg.TA_QSTAT n) 8 5 = max (regFld s (Reg.TA_QSTAT n) 8 5) (a.queue.length + 1)) ∧
      (a.queue = [] → a.streaming = false → checkDesc s n (unspill a d) = none → descToRing d = false → headOk a (unspill a d) = false →
        exec (.descriptorQueueEntry n d) s = .next (refuseHead
          (noteHigh (setArr s n { a with queue := [e], nextId := a.nextId + 1, lake := claimed }) n) n e)) ∧
      (a.queue.length < 16 → ∀ x, checkDesc s n (unspill a d) = some x →
        exec (.descriptorQueueEntry n d) s = .next (descFail s (descKey d) 1 x)) ∧
      (16 ≤ a.queue.length → ∃ t, exec (.descriptorQueueEntry n d) s = .next t ∧ t.arrays = s.arrays ∧
        t.items = { s.items with heldDesc := s.items.heldDesc ++ [(n, d)] } ∧ regBit t (Reg.TA_QSTAT n) 16 = true)) ∧
    (∀ d : Desc, arrayEnabled s n = true → resumesHead a d = false → keptBack s n d = true → (∀ x, x ∈ s.items.heldDesc → x.1 ≠ n) →
      ∃ t, exec (.descriptorQueueEntry n d) s = .next t ∧ t.arrays = s.arrays ∧
        t.items = { s.items with heldDesc := s.items.heldDesc ++ [(n, d)] }) ∧
    (∀ (d : Desc) x, arrayEnabled s n = true → (∀ x, x ∈ s.items.heldDesc → x.1 ≠ n) → a.fenced = false → resumesHead a d = false →
      keptBack s n d = false → drainPieces s n d = [d] → savedOf a d = some x → a.resumeHeld = none →
        exec (.descriptorQueueEntry n d) s = .next (reissue s n x)) ∧
    (∀ d : Desc, arrayEnabled s n = true → resumesHead a d = true → a.stopping = false →
      exec (.descriptorQueueEntry n d) s = .next (setArr s n { a with halted := false, resumePending := false })) ∧
    (∀ e rest f k m, a.streaming = false → a.queue = e :: rest → mayStart a e = true → descOp e.desc = 1 → descXsrc e.desc = 0 →
      a.shadow = none → a.lake = none → triggered s e.desc = true → descFmt e.desc 4 = some f →
      issueReqs s (arrayPort s n e.desc) ((tileReqs e.desc f).drop a.loaded) = (k, m) →
        let all : Prop := k = ((tileReqs e.desc f).drop a.loaded).length
        let x := loadTile m e.desc f
        PortSide s m ∧
        (¬ all → exec (.tileLoadComplete n) s = .next (setArr m n { a with loaded := a.loaded + k })) ∧
        (all → x.bad = false → ∃ t, exec (.tileLoadComplete n) s = .next t ∧ t = { m with arrays := t.arrays } ∧
          arr t n = { a with loaded := 0, shadow := some (x, e.id) } ∧ ∀ j, j ≠ n.val → arr t j = arr s j) ∧
        (all → x.bad = true → ∃ u, exec (.tileLoadComplete n) s = .next (passFault u n (descKey e.desc)) ∧ u = { m with arrays := u.arrays } ∧
          arr u n = { a with loaded := 0 } ∧ ∀ j, j ≠ n.val → arr u j = arr s j)) ∧
    (∀ e rest tile anchor, a.streaming = false → a.queue = e :: rest → mayStart a e = true → descOp e.desc = 1 →
      columnsBusy a e.desc = false → triggered s e.desc = true → (e.resumed = true ∨ ownsColumns a e.desc = true) →
      (if descClaims e.desc then claimAnchor s e.desc else some 0) = some anchor → nextTile a e = some tile →
      (a.ramp ≠ .none ∨ 0 < a.floorDuty) →
        ∃ t, exec (.passStart n) s = .next t ∧ (arr t n).streaming = true ∧ (arr t n).active = some tile ∧ (arr t n).queue = a.queue ∧
          (∀ k, k ≠ n.val → arr t k = arr s k) ∧ t.engines = s.engines ∧ t.items = s.items ∧ t.mem = s.mem ∧
          (descClaims e.desc = false ∨ e.resumed = true → (arr t n).cols = a.cols ∧ (arr t n).entries = a.entries) ∧
          (descClaims e.desc = true → e.resumed = false → ∀ j, j < descNcol e.desc → lookD (arr t n).cols (descEbase e.desc + j) {} =
            { owned := true, orig := (descKey e.desc).orig, item := (descKey e.desc).item, lot := (descKey e.desc).lot,
              anw := descAnw e.desc, anchor := anchor })) ∧
    (∀ e rest, a.streaming = false → a.queue = e :: rest → mayStart a e = true → descOp e.desc = 1 → columnsBusy a e.desc = false →
      triggered s e.desc = true → e.resumed = false → ownsColumns a e.desc = false →
        exec (.passStart n) s = .next (settle (refuseHead s n e) n)) ∧
    (∀ e q, a.inflight = e :: q →
      exec (.passComplete ⟨n, []⟩) s = .next (reportDone (setArr s n { a with inflight := q }) n e 0) ∧
      ∀ l, exec (.passComplete ⟨n, l⟩) s = .next (completeInflight (correctedEntries s n l) n)) ∧
    (a.inflight = [] → ∀ e q l b t, a.queue = e :: q → a.streaming = true → a.stopping = false → retire s n = (b, t) →
      ((b = false ∨ (arr t n).inflight = []) → exec (.passComplete ⟨n, l⟩) s = .next t) ∧
      (b = true → (arr t n).inflight ≠ [] →
        exec (.passComplete ⟨n, l⟩) s = .next (completeInflight (rampDown (correctedEntries t n l) n e.desc) n))) ∧
    (∀ l, a.lake = some l → exec (.lakeWriteComplete n) s = .next (setArr s n { a with lake := some { l with done := true } })) ∧
    (∀ l len, a.ramp = .down l len → ∃ t, exec (.rampDownEnd n) s = .next t ∧ t = { s with arrays := t.arrays, regs := t.regs } ∧
      arr t n = { a with ramp := .none } ∧
      (regBit s (Reg.TA_CTRL n) 2 = true → t.regs = s.regs) ∧
      (regBit s (Reg.TA_CTRL n) 2 = false →
        counter t (Reg.TA_CNT_RAMP n) = (counter s (Reg.TA_CNT_RAMP n) + 7 * l / 16 * len) % 2 ^ 64))

/-- Stops, resumes and faults of an array (R94 to R98, R107, R129, R174, R443, R492): a stop lets columns up to the one named issue, or
the pass end in the slot of its last column; STOP_DONE halts the array with TA_STATUS.STOP_DONE, START and TA_CURSOR hold the next column
of a pass cut short, a resume issues the saved descriptor again; a fault of the running pass poisons and fails its item, and one of an
entry or a stationary slot is an uncorrectable error besides.
A command that finds nothing to act on leaves the state as it is (the model's choice, log 1).
It rests on the model's own choices or readings of logs 20 and 77. -/
def Obligations.ArrayStopAndFaultCommands : Prop :=
  ∀ (n : Fin 200) (s : State),
    let a := arr s n
    (∀ (e : QEntry) rest (slot : BitVec 9), a.fenced = false → a.stopping = false → a.queue = e :: rest → a.streaming = true →
      let c := max (descStart e.desc) slot.toNat
      ∃ u, (s.power.move = none → u = s) ∧
        (s.power.move.isSome = true → u = { s with power := { s.power with paused := insNat s.power.paused n } }) ∧
        (c + 1 < descNcol e.desc →
          exec (.stopRequest n slot) s = .next (setArr u n { a with stopping := true, stopCol := some c })) ∧
        (descNcol e.desc ≤ c + 1 → ∃ t, exec (.stopRequest n slot) s = .next t ∧ (arr t n).stopping = true ∧
          (∀ m, retire u n = (false, m) → t = setArr m n { arr m n with stopping := true }))) ∧
    (∀ slot : BitVec 9, a.fenced = false → a.stopping = false → a.streaming = false →
      (a.preload = none → lakeBusy a = false → ∃ t, exec (.stopRequest n slot) s = .next t ∧ regBit t (Reg.TA_STATUS n) 4 = true ∧
        (arr t n).halted = true ∧ (arr t n).haltId = a.nextId ∧ (arr t n).stopping = false ∧ (arr t n).shadow = none ∧
        (arr t n).lake = none) ∧
      ((a.preload.isSome = true ∨ lakeBusy a = true) →
        exec (.stopRequest n slot) s = .next (setArr s n { a with shadow := none, loaded := 0, stopping := true }))) ∧
    (∀ b m, a.stopping = true → a.preload = none → lakeBusy a = false → endStream s n = (b, m) →
      (a.streaming = false → b = true ∧ m = s) ∧
      (b = false → exec (.stopDone n) s = .next m) ∧
      (b = true → ∃ u, exec (.stopDone n) s = .next (if (arr u n).resumePending then resumeArray u n else u) ∧
        regBit u (Reg.TA_STATUS n) 4 = true ∧ (arr u n).halted = true ∧ (arr u n).stopping = false ∧ (arr u n).stopCol = none ∧
        (arr u n).shadow = none ∧ (arr u n).lake = none ∧ (arr u n).inflight = [])) ∧
    (∀ e rest c m, a.queue = e :: rest → a.streaming = true → a.stopCol = some c → feedTo s n e.desc (c + 1) = (true, m) →
      let r := runColumns m n e.desc (c + 1)
      (arr r n).queue = a.queue → (arr r n).streaming = true →
        ∃ v, endStream s n = (true, settle v n) ∧
          (arr v n).saved = (arr r n).saved ++ [⟨{ e with desc := setFld e.desc 480 9 (c + 1) }, (arr r n).tileNo⟩] ∧
          (arr v n).queue = rest ∧ (arr v n).streaming = false ∧ (arr v n).ramp = .down (rampLen r n) (slotLen e.desc) ∧
          regWord v (Reg.TA_CURSOR n) = BitVec.ofNat 32 ((c + 1) + fld e.desc 464 16 * 65536)) ∧
    (∀ v, blockLive s (Reg.TA_STOP n) = true → debugMode s = true →
      (∀ slot : BitVec 9, v.getLsbD 1 = false → exec (.taStopReq n v slot) s = .next (stopArray s n slot.toNat) ∧
        (s.power.move = none → exec (.stopRequest n slot) s = .next (stopArray s n slot.toNat))) ∧
      (v.getLsbD 0 = false → a.stopping = false →
        (a.saved = [] → exec (.taStopResume n v) s = .next (setArr s n { a with halted := false, resumePending := false })) ∧
        (∀ x, a.saved.getLast? = some x → a.resumeHeld = none →
          let keep := a.active.isSome && decide (a.tileNo = x.tile)
          let e := { x.entry with desc := setFld x.entry.desc 16 2 (if keep then 1 else 0), resumed := true, checked := true }
          let kept := a.saved.filter (fun y => y.entry.id != x.entry.id)
          exec (.taStopResume n v) s = .next (reissue s n x) ∧
          (∀ w, checkDesc s n e.desc = some w → ∃ u, exec (.taStopResume n v) s = .next (descFail u (descKey e.desc) 1 w) ∧
            (arr u n).saved = kept ∧ (arr u n).halted = false) ∧
          (checkDesc s n e.desc = none → a.queue.length < 16 → a.streaming = false → headOk { a with saved := kept } e.desc = true →
            ∃ t, exec (.taStopResume n v) s = .next t ∧ (arr t n).queue = e :: a.queue ∧ (arr t n).saved = kept ∧
              (arr t n).halted = false) ∧
          (checkDesc s n e.desc = none → 16 ≤ a.queue.length → ∃ t, exec (.taStopResume n v) s = .next t ∧
            (arr t n).resumeHeld = some { e with checked := false } ∧ (arr t n).queue = a.queue ∧ regBit t (Reg.TA_QSTAT n) 16 = true))) ∧
      (v.getLsbD 0 = false → a.stopping = true → exec (.taStopResume n v) s = .next (setArr s n { a with resumePending := true }))) ∧
    (∀ v, blockLive s (Reg.TA_STOP n) = true → debugMode s = false →
      (∀ slot : BitVec 9, exec (.taStopReq n v slot) s = .next s) ∧ exec (.taStopResume n v) s = .next s) ∧
    (∀ e col loc x, (if a.streaming then a.queue.head? else a.inflight.head?) = some e → ittOf s (descKey e.desc) = some x → x.live = true →
      (∀ kind, kind = .poisonedRead ∨ kind = .residueMismatch →
        ∃ t y, exec (.passFault n ⟨kind, col, loc⟩) s = .next t ∧ regBit t (Reg.TA_STATUS n) 3 = true ∧ ittOf t (descKey e.desc) = some y ∧
          y.state = .failed ∧ y.code = 2#8 ∧ y.detail = BitVec.ofNat 24 (regFld s (Reg.TA_ID n) 8 8) ∧ (arr t n).streaming = false ∧
          (∀ q, q ∈ (arr t n).inflight → descKey q.desc ≠ descKey e.desc) ∧
          (∀ q, q ∈ (arr t n).saved → descKey q.entry.desc ≠ descKey e.desc) ∧
          (∀ c, c ∈ (arr t n).cols → c.2.ownedBy (descKey e.desc) = false)) ∧
      (∀ kind, kind = .stationaryUncorrectable ∨ kind = .entryUncorrectable →
        exec (.passFault n ⟨kind, col, loc⟩) s =
          exec (.passFault n ⟨.residueMismatch, col, loc⟩) (uncorrectable s .acc n (entryLoc loc)).2))

/-- Preloads and drains of an array (R114, R115, R129, R131 to R141, R153, R165, R300, R380): a preload at the head of the queue of an array
that streams nothing claims or checks its columns and writes its rows once its reads have issued; a drain enters the drain unit, delivers
its next column, converted entry by entry, to its ring or to memory, without KEEP releases it, meets an entry that it cannot use by
poisoning and failing its item, and completes with its flags in TA_DFLAGS, in its item and, into a ring, in its FIFO.
It rests on the model's own choices or readings of logs 45, 73 and 74. -/
def Obligations.ArrayPreloadAndDrainCommands : Prop :=
  ∀ (n : Fin 200) (s : State),
    let a := arr s n
    let without (e : QEntry) : List QEntry := a.queue.filter (fun x => x.id != e.id)
    (∀ e rest, a.streaming = false → a.queue = e :: rest → mayStart a e = true → descOp e.desc = 2 → a.preload = none →
      columnsBusy a e.desc = false → triggered s e.desc = true →
      (ownsColumns a e.desc = false → exec (.preloadStart n) s = .next (settle (refuseHead s n e) n)) ∧
      (∀ anchor f k m, ownsColumns a e.desc = true → (if descClaims e.desc then claimAnchor s e.desc else some 0) = some anchor →
        descFmt e.desc 4 = some f → issueReqs s (arrayPort s n e.desc) ((preloadReqs e.desc f).drop a.loaded) = (k, m) →
          let all : Prop := k = ((preloadReqs e.desc f).drop a.loaded).length
          let b := if descClaims e.desc then claimColumns a e.desc anchor else a
          let usable : Prop := preloadPoisoned m e.desc f = false ∧ (entriesSound a e.desc 0 (descNcol e.desc) = true ∨ descClaims e.desc = true)
          PortSide s m ∧
          (¬ all → exec (.preloadStart n) s = .next (setArr m n { a with loaded := a.loaded + k })) ∧
          (all → usable → ∃ u, exec (.preloadStart n) s = .next (settle (admitResumed u n) n) ∧ u = { m with arrays := u.arrays } ∧
            arr u n = preloadEntries m { b with queue := without e, preload := some e, loaded := 0 } e.desc f ∧
            ∀ j, j ≠ n.val → arr u j = arr s j) ∧
          (all → ¬ usable → ∃ u, exec (.preloadStart n) s = .next (passFault u n (descKey e.desc)) ∧ u = { m with arrays := u.arrays } ∧
            arr u n = { b with queue := without e, loaded := 0 } ∧ ∀ j, j ≠ n.val → arr u j = arr s j))) ∧
    (∀ e, a.preload = some e → exec (.preloadComplete n) s = .next (reportDone (setArr s n { a with preload := none }) n e 0)) ∧
    (∀ e rest, a.streaming = false → a.queue = e :: rest → mayStart a e = true → descOp e.desc = 3 → a.drains.length < 2 →
      triggered s e.desc = true →
        (headOk a e.desc = true → exec (.drainEnter n) s = .next (settle (admitResumed (setArr s n
          { a with queue := without e, drains := a.drains ++ [{ entry := e, next := 0, flags := 0 }] }) n) n)) ∧
        (headOk a e.desc = false → exec (.drainEnter n) s = .next (settle (refuseHead s n e) n))) ∧
    (∀ r rest f m ecc, a.drains = r :: rest → r.next < descNcol r.entry.desc → r.flags.getLsbD 4 = false →
      descFmt r.entry.desc 4 = some f → RMode.ofCode (fld r.entry.desc 8 2) = some m →
        let d := r.entry.desc
        let col := descEbase d + r.next
        let c := lookD a.cols col {}
        let es := tab (descMt d) (fun i => lookD a.entries (256 * i + col) {})
        let xs := tab (descMt d) (fun i => drainElem a d f m i r.next)
        let place (row : Fin 128) : Fin 128 × Fin 256 := (row, Fin.ofNat 256 col)
        let usable : Prop := c.poison = false ∧ es.all (fun e => e.sound) = true ∧ ∀ row, ecc ≠ .uncorrectable row
        let done (t : State) : Prop := (arr t n).drains =
            { r with next := r.next + 1, flags := r.flags ||| BitVec.ofNat 16 (drainFlags c es (xs.map (fun x => x.2))) } :: rest ∧
          (arr t n).entries = a.entries ∧
          (arr t n).cols = if d.getLsbD 11 = false ∧ c.ownedBy (descKey d) = true then del a.cols col else a.cols
        (c.poison = true → exec (.drainColumnRead ⟨n, ecc⟩) s = .next (setArr s n { a with drains := { r with flags := r.flags ||| 16 } :: rest })) ∧
        (∀ row, c.poison = false → ecc = .uncorrectable row →
          exec (.drainColumnRead ⟨n, ecc⟩) s = .next (poisonDrain (uncorrectable s .acc n (entryLoc (place row))).2 n r)) ∧
        ((∀ row, ecc ≠ .uncorrectable row) → c.poison = false → es.all (fun e => e.sound) = false →
          exec (.drainColumnRead ⟨n, ecc⟩) s = .next (poisonDrain s n r)) ∧
        (∀ x, ittOf s (descKey d) = some x → x.live = true → ∃ y, ittOf (poisonDrain s n r) (descKey d) = some y ∧ y.state = .failed ∧
          y.code = 2#8 ∧ regBit (poisonDrain s n r) (Reg.TA_STATUS n) 3 = true) ∧
        (usable → descToRing d = true → ecc = .clean → ∃ t, exec (.drainColumnRead ⟨n, ecc⟩) s = .next t ∧ done t ∧
          (ring t (n / 4) (n % 4)).slots = (ring s (n / 4) (n % 4)).slots ++
            [(descKey d, tab 128 (fun i => BitVec.ofNat 32 ((xs.map (fun x => x.1)).getD i 0)))] ∧
          (ring t (n / 4) (n % 4)).reserved = (ring s (n / 4) (n % 4)).reserved - 1 ∧ t = { s with arrays := t.arrays, engines := t.engines }) ∧
        (usable → descToRing d = false → ecc = .clean → ∀ b t, issueAll s (arrayPort s n d) (columnReqs d f r.next) = (b, t) →
          (b = false → exec (.drainColumnRead ⟨n, ecc⟩) s = .next t) ∧
          (b = true → ∃ u, exec (.drainColumnRead ⟨n, ecc⟩) s = .next u ∧ done u ∧
            u.mem = (deliverColumn t n d f r.next (xs.map (fun x => x.1))).mem ∧ u.sc = (deliverColumn t n d f r.next (xs.map (fun x => x.1))).sc ∧
            u.items = s.items ∧ u.engines = s.engines)) ∧
        (∀ row, usable → descToRing d = true → ecc = .corrected row →
          exec (.drainColumnRead ⟨n, ecc⟩) s = exec (.drainColumnRead ⟨n, .clean⟩) (correctedEntries s n [place row]))) ∧
    (∀ r rest, a.drains = r :: rest → (descNcol r.entry.desc ≤ r.next ∨ r.flags.getLsbD 4 = true) →
      let d := r.entry.desc
      let g := ring s (n / 4) (n % 4)
      let flags := BitVec.ofNat 32 (r.flags.toNat + fld d 464 16 * 65536)
      let u := setRegWord (setArr s n { a with drains := rest }) (Reg.TA_DFLAGS n) flags
      (r.ended = true → exec (.drainComplete n) s = .next u) ∧
      (r.ended = false → descToRing d = true → r.entry.issuer ≠ .dispatcher → ∃ t, exec (.drainComplete n) s = .next t ∧
        (arr t n).drains = rest ∧ (arr t n).cols = a.cols ∧ (arr t n).entries = a.entries ∧ regWord t (Reg.TA_DFLAGS n) = flags ∧
        ring t (n / 4) (n % 4) = { g with reserved := g.reserved - (descNcol d - r.next), fifoRes := g.fifoRes - 1,
                                          fifo := g.fifo ++ [(descKey d, r.flags, BitVec.ofNat 16 (fld d 464 16))] } ∧
        (∀ x, ittOf s (descKey d) = some x → ittOf t (descKey d) = some { x with flags := x.flags ||| BitVec.ofNat 10 r.flags.toNat })) ∧
      (r.ended = false → descToRing d = false → exec (.drainComplete n) s =
        .next (signalDrain (addFlags (reportDone u n r.entry r.flags) (descKey d) r.flags.toNat) r.entry)))

/-- The register commands of the arrays, their debug view and the drain rings (R103, R105, R108, R142 to R148, R182, R217, R223): a
counter clear zeroes the six counters of the unit and stores the other fields; HIGH_CLR makes HIGH follow the occupancy again; the view
is granted in debug mode while the scrubber does not hold the port, is refused while it does, and shows the entry last named, which it
leaves as it is; a ring is configured while it holds nothing and its place fits. -/
def Obligations.ArrayRegisterAndViewCommands : Prop :=
  ∀ (s : State) (v : Word),
    (∀ n : Fin 200, blockLive s (Reg.TA_CTRL n) = true → ∃ t, exec (.taCntClear n v) s = .next t ∧ t = { s with regs := t.regs } ∧
      counter t (Reg.TA_CNT_BUSY n) = 0 ∧ counter t (Reg.TA_CNT_OPWAIT n) = 0 ∧ counter t (Reg.TA_CNT_EPIWAIT n) = 0 ∧
      counter t (Reg.TA_CNT_TRIGWAIT n) = 0 ∧ counter t (Reg.TA_CNT_PAUSE n) = 0 ∧ counter t (Reg.TA_CNT_RAMP n) = 0 ∧
      regBit t (Reg.TA_CTRL n) 2 = v.getLsbD 2) ∧
    (∀ n : Fin 200, blockLive s (Reg.TA_QSTAT n) = true → ∃ t, exec (.taHighClr n v) s = .next t ∧ t = { s with regs := t.regs } ∧
      regFld t (Reg.TA_QSTAT n) 8 5 = (arr s n).queue.length % 32 ∧ ∀ off, off ≠ Reg.TA_QSTAT n → regWord t off = regWord s off) ∧
    (∀ e : Fin 50, blockLive s (Reg.TE_CTRL e) = true → ∃ t, exec (.teCntClear e v) s = .next t ∧ t = { s with regs := t.regs } ∧
      counter t (Reg.TE_CNT_ISSUE e) = 0 ∧ counter t (Reg.TE_CNT_NOREADY e) = 0 ∧ counter t (Reg.TE_CNT_PARTIAL e) = 0 ∧
      counter t (Reg.TE_CNT_STARVE e) = 0 ∧ counter t (Reg.TE_CNT_PROMOTE e) = 0 ∧ counter t (Reg.TE_CNT_BARWAIT e) = 0 ∧
      regBit t (Reg.TE_CTRL e) 5 = v.getLsbD 5) ∧
    (∀ n : Fin 200, blockLive s (Reg.TA_ACCV_CTRL n) = true → debugMode s = true →
      (v.getLsbD 0 = false → ∃ t, exec (.accvEnWrite n v) s = .next t ∧ regFld t (Reg.TA_ACCV_STATUS n) 0 2 = 0 ∧
        (arr t n).viewPending = false) ∧
      (v.getLsbD 0 = true → viewHolds s n = false → regBit s Reg.ERR_SCRUB_CTRL 0 = false → ∃ t, exec (.accvEnWrite n v) s = .next t ∧
        regFld t (Reg.TA_ACCV_STATUS n) 0 2 = 1 ∧ t = { s with regs := t.regs }) ∧
      (v.getLsbD 0 = true → viewHolds s n = false → scrubsArray s n = true → v.getLsbD 1 = false →
        ∃ t, exec (.accvEnWrite n v) s = .next t ∧ regFld t (Reg.TA_ACCV_STATUS n) 0 2 = 2 ∧
          (t.evlog.getLast?.map (fun r => (r.cls, r.code, r.detail))) = some (2#8, 2#8, [BitVec.ofNat 32 n, 4#32, 5#32]))) ∧
    (∀ n : Fin 200, blockLive s (Reg.TA_ACCV_SEL n) = true → viewHolds s n = true → ∃ t, exec (.accvSelWrite n v) s = .next t ∧
      (arr t n).viewPending = true ∧ regBit t (Reg.TA_ACCV_STATUS n) 2 = false ∧
      regFld t (Reg.TA_ACCV_SEL n) 0 7 = fld v 0 7 ∧ regFld t (Reg.TA_ACCV_SEL n) 8 8 = fld v 8 8 ∧ (arr t n).entries = (arr s n).entries) ∧
    (∀ (n : Fin 200) (corrected uncorr : Bool), (arr s n).viewPending = true → viewHolds s n = true →
      let row := regFld s (Reg.TA_ACCV_SEL n) 0 7
      let col := regFld s (Reg.TA_ACCV_SEL n) 8 8
      let x := lookD (arr s n).entries (256 * row + col) {}
      let c := lookD (arr s n).cols col {}
      ∃ t, exec (.accvReadComplete n corrected uncorr) s = .next t ∧ t = { s with regs := t.regs, arrays := t.arrays, fresh := t.fresh } ∧
        (corrected = false → uncorr = false → regFld t (Reg.TA_ACCV_META n) 13 9 = (Config.checkBits x.low).toNat) ∧
        arr t n = { arr s n with viewPending := false } ∧
        (∀ i, i < 4 → regWord t (Reg.TA_ACCV_DATA n i) = x.value.extractLsb' (32 * i) 32) ∧
        regFld t (Reg.TA_ACCV_META n) 0 3 = x.res.toNat ∧ regBit t (Reg.TA_ACCV_META n) 7 = corrected ∧
        regBit t (Reg.TA_ACCV_META n) 8 = uncorr ∧ regBit t (Reg.TA_ACCV_META n) 9 = x.inx ∧ regBit t (Reg.TA_ACCV_META n) 10 = x.sat ∧
        regBit t (Reg.TA_ACCV_META n) 11 = x.pinf ∧ regBit t (Reg.TA_ACCV_META n) 12 = x.ninf ∧
        regFld t (Reg.TA_ACCV_COL n) 0 10 = c.anchor.toNat ∧ regBit t (Reg.TA_ACCV_COL n) 10 = c.anw ∧
        regBit t (Reg.TA_ACCV_COL n) 11 = c.owned ∧ regFld t (Reg.TA_ACCV_COL n) 16 16 = c.lot.toNat ∧
        regWord t (Reg.TA_ACCV_OWN n) = 0#3 ++ c.item ++ c.orig ∧ regBit t (Reg.TA_ACCV_STATUS n) 2 = true) ∧
    (∀ (e : Fin 50) (a : Fin 4), blockLive s (Reg.TE_DRING_CFG e a) = true →
      let fits : Prop := (ring s e a).slots = [] ∧ (ring s e a).reserved = 0 ∧ ringFits s e a (fld v 0 7) (fld v 8 6) = true
      (fits → ∃ t, exec (.dringCfgWrite e a v) s = .next t ∧ t = { s with regs := t.regs } ∧
        regFld t (Reg.TE_DRING_CFG e a) 0 7 = fld v 0 7 ∧ ringSlots t e a = 8 * fld v 8 6 ∧
        ∀ off, off ≠ Reg.TE_DRING_CFG e a → regWord t off = regWord s off) ∧
      (¬ fits → exec (.dringCfgWrite e a v) s = .next (setRegBit s (Reg.TE_DRING_STAT e a) 24)))

/-- Launch and life of groups (R188 to R193, R197, R206, R218): a sound record that fits an engine whose groups already run is placed at
once as the groups of one block, each thread at the record's PC with its index in v0, the argument words in u0 to u15 and the last lanes of
a short last group exited; an unsound one fails its item; without room it is held; a group whose threads have exited, or whose item has
ended, leaves its slot, its block with its last group, and the records held for the engine are taken as they fit; promotion, the end of a nap and the barrier watchdog act on their group alone.
A command that finds nothing to act on leaves the state as it is (the model's choice, log 1). -/
def Obligations.LaunchAndGroupCommands : Prop :=
  ∀ (e : Fin 50) (s : State),
    let x := eng s e
    (∀ r : LaunchRec, engineEnabled s e = true → x.fenced = false → x.launchQ = [] →
      (∀ w, launchBad r = some w → ∃ u, exec (.launch e r) s = .next (descFail u (launchKey r) 4 w) ∧ u = { s with engines := u.engines } ∧
        ∀ i, eng u i = eng s i) ∧
      (launchBad r = none → launchFits s e r = false → ∃ t, exec (.launch e r) s = .next t ∧ eng t e = { x with launchQ := [r] } ∧
        t = { s with engines := t.engines }) ∧
      (launchBad r = none → launchFits s e r = true → x.groups ≠ [] →
        ∃ t, exec (.launch e r) s = .next t ∧ t = { s with engines := t.engines, fresh := t.fresh } ∧
          (∀ e', e' ≠ e.val → eng t e' = eng s e') ∧ (eng t e).rings = x.rings ∧ (eng t e).traps = x.traps ∧
          (∃ b, look (eng t e).blocks x.nextBlock = some b ∧ b.launch = r ∧ b.groups = launchGroups r ∧ b.store = []) ∧
          (∀ sl g, grp s e sl = some g → grp t e sl = some g) ∧
          (∀ gi sl, (freeSlots x)[gi]? = some sl → gi < launchGroups r → ∃ g, grp t e sl = some g ∧ g.threads.length = 32 ∧
            g.block = x.nextBlock ∧ g.gidx = gi ∧ g.launch = r ∧ g.dbg = .running ∧ g.stopped = false ∧
            g.ureg 16 = BitVec.ofNat 32 gi ∧ g.ureg 17 = BitVec.ofNat 32 (launchGroups r) ∧
            g.ureg 18 = BitVec.ofNat 32 (engineNumber s e) ∧
            (∀ i, i < 16 → g.ureg i = BitVec.ofNat 32 (ofBytes (((readBytes s (launchArgs r) 64).drop (4 * i)).take 4))) ∧
            (∀ l, l < 32 → (g.th l).pc = BitVec.ofNat 48 (launchPc r) ∧ (g.th l).reg 0 = BitVec.ofNat 32 (32 * gi + l) ∧
              (∀ i, i ≠ 0 → (g.th l).reg i = 0) ∧
              (g.th l).exited = (decide (gi + 1 = launchGroups r) && decide (launchLast r ≤ l)))))) ∧
    (∀ (sl : Fin 48) g, grp s e sl = some g →
      ((g.stopped = true ∨ ∀ th, th ∈ g.threads → th.exited = true) →
        ∃ t, exec (.groupFreed e sl) s = .next (takeHeld t e x.launchQ.length) ∧ (x.launchQ = [] → takeHeld t e x.launchQ.length = t) ∧
          t = { s with engines := t.engines } ∧ grp t e sl = none ∧
          (∀ sl', sl' ≠ sl.val → grp t e sl' = grp s e sl') ∧ (eng t e).rings = x.rings ∧ (eng t e).traps = x.traps ∧
          ((∀ y, y ∈ (eng t e).groups → y.2.block ≠ g.block) → look (eng t e).blocks g.block = none)) ∧
      (g.stopped = false → (∃ th, th ∈ g.threads ∧ th.exited = false) → exec (.groupFreed e sl) s = .next s) ∧
      (g.dbg = .running → g.readyNow = true →
        exec (.groupPromotion e sl) s = .next (setGrp s e sl { g with promoted := true })) ∧
      (∀ lane : Fin 32, g.threads.length = 32 → ∃ t h, exec (.napEnd e sl lane) s = .next t ∧ t = { s with engines := t.engines } ∧
        grp t e sl = some h ∧ { h with threads := g.threads } = g ∧
        ∀ l, l < 32 → h.th l = if l = lane.val then { g.th l with nap := none } else g.th l) ∧
      (∀ (bar : Fin 8) b l0 rest, barrierForm s e sl g false bar = some b → g.dbg = .running → g.stopped = false →
        (barrierNeeds s e sl g b).filter (fun y => !waitsAt (g.th y.2) false bar) = (sl.val, l0) :: rest →
          exec (.barrierTimeout e sl false bar) s = .next (trapGroup s e sl l0 8 bar 0)))

/-- The debugger of an engine (R207, R210 to R213, R224 to R226), in debug mode: a halt cancels a waiting step and the group halts once
nothing of it is in issue; a resume lets it run, and fails the item of a block that a trap had halted; a step request waits in a halted
group; the forms for all slots do the same in each; the data window of a halted group writes v, p and u registers. Outside debug mode
none of these has an effect.
A command that finds nothing to act on leaves the state as it is (the model's choice, log 1). -/
def Obligations.DebuggerCommands : Prop :=
  ∀ (e : Fin 50) (s : State) (v : Word),
    (debugMode s = false → exec (.dbgHalt e v) s = .next s ∧ exec (.dbgResume e v) s = .next s ∧ exec (.dbgStep e v) s = .next s ∧
      exec (.haltAll e v) s = .next s ∧ exec (.resumeAll e v) s = .next s ∧ exec (.dbgDataWrite e v) s = .next s) ∧
    (∀ (sl : Fin 48) g, grp s e sl = some g →
      (g.dbg = .halting → g.inIssue = none → exec (.haltComplete e sl) s = .next (setGrp s e sl { g with dbg := .halted })) ∧
      ((g.dbg ≠ .halting ∨ g.inIssue ≠ none) → exec (.haltComplete e sl) s = .next s)) ∧
    (debugMode s = true → blockLive s (Reg.TE_DBG_CTRL e) = true → ∀ g, fld v 0 6 < 48 → grp s e (fld v 0 6) = some g →
      let sl := fld v 0 6
      let stored (t : State) : Prop := t = { s with regs := t.regs, engines := t.engines } ∧ regFld t (Reg.TE_DBG_CTRL e) 0 6 = sl ∧
        regBit t (Reg.TE_DBG_CTRL e) 11 = v.getLsbD 11 ∧ ∀ off, off ≠ Reg.TE_DBG_CTRL e → regWord t off = regWord s off
      let only (h : Group) (t : State) : Prop := grp t e sl = some h ∧ ∀ sl', sl' ≠ sl → grp t e sl' = grp s e sl'
      let plain : Prop := fld v 9 2 = 0 ∧ fld v 12 2 = 0
      let halted (g : Group) : Group := { g with dbg := if g.dbg = .running then .halting else g.dbg, stepPend := false }
      (plain → ∃ t, exec (.dbgHalt e v) s = .next t ∧ stored t ∧ only (halted g) t) ∧
      (fld v 8 1 = 0 → fld v 10 1 = 0 → fld v 12 2 = 0 → (∀ b, blockOf s e g = some b → b.trapped = none) →
        ∃ t, exec (.dbgResume e v) s = .next t ∧ stored t ∧ only { g with dbg := .running, stepPend := false, stepOver := false } t) ∧
      (fld v 8 2 = 0 → fld v 12 2 = 0 → ∃ t, exec (.dbgStep e v) s = .next t ∧ stored t ∧
        only (if g.dbg = .halted then { g with stepPend := true } else g) t) ∧
      (fld v 8 3 = 0 → fld v 13 1 = 0 → ∃ t, exec (.haltAll e v) s = .next t ∧ stored t ∧
        ∀ i h, grp s e i = some h → grp t e i = some (halted h)) ∧
      (fld v 8 3 = 0 → fld v 12 1 = 0 → (∀ b y, look (eng s e).blocks b = some y → y.trapped = none) →
        ∃ t, exec (.resumeAll e v) s = .next t ∧ stored t ∧
          ∀ i h, grp s e i = some h → grp t e i =
            some (if h.dbg = .halted then { h with dbg := .running, stepPend := false, stepOver := false } else h))) ∧
    (∀ g, debugMode s = true → blockLive s (Reg.TE_DBG_DATA e) = true → grp s e (regFld s (Reg.TE_DBG_CTRL e) 0 6) = some g →
      g.dbg = .halted → g.threads.length = 32 →
      let sl := regFld s (Reg.TE_DBG_CTRL e) 0 6
      let lane := regFld s (Reg.TE_DBG_SEL e) 0 5
      let i := regFld s (Reg.TE_DBG_SEL e) 8 8
      (regFld s (Reg.TE_DBG_SEL e) 5 3 = 0 → i < launchVregs g.launch →
        exec (.dbgDataWrite e v) s = .next (setGrp s e sl (g.modTh lane (fun x => x.setReg i v)))) ∧
      (regFld s (Reg.TE_DBG_SEL e) 5 3 = 1 →
        exec (.dbgDataWrite e v) s = .next (setGrp s e sl (g.modTh lane (fun x => { x with p := v.extractLsb' 0 16 })))) ∧
      (regFld s (Reg.TE_DBG_SEL e) 5 3 = 2 → i < 64 → exec (.dbgDataWrite e v) s = .next (setGrp s e sl (g.setU i v))))

/-- The SC of Rilaz (R280 to R286, R289, R300, R301, R309, R311, R312, R327): a request that may be issued, to the hold window or to a line
whose bytes are cached, is answered or written at once; a read of bytes that are not takes or joins the line's miss entry; a request that
its tokens do not cover, whose channel replaces a wire, or for which no entry is free waits at its port, the last with FULL_STALL; a fill
makes the line valid and serves the requests of its entry, and none comes from a controller that recalibrates; a
flush leaves no dirty line, with invalidation no line at all, and shows FLUSH_BUSY until it is done; the hold ways change only while no
item is accepted, and once the change completes RLZ_STATUS and RLZ_HOLD_SIZE show it and what the smaller window lost reads zero.
A command that finds nothing to act on leaves the state as it is (the model's choice, log 1).
It rests on the model's own choices or readings of logs 24 and 73. -/
def Obligations.CacheCommands : Prop :=
  (∀ (r : ScReq) (s : State),
    let q : ScReq := if r.master.val = 272 then { r with tint := BitVec.ofNat 3 (regFld s Reg.DSP_TINT_HOST 0 3) } else r
    let a := q.addr.toNat
    let l := a / 128
    let read := ScOp.isRead q.op
    let queued (u : State) : State := { u with sc := { u.sc with held := u.sc.held ++ [q] } }
    let may : Prop := scReaches s q = true ∧ scMay s q = true ∧ s.sc.held = [] ∧ s.sc.host = []
    let sameSc (t : State) : Prop := t.sc = { s.sc with lastTint := t.sc.lastTint }
    let written (d : LineBits) (t : State) : Prop :=
      ∀ x, readByte t x = if a ≤ x ∧ x < a + q.len.val then d.extractLsb' (8 * (x - a)) 8 else readByte s x
    (scReaches s q = false → ∀ ecc, exec (.scRequest ⟨r, ecc⟩) s = .next s) ∧
    (scReaches s q = true → scAdmitted s q = false → ∀ ecc, ∃ t, exec (.scRequest ⟨r, ecc⟩) s = .next t ∧
      t.sc = { s.sc with held := s.sc.held ++ [q] } ∧ t.mem = s.mem ∧ t.outbox = s.outbox) ∧
    (scReaches s q = true → scAdmitted s q = true → channelHolds s read a = true → ∀ ecc,
      exec (.scRequest ⟨r, ecc⟩) s = .next (queued s)) ∧
    (scReaches s q = true → scAdmitted s q = true → channelHolds s read a = false → scMisses s q = true → missRoom s l = false → ∀ ecc,
      ∃ t, exec (.scRequest ⟨r, ecc⟩) s = .next t ∧ t.sc = { s.sc with held := s.sc.held ++ [q] } ∧ t.mem = s.mem ∧ t.outbox = s.outbox ∧
        regBit t (Reg.RLZ_SC_OCC (sliceOf s l)) 16 = true) ∧
    (scReaches s q = true → scMay s q = true → ∀ ecc, exec (.scRequest ⟨r, ecc⟩) s = .next (serveWaiting (queued (checkSc s q ecc)))) ∧
    (may → holdBase ≤ a → read = true → ∃ t, exec (.scRequest ⟨r, .clean⟩) s = .next t ∧ t.mem = s.mem ∧ sameSc t ∧ t.poison = s.poison ∧
      t.outbox = s.outbox ++ [.scData q.master (readBytes s a q.len.val) (readPoison s a q.len.val)]) ∧
    (∀ d, may → holdBase ≤ a → q.op = .write d → ∃ t, exec (.scRequest ⟨r, .clean⟩) s = .next t ∧ t.outbox = s.outbox ∧ written d t) ∧
    (∀ v, may → holdBase ≤ a → q.op = .atomicAdd v → ∃ t, exec (.scRequest ⟨r, .clean⟩) s = .next t ∧
      t.outbox = s.outbox ++ [.scData q.master (readBytes s a 4) (readPoison s a 4)] ∧
      ofBytes (readBytes t a 4) = (ofBytes (readBytes s a 4) + v.toNat) % 2 ^ 32) ∧
    (∀ x, may → a < holdBase → look s.sc.lines l = some x →
      (read = true → byteMask (a % 128) q.len.val &&& ~~~ x.valid = 0 → ∃ t, exec (.scRequest ⟨r, .clean⟩) s = .next t ∧ t.mem = s.mem ∧
        t.sc.lines = s.sc.lines ∧ t.sc.misses = s.sc.misses ∧
        t.outbox = s.outbox ++ [.scData q.master (readBytes s a q.len.val) (readPoison s a q.len.val)]) ∧
      (∀ d, q.op = .write d → ∃ t, exec (.scRequest ⟨r, .clean⟩) s = .next t ∧ t.outbox = s.outbox ∧ t.mem = s.mem ∧ written d t)) ∧
    (may → a < holdBase → read = true → look s.sc.lines l = none →
      ∃ t, exec (.scRequest ⟨r, .clean⟩) s = .next t ∧ t.outbox = s.outbox ∧ t.mem = s.mem ∧ t.sc.lines = s.sc.lines ∧
        look t.sc.misses l = some (lookD s.sc.misses l [] ++ [q]) ∧ (∀ k, k ≠ l → look t.sc.misses k = look s.sc.misses k))) ∧
  (∀ (line : BitVec 41) (s : State),
    let l := line.toNat
    ((look s.sc.misses l = none ∨ nearHolds s l = true) → ∀ bad, exec (.scMissFill ⟨line, bad⟩) s = .next s) ∧
    (∀ qs, look s.sc.misses l = some qs → nearHolds s l = false →
      (∀ bad, exec (.scMissFill ⟨line, bad⟩) s = .next (serveWaiting (fillMiss (checkNear s l bad) l))) ∧
      (s.sc.held = [] → s.sc.host = [] → l * 128 < farBase → (∀ q, q ∈ qs → q.op = .read) → look s.sc.lines l = none →
        ((∀ q, q ∈ qs → q.streaming = true) →
          ∃ t, exec (.scMissFill ⟨line, []⟩) s = .next t ∧ look t.sc.misses l = none ∧ t.sc.lines = s.sc.lines ∧ t.mem = s.mem ∧
            t.outbox = s.outbox ++ qs.map (fun q => .scData q.master (readBytes s q.addr.toNat q.len.val) (readPoison s q.addr.toNat q.len.val))) ∧
        ((∃ q, q ∈ qs ∧ q.streaming = false) → sliceAllocates s l = true →
          ∃ t x, exec (.scMissFill ⟨line, []⟩) s = .next t ∧ look t.sc.misses l = none ∧ look t.sc.lines l = some x ∧
            x.valid = BitVec.allOnes 128 ∧ x.dirty = 0 ∧ x.data = (backLine s (l * 128)).1 ∧
            t.outbox.length = s.outbox.length + qs.length)))) ∧
  (∀ (v : Word) (s : State),
    (blockLive s Reg.RLZ_FLUSH = true →
      (v.getLsbD 1 = false → ∃ t, exec (.flushReq v) s = .next t ∧ regBit t Reg.RLZ_STATUS 16 = true ∧
        ∀ l x, look t.sc.lines l = some x → x.dirty = 0) ∧
      (∃ t, exec (.flushInval v) s = .next t ∧ regBit t Reg.RLZ_STATUS 16 = true ∧ t.sc.lines = [])) ∧
    exec .flushDone s = .next (clrRegBit s Reg.RLZ_STATUS 16) ∧
    (blockLive s Reg.RLZ_CFG = true → s.items.itt ≠ [] → exec (.holdWaysWrite v) s = .next (setRegBit s Reg.RLZ_STATUS 18)) ∧
    (blockLive s Reg.RLZ_CFG = true → s.items.itt = [] → fld v 0 4 ≤ 12 → ∃ t, exec (.holdWaysWrite v) s = .next t ∧
      t = { s with regs := t.regs } ∧ regFld t Reg.RLZ_CFG 0 4 = fld v 0 4 ∧ holdNow t = holdNow s ∧
      regBit t Reg.RLZ_STATUS 17 = (decide (fld v 0 4 ≠ holdNow s) || regBit s Reg.RLZ_STATUS 17)) ∧
    (regBit s Reg.RLZ_STATUS 17 = true → ∃ t, exec .holdChangeComplete s = .next t ∧ regBit t Reg.RLZ_STATUS 17 = false ∧
      holdNow t = regFld s Reg.RLZ_CFG 0 4 ∧
      regFld t Reg.RLZ_HOLD_SIZE 0 24 = sliceCount s * regFld s Reg.RLZ_CFG 0 4 * 2176 % 2 ^ 24 ∧
      ∀ a, holdBase + sliceCount s * regFld s Reg.RLZ_CFG 0 4 * 2176 * 1024 ≤ a → a < pbBase → readByte t a = 0) ∧
    (∀ sl : Fin 64, blockLive s (Reg.RLZ_SC_OCC sl) = true → ∃ t, exec (.scHighClr sl v) s = .next t ∧ t = { s with regs := t.regs } ∧
      regFld t (Reg.RLZ_SC_OCC sl) 8 8 = regFld s (Reg.RLZ_SC_OCC sl) 0 8 ∧ regFld t (Reg.RLZ_SC_OCC sl) 0 8 = regFld s (Reg.RLZ_SC_OCC sl) 0 8))

/-- The vertical channels and slices (R289 to R292, R310, R449): a resent word counts in the channel's bucket and strikes the lowest
implicated wire of each group, the fourth strike on one wire declares it failed and uses the next spare; a replacement that ends leaves one fewer to run
and lets what waited across it go on; a
slice that has lost a direction is retired: every accepted item fails with code 6, the SC holds no line, the slice is not enabled, the hold
window reads zero and RLZ_STATUS shows it.
A command that finds nothing to act on leaves the state as it is (the model's choice, log 1). -/
def Obligations.VerticalChannelCommands : Prop :=
  (∀ (ch : Fin 114) (write : Bool) (wires : List Nat) (s : State),
    (vcMode s ch write = 3 → exec (.vcWordResend ch write wires) s = .next s) ∧
    (∀ w, vcMode s ch write ≠ 3 → wires = [w] → w < 512 * vcGroups ch write → w / 512 = 0 →
      regFld s (Reg.ERR_BKT (365 + ch)) 0 16 + 1 < regFld s (Reg.ERR_BKT_CFG 5) 0 16 →
      regFld s (Reg.ERR_BKT_CFG 5) 0 16 ≤ 65535 → (∀ w' n, look s.vc.strikes (groupKey ch write 0) = some (w', n) → w' = w → n < 3) →
        ∃ t n, exec (.vcWordResend ch write wires) s = .next t ∧ regFld t (Reg.ERR_BKT (365 + ch)) 0 16 = regFld s (Reg.ERR_BKT (365 + ch)) 0 16 + 1 ∧
          look t.vc.strikes (groupKey ch write 0) = some (w, n) ∧
          (∀ w' m, look s.vc.strikes (groupKey ch write 0) = some (w', m) → (w' = w → n = m + 1) ∧ (w' ≠ w → n = 1)) ∧
          (look s.vc.strikes (groupKey ch write 0) = none → n = 1) ∧ t.vc.spares = s.vc.spares ∧ t.mem = s.mem) ∧
    (∀ w used, vcMode s ch write ≠ 3 → w < 512 → lookD s.vc.spares (groupKey ch write 0) 0 = used → used < 16 →
      look s.vc.strikes (groupKey ch write 0) = some (w, 3) →
      regFld s (Reg.ERR_BKT (365 + ch)) 0 16 + 1 < regFld s (Reg.ERR_BKT_CFG 5) 0 16 → regFld s (Reg.ERR_BKT_CFG 5) 0 16 ≤ 65535 →
        ∃ t, exec (.vcWordResend ch write [w]) s = .next t ∧ look t.vc.strikes (groupKey ch write 0) = none ∧
          lookD t.vc.spares (groupKey ch write 0) 0 = used + 1 ∧
          lookD t.vc.replacing (dirKey ch write) 0 = lookD s.vc.replacing (dirKey ch write) 0 + 1 ∧
          regFld t (vcReg ch) 16 10 = (regFld s (vcReg ch) 16 10 + 1) % 1024 ∧
          regBit t Reg.ERR_CAUSE 2 = true ∧ regBit t Reg.ERR_CAUSE 3 = true ∧ t.mem = s.mem) ∧
    (∀ left, left = lookD s.vc.replacing (dirKey ch write) 0 - 1 →
      let u : State := { s with vc := { s.vc with replacing := putD 0 s.vc.replacing (dirKey ch write) left } }
      exec (.wireReplacementComplete ch write) s = .next (serveWaiting u) ∧
      (s.sc.held = [] → s.sc.host = [] → serveWaiting u = u))) ∧
  (∀ (sl : Fin 64) (s : State),
    (regBit s (Reg.RLZ_SC_ID sl) 16 = false → ∀ b, exec (.sliceRetirement sl b) s = .next s) ∧
    (vcMode s sl false ≠ 3 → vcMode s sl true ≠ 3 → slicePhases s sl < 2 → ∀ b, exec (.sliceRetirement sl b) s = .next s)) ∧
  (∀ (sl : Fin 64) (s : State), regBit s (Reg.RLZ_SC_ID sl) 16 = true → vcMode s sl false = 3 →
    ∃ t, exec (.sliceRetirement sl true) s = .next t ∧ t.sc.lines = [] ∧ regBit t (Reg.RLZ_SC_ID sl) 16 = false ∧
      regFld t (Reg.RLZ_SC_ID sl) 8 8 = 0xFF ∧ regBit t Reg.RLZ_STATUS 19 = true ∧
      (∀ a, holdBase ≤ a → a < pbBase → readByte t a = 0) ∧ ∀ k x, ittOf s k = some x → x.live = true →
        ∃ y, ittOf t k = some y ∧ y.state = .failed ∧ y.code = 6#8)

/-- The movers and the tint controller (R295, R298 to R305, R313, R314, R316): a host descriptor that passes the entry check joins its
mover's queue, another shows REFUSED and its code; the head of a queue makes its requests at its port, runs once they are all issued and
leaves the queue, a fill writing its pattern row by row, or stops where its item has ended; a limit is stored with its ceiling at least its
guarantee and at least 1, with LIMIT_CLAMP where that changed it, tint 7 being fixed; an epoch fills the buckets, puts the last guarantees
in force, begins the charges anew and serves what waited for tokens.
A command that finds nothing to act on leaves the state as it is (the model's choice, log 1).
It rests on the model's own choices or readings of logs 69 and 73. -/
def Obligations.MoverAndTintCommands : Prop :=
  (∀ (m : Fin 32) (v : Word) (s : State), blockLive s (Reg.RLZ_MV_SUBMIT m) = true →
    let d : Desc := BitVec.ofNat 512 ((List.range 16).foldr (fun w acc => (regWord s (Reg.RLZ_MV_DESC m w)).toNat + acc * 2 ^ 32) 0)
    (mvCheck s m d = none → ∃ t, exec (.moverGo m v) s = .next t ∧ t = { s with movers := t.movers } ∧
      mvQueue t m = mvQueue s m ++ [{ desc := d, src := .host }] ∧ ∀ k, k ≠ m.val → mvQueue t k = mvQueue s k) ∧
    (∀ c, mvCheck s m d = some c → ∃ t, exec (.moverGo m v) s = .next t ∧ t.movers = s.movers ∧ t.mem = s.mem ∧
      regBit t (Reg.RLZ_MV_STAT m) 8 = true ∧ regFld t (Reg.RLZ_MV_STAT m) 12 4 = c % 16)) ∧
  (∀ (m : Fin 32) (s : State) e q, mvQueue s m = e :: q →
    (e.ended = true → s.items.heldMover = [] → ∃ t, exec (.moverDescriptorComplete m) s = .next t ∧ mvQueue t m = q ∧ t.items = s.items ∧
      (mvParts e.desc = [] → t.mem = s.mem)) ∧
    (∀ k u, e.ended = false → issueReqs s (moverPort m e) ((moverReqs s e).drop e.issued) = (k, u) →
      let all : Prop := k = ((moverReqs s e).drop e.issued).length
      PortSide s u ∧
      (¬ all → exec (.moverDescriptorComplete m) s = .next (setMvQueue u m ({ e with issued := e.issued + k } :: q))) ∧
      (all → s.items.heldMover = [] →
        (∀ port p, e.src = .packet port p → exec (.moverDescriptorComplete m) s = .next (placePayload (setMvQueue u m q) p)) ∧
        (e.src = .host → mvReach u e.desc = true → mvOp e.desc = 4 → mvRows e.desc = 1 → mvDhint e.desc = false →
          let bs := tab (mvRowBytes e.desc) (fun i => BitVec.ofNat 8 (mvPattern e.desc >>> (8 * (i % 4))))
          ∃ t, exec (.moverDescriptorComplete m) s = .next t ∧ mvQueue t m = q ∧
            (mvNotify e.desc = true → regBit t (Reg.RLZ_MV_STAT m) 9 = true) ∧ t.items = s.items ∧
            t.mem = (writeBytes u (mvDst e.desc) bs false).mem ∧ t.sc = (writeBytes u (mvDst e.desc) bs false).sc) ∧
        (e.src = .dispatcher → mvReach u e.desc = false → ∃ t, exec (.moverDescriptorComplete m) s = .next t ∧
          (q = [] → mvQueue t m = []) ∧ t.mem = u.mem ∧
          ∀ x, ittOf s (moverKey e.desc) = some x → x.live = true →
            ∃ y, ittOf t (moverKey e.desc) = some y ∧ y.state = .failed ∧ y.code = 1#8)))) ∧
  (∀ (m : Fin 32) (s : State), mvQueue s m = [] → exec (.moverDescriptorComplete m) s = .next s) ∧
  (∀ (t : Fin 8) (r : Fin 4) (v : Word) (s : State), blockLive s (Reg.DSP_TINT_LIM t r) = true →
    let g := fld v 0 16
    let c := max g (max 1 (fld v 16 16))
    (t.val = 7 → exec (.tintLimWrite t r v) s = .next s) ∧
    (t.val ≠ 7 → ∃ u, exec (.tintLimWrite t r v) s = .next u ∧ u = { s with regs := u.regs, tint := u.tint } ∧
      regFld u (Reg.DSP_TINT_LIM t r) 0 16 = g ∧ regFld u (Reg.DSP_TINT_LIM t r) 16 16 = c ∧
      (fld v 16 16 < c → regBit u Reg.DSP_TINT_STAT 8 = true) ∧ u.tint.tokens = s.tint.tokens ∧ u.tint.charges = s.tint.charges)) ∧
  (∀ s : State, ∃ t, exec .tintEpoch s = .next (serveWaiting t) ∧ (s.sc.held = [] → s.sc.host = [] → serveWaiting t = t) ∧
    t = { s with regs := t.regs, tint := t.tint } ∧ t.tint.charges = [] ∧ t.tint.drawn = [] ∧
    t.tint.pendEff = [] ∧ t.tint.last = s.tint.charges ∧
    (∀ k x, look s.tint.tokens k = some x → lookD t.tint.tokens k 4096 = min 4096 (tokensLeft s (k / 32) (k / 4 % 8) (k % 4))) ∧
    (∀ n g x, n < 8 → g < 4 → s.tint.pendEff = [(4 * n + g, x)] → regFld t (Reg.DSP_TINT_EFF n g) 0 16 = x % 65536))

/-- Repair records, buckets and scrubbers (R445, R452, R453, R458, R462 to R466): a confirmed pending record leaves the list for the log;
a withdrawal is logged in debug mode; a compaction that succeeds leaves the live records and the newest power-up record, one that fails
keeps the log; a leak takes one from a bucket; a visit that finds nothing wrong changes nothing, a corrected error counts once in its bucket,
an uncorrectable one sets ERR_CAUSE.UE and ERR_LAST, and a residue error fails the owner's item or, in a free column, is counted; a lap that ends shows the longest, a slow one sets LAP_SLOW once.
A command that finds nothing to act on leaves the state as it is (the model's choice, log 1). -/
def Obligations.RepairAndScrubCommands : Prop :=
  (∀ (v : Word) (s : State), blockLive s Reg.REP_CMD = true → regBit s Reg.REP_STATUS 10 = false → regBit s Reg.REP_STATUS 11 = false →
    s.repair.log.length + s.pend.length < halfRoom →
      (∀ p, v.getLsbD 1 = false → v.getLsbD 2 = false → s.pend[regFld s Reg.REP_PEND_SEL 0 8]? = some p →
        ∃ t x, exec (.confirm v) s = .next t ∧ t.pend = s.pend.eraseIdx (regFld s Reg.REP_PEND_SEL 0 8) ∧
          t.repair.log = s.repair.log ++ [x] ∧ x.what = p.what ∧ x.cause = p.cause) ∧
      (v.getLsbD 1 = false → v.getLsbD 2 = false → s.pend[regFld s Reg.REP_PEND_SEL 0 8]? = none → exec (.confirm v) s = .next s) ∧
      (v.getLsbD 0 = false → v.getLsbD 2 = false → ∃ t xs, exec (.confirmAll v) s = .next t ∧ t.pend = [] ∧
        t.repair.log = s.repair.log ++ xs ∧ xs.map (fun x => (x.what, x.cause)) = s.pend.map (fun p => (p.what, p.cause))) ∧
      (v.getLsbD 0 = false → v.getLsbD 1 = false → debugMode s = true → s.repair.log.length + 1 < halfRoom →
        ∃ t x, exec (.withdraw v) s = .next t ∧ t.repair.log = s.repair.log ++ [x] ∧ x.what = 0xC#32 ∧ x.wseq = regWord s Reg.REP_WSEQ) ∧
      (v.getLsbD 0 = false → v.getLsbD 1 = false → debugMode s = false → exec (.withdraw v) s = .next s)) ∧
  (∀ s : State, regBit s Reg.REP_STATUS 11 = true →
    (s.repair.held = [] → ∃ t, exec (.logCompaction true) s = .next t ∧ t.repair.log = liveRecords s ++ newestPowerUp s.repair.log ∧
      t.repair.gen = s.repair.gen + 1 ∧ regBit t Reg.REP_STATUS 11 = false) ∧
    (∃ t, exec (.logCompaction false) s = .next t ∧ t.repair.log = s.repair.log ∧ t.repair.held = [] ∧ regBit t Reg.REP_STATUS 11 = false ∧
      regBit t Reg.ERR_CAUSE 6 = true)) ∧
  (∀ (i : Fin 515) (s : State), ∃ t, exec (.bucketLeak i) s = .next t ∧ t = { s with regs := t.regs, vc := t.vc } ∧
    regFld t (Reg.ERR_BKT i) 0 16 = regFld s (Reg.ERR_BKT i) 0 16 - 1 ∧ regFld t (Reg.ERR_BKT i) 16 16 = regFld s (Reg.ERR_BKT i) 16 16 ∧
    (∀ off, off ≠ Reg.ERR_BKT i → regWord t off = regWord s off) ∧ (bktClassOf i ≠ .vc → t.vc = s.vc)) ∧
  (∀ (k : ScrubKind) (i : Fin 200) (loc : BitVec 32) (detail : BitVec 20) (lap : Word) (s : State),
    (scrubs s k i = false → ∀ r b, exec (.scrubVisit k i loc detail r b lap) s = .next s) ∧
    (scrubs s k i = true →
      (entryBad (lookD (arr s i).entries loc.toNat {}) = false → exec (.scrubVisit k i loc detail .clean false lap) s = .next s) ∧
      ((k = .acc → entryBad (lookD (arr s i).entries loc.toNat {}) = false) → ∃ t, exec (.scrubVisit k i loc detail .corrected false lap) s = .next t ∧ t.mem = s.mem ∧ t.poison = s.poison ∧
        ∀ n, n = (scrubClass k true).first + i → regFld s (Reg.ERR_BKT n) 0 16 + 1 < regFld s (Reg.ERR_BKT_CFG (scrubClass k true).num) 0 16 →
          regFld t (Reg.ERR_BKT n) 0 16 = (regFld s (Reg.ERR_BKT n) 0 16 + 1) % 65536) ∧
      (∃ t, exec (.scrubVisit k i loc detail .uncorrectable false lap) s = .next t ∧ regBit t Reg.ERR_CAUSE 1 = true ∧
        regWord t Reg.ERR_LAST0 = BitVec.ofNat 32 ((scrubClass k false).num + ((scrubClass k false).first + i) * 256) ∧
        regWord t Reg.ERR_LAST1 = scrubLoc k loc.toNat detail.toNat) ∧
      (k = .acc → entryBad (lookD (arr s i).entries loc.toNat {}) = true →
        let c := lookD (arr s i).cols (loc.toNat % 256) {}
        let key : ItemKey := ⟨c.orig, c.item, c.lot⟩
        (c.owned = false → ∃ t, exec (.scrubVisit k i loc detail .clean false lap) s = .next t ∧ regBit t Reg.ERR_CAUSE 1 = true ∧
          t.items = s.items) ∧
        (∀ x, c.owned = true → ittOf s key = some x → x.live = true → ∃ t y, exec (.scrubVisit k i loc detail .clean false lap) s = .next t ∧
          ittOf t key = some y ∧ y.state = .failed ∧ y.code = 2#8 ∧ regBit t (Reg.TA_STATUS i) 3 = true)) ∧
      ((k = .acc → entryBad (lookD (arr s i).entries loc.toNat {}) = false) → ∃ t, exec (.scrubVisit k i loc detail .clean true lap) s = .next t ∧
        (regWord t (Reg.ERR_SCRUB_LAP (scrubNum k))).toNat = max (regWord s (Reg.ERR_SCRUB_LAP (scrubNum k))).toNat lap.toNat) ∧
      (regWord s (Reg.ERR_SCRUB_LIM (scrubNum k)) < lap → (scrubNum k, i.val) ∉ s.repair.slow →
        ∃ t, exec (.lapSlow k i lap) s = .next t ∧ regBit t Reg.ERR_CAUSE 5 = true ∧
          t.repair.slow = s.repair.slow ++ [(scrubNum k, i.val)]) ∧
      ((scrubNum k, i.val) ∈ s.repair.slow → exec (.lapSlow k i lap) s = .next s)))

/-- The start-up steps up to REGIONS (R454, R457 to R460, R515, R525 to R527, R531 to R534, R546): a step begins only when the one before
it is complete and the module neither waits nor has failed; it completes into the next step, waiting before it where SUPERVISED or STOP_AT
asks, or fails with its code and detail, which RETRY takes up again; CLOCKS ends in thermal hold after a trip not cleared; FUSES goes on to
REGIONS on the fast path; REPAIR keeps nothing when it fails.
A command that finds nothing to act on leaves the state as it is (the model's choice, log 1).
It rests on the model's own choices or readings of logs 62, 63 and 65. -/
def Obligations.EarlyStartUpSteps : Prop :=
  ∀ s : State,
    let finished (t : State) (k n : Nat) : Prop := t.boot.done = n ∧ t.boot.begun = n ∧ regFld t Reg.BOOT_STEP 0 4 = k ∧
      bootState t = (if waitsBefore t n then 1 else 0) ∧ (waitsBefore t n = true → regBit t Reg.GLB_CAUSE 0 = true)
    let failed (t : State) (k code : Nat) : Prop := t.boot.done = k ∧ regFld t Reg.BOOT_STEP 0 4 = k ∧ bootState t = 2 ∧
      regFld t Reg.BOOT_STEP 16 8 = code ∧ regBit t Reg.GLB_CAUSE 0 = true
    let detail (t : State) (d : Nat) : Prop := regWord t Reg.BOOT_FAIL = BitVec.ofNat 32 d
    (s.pins.startDue = true →
      (∀ v1 v2 sup adr, 400 ≤ v1 → v1 ≤ 600 → 400 ≤ v2 → v2 ≤ 600 → ∃ t, exec (.power v1 v2 true none sup adr) s = .next t ∧ finished t 0 1 ∧
        t.pins.coreUp = true ∧ t.pins.pwrGood = true ∧ t.pins.startDue = false ∧ t.pins.supervised = sup ∧ t.pins.smbAddr = adr ∧
        t.items = {} ∧ t.mem = [] ∧
        regWord t Reg.GLB_POWERON = (if s.pins.warm then regWord s Reg.GLB_POWERON else regWord s Reg.GLB_POWERON + 1)) ∧
      (∀ v1 v2 ok r sup adr, (v1 < 400 ∨ v2 < 400) → ∃ t, exec (.power v1 v2 ok r sup adr) s = .next t ∧ failed t 0 0x01 ∧
        detail t (min v1 v2 % 2 ^ 24) ∧ t.pins.coreUp = false) ∧
      (∀ v1 v2 r sup adr, 400 ≤ v1 → v1 ≤ 600 → 400 ≤ v2 → v2 ≤ 600 → ∃ t, exec (.power v1 v2 true (some r) sup adr) s = .next t ∧
        failed t 0 0x02 ∧ detail t r.toNat ∧ t.pins.coreUp = false) ∧
      (∀ v1 v2 ok r sup adr, 400 ≤ v1 → 400 ≤ v2 → (600 < v1 ∨ 600 < v2 ∨ ok = false) → ∃ t, exec (.power v1 v2 ok r sup adr) s = .next t ∧
        failed t 0 0x01 ∧ detail t (max v1 v2 % 2 ^ 24) ∧ t.pins.coreUp = false)) ∧
    (s.pins.startDue = false → retriesPower s = true → ∀ v1 v2 sup adr, 400 ≤ v1 → v1 ≤ 600 → 400 ≤ v2 → v2 ≤ 600 →
      ∃ t, exec (.power v1 v2 true none sup adr) s = .next t ∧ finished t 0 1 ∧ t.pins.coreUp = true ∧ t.pins.pwrGood = true) ∧
    (s.pins.startDue = false → retriesPower s = false → ∀ v1 v2 ok r sup adr, exec (.power v1 v2 ok r sup adr) s = .next s) ∧
    (canBegin s 1 = true →
      (thermalHold s = false → ∃ t, exec (.clocks true true true none) s = .next t ∧ finished t 1 2 ∧ t.aclkMhz = fusedMhz s) ∧
      (thermalHold s = true → ∃ t, exec (.clocks true true true none) s = .next t ∧ t.boot.done = 2 ∧ bootState t = 4 ∧
        regBit t Reg.THM_STATUS 16 = true ∧ regBit t Reg.GLB_CAUSE 0 = true) ∧
      (∀ b c p, ∃ t, exec (.clocks false b c p) s = .next t ∧ failed t 1 0x11 ∧ detail t 0) ∧
      (∀ p, ∃ t, exec (.clocks true true true (some p)) s = .next t ∧ failed t 1 0x10 ∧ detail t p.toNat)) ∧
    (∀ a b c p, canBegin s 1 = false → exec (.clocks a b c p) s = .next s) ∧
    (canBegin s 2 = true →
      let b := beginStep s 2
      let k := preferredSlot b
      (∀ o r, ∃ t, exec (.image (some o) r) s = .next t ∧ failed t 2 0x21 ∧ detail t (o.toNat % 2 ^ 24)) ∧
      (∃ t, exec (.image none false) s = .next t ∧ failed t 2 0x26 ∧ detail t 0) ∧
      (slotStatus b k = 1 → ∃ t, exec (.image none true) s = .next t ∧
        t = completeStep (takeImage (showSlot (showSlot b k 1) (1 - k) 0) k) 2 ∧ finished t 2 3) ∧
      (slotStatus b k ≠ 1 → slotStatus b (1 - k) = 1 → ∃ t, exec (.image none true) s = .next t ∧
        t = completeStep (takeImage (showSlot (showSlot b k (slotStatus b k)) (1 - k) 1) (1 - k)) 2 ∧ finished t 2 3) ∧
      (slotStatus b k ≠ 1 → slotStatus b (1 - k) ≠ 1 → ∃ t, exec (.image none true) s = .next t ∧ failed t 2 (statusCode (slotStatus b k)) ∧
        t.boot.image = s.boot.image)) ∧
    (canBegin s 3 = true →
      (∀ dx rz, fastPath s = false → ∃ t, exec (.fuses dx rz true true) s = .next t ∧ finished t 3 4 ∧ t.repair.dxFuse = fuseRecords dx ∧
        t.repair.rzFuse = fuseRecords rz) ∧
      (∀ dx rz, fastPath s = true → ∃ t b, exec (.fuses dx rz true true) s = .next t ∧
        b = beginStep { s with repair := { s.repair with dxFuse := fuseRecords dx, rzFuse := fuseRecords rz } } 3 ∧
        t = completeStep (measureRepair (applyMerged b)) 3) ∧
      (∀ dx rz ok, ∃ t, exec (.fuses dx rz false ok) s = .next t ∧ failed t 3 0x30 ∧ detail t 0)) ∧
    (∀ bad, canBegin s 4 = true → (∃ t, exec (.bondTest true bad) s = .next t ∧ finished t 4 5 ∧ t.repair.tests = s.repair.tests ++ bad) ∧
      ∃ t, exec (.bondTest false bad) s = .next t ∧ failed t 4 0x40) ∧
    (∀ bad, canBegin s 5 = true → (∃ t, exec (.sramTest true bad) s = .next t ∧ finished t 5 6 ∧ t.repair.tests = s.repair.tests ++ bad) ∧
      ∃ t, exec (.sramTest false bad) s = .next t ∧ failed t 5 0x50) ∧
    (∀ bad, canBegin s 6 = true → (∃ t, exec (.logicTest true bad) s = .next t ∧ finished t 6 7 ∧ t.repair.tests = s.repair.tests ++ bad) ∧
      ∃ t, exec (.logicTest false bad) s = .next t ∧ failed t 6 0x60) ∧
    (canBegin s 7 = true →
      let m := (mergeParts s).1.repair.merged
      (mergeFailure m = none → ∃ t, exec (.repair none) s = .next t ∧ finished t 7 8 ∧ t.boot.stbyMerged = true) ∧
      (∀ c d, mergeFailure m = some (c, d) → ∃ t, exec (.repair none) s = .next t ∧ failed t 7 c ∧ t.repair = s.repair) ∧
      (∀ x, ∃ t, exec (.repair (some x)) s = .next t ∧ failed t 7 0x72 ∧ detail t x.toNat ∧ t.repair = s.repair)) ∧
    (∀ v, s.pins.stby = true →
      let running : State := showStep s (regFld s Reg.BOOT_STEP 0 4) 0
      (bootState s = 1 → exec (.go v) s = .next running ∧ bootState running = 0) ∧
      (bootState s = 2 → exec (.retry v) s = .next running ∧ bootState running = 0 ∧ running.boot = s.boot) ∧
      (bootState s ≠ 1 → bootState s ≠ 2 → exec (.go v) s = .next s ∧ exec (.retry v) s = .next s))

/-- The start-up steps from REGIONS on (R286, R287, R326, R347, R398, R417, R482, R531, R533): each completes where it finds what it needs
and fails with its code where fewer than 24 regions, 6 controllers, FAR_MIN far ports or FAB_MIN fabric ports serve; JOIN waits as a worker
for its identifier and routes; LOAD leaves the hold window and the banks zero; READY shows READY and raises the boot cause.
A command that finds nothing to act on leaves the state as it is (the model's choice, log 1).
It rests on the model's own choices or readings of logs 66 and 67. -/
def Obligations.LateStartUpSteps : Prop :=
  ∀ s : State,
    let failed (t : State) (k code n : Nat) : Prop := t.boot.done = k ∧ bootState t = 2 ∧ regFld t Reg.BOOT_STEP 0 4 = k ∧
      regFld t Reg.BOOT_STEP 16 8 = code ∧ regWord t Reg.BOOT_FAIL = BitVec.ofNat 32 n ∧ regBit t Reg.GLB_CAUSE 0 = true
    let ends (t : State) (k code need n : Nat) : Prop :=
      (need ≤ n ∧ t.boot.done = k + 1 ∧ bootState t = (if waitsBefore t (k + 1) then 1 else 0)) ∨ (n < need ∧ failed t k code n)
    (∀ l m, canBegin s 8 = true → ∃ t, exec (.regions l m) s = .next t ∧
      ends t 8 0x80 24 ((List.range 50).filter (fun p => decide (regionState t p = rgOn) || decide (regionState t p = rgCapped))).length) ∧
    (∀ l m, canBegin s 8 = false → exec (.regions l m) s = .next s) ∧
    (∀ tr, canBegin s 9 = true → ∃ t, exec (.nearMem tr) s = .next t ∧ ends t 9 0x90 6 (regFld t Reg.NEAR_STATUS 0 4) ∧
      (∀ x, x ∈ t.mem → holdBase ≤ x.1) ∧
      regFld t Reg.NEAR_STATUS 0 4 = ((List.range 12).filter (fun c => decide (ctlState t c = 2))).length) ∧
    (∀ tr, canBegin s 9 = false → exec (.nearMem tr) s = .next s) ∧
    (∀ fs, canBegin s 10 = true → ∃ t, exec (.farMem fs) s = .next t ∧
      ends t 10 0xA0 ((s.boot.image.map (·.farMin)).getD 0) ((List.range 12).filter (portServes t)).length ∧ t.pins.fmPerst = true) ∧
    (∀ fs, canBegin s 10 = false → exec (.farMem fs) s = .next s) ∧
    (∀ tr, canBegin s 11 = true → ∃ t, exec (.fabric tr) s = .next t ∧
      ends t 11 0xB0 ((s.boot.image.map (·.fabMin)).getD 0) ((List.range 16).filter (portUsable t)).length) ∧
    (∀ tr, canBegin s 11 = false → exec (.fabric tr) s = .next s) ∧
    (canBegin s 12 = true → joinState s ≠ 1 →
      exec .join s = .next (startJoin (beginStep s 12)) ∧
      (regBit s Reg.FAB_CFG 0 = false → isManager s = false → (isAssigned s = false ∨ s.fab.routed = false) → ∃ t, exec .join s = .next t ∧
        joinState t = 1 ∧ t.boot.begun = 13 ∧ t.boot.done = 12 ∧ bootState t = 0 ∧ t.outbox = s.outbox ∧ t.fab = s.fab) ∧
      (regBit s Reg.FAB_CFG 0 = false → isManager s = false → isAssigned s = true → s.fab.routed = true → ∃ t, exec .join s = .next t ∧
        joinState t = 2 ∧ t.boot.done = 13)) ∧
    ((canBegin s 12 = false ∨ joinState s = 1) → exec .join s = .next s) ∧
    (canBegin s 13 = true →
      (∃ t, exec (.load none) s = .next t ∧ t.boot.done = 14 ∧ bootState t = (if waitsBefore t 14 then 1 else 0) ∧
        (∀ a, holdBase ≤ a → a < pbBase + 48 * pbSize → readByte t a = 0)) ∧
      (∀ x, ∃ t, exec (.load (some x)) s = .next t ∧ failed t 13 0xD0 x.toNat ∧ t.mem = s.mem)) ∧
    (∀ x, canBegin s 13 = false → exec (.load x) s = .next s) ∧
    (canBegin s 14 = true → ∃ t, exec .ready s = .next t ∧ t.boot.done = 15 ∧ bootState t = 3 ∧ regFld t Reg.BOOT_STEP 0 4 = 14 ∧
      regBit t Reg.GLB_CAUSE 0 = true ∧ t.items = s.items ∧ t.mem = s.mem) ∧
    (canBegin s 14 = false → exec .ready s = .next s)

/-- Power delivery (R29, R376, R476 to R489, R491 to R497, R593): the first, second and third failed VDD_LOGIC phase of a region count,
cap and fence it; the cap pause follows the current, an idle array taking a pause that begins
unless the ramp floor holds its slots; a region is staged in eight steps and accepts work once its bank is zero; a tick of
the governor takes the mean of four samples, and two samples in a row outside 38 to 62 V drop the rails; the mode moves as PWR_CTRL.EFF
asks, once issue has stopped, and VDD_LOGIC with it; DEEP begins only with no item, and deep idle loses the hold window and the banks; WAKE brings the regions back; a device fault is
logged and drops the rails.
A command that finds nothing to act on leaves the state as it is (the model's choice, log 1).
It rests on the model's own choices or readings of logs 35, 41, 43, 48 and 77. -/
def Obligations.PowerCommands : Prop :=
  ∀ s : State,
    (s.pins.coreUp = false → ∀ ph p a, exec (.phaseFail ph) s = .next s ∧ exec (.currentSample p a) s = .next s) ∧
    (s.pins.coreUp = true →
      (∀ (p : Fin 50) (k : Fin 8), regionAlive s p = true → regBit s (Reg.PWR_REGION p) (4 + k) = false →
        (failCount s p = 0 → ∃ t, exec (.phaseFail (.logic p k)) s = .next t ∧ regBit t (Reg.PWR_REGION p) (4 + k) = true ∧
          regBit t Reg.PWR_CAUSE 0 = true ∧ regionState t p = regionState s p ∧ regBit t Reg.ERR_CAUSE 3 = true ∧ t.items = s.items) ∧
        (failCount s p = 1 → regionState s p = rgOn → ∃ t, exec (.phaseFail (.logic p k)) s = .next t ∧ regionState t p = rgCapped ∧
          regBit t Reg.PWR_CAUSE 2 = true ∧ t.items = s.items) ∧
        (failCount s p = 2 → ∃ t, exec (.phaseFail (.logic p k)) s = .next t ∧ regionState t p = rgFenced ∧ regBit t Reg.PWR_CAUSE 1 = true ∧
          (eng t p).fenced = true ∧ ∀ i, i < 4 → (arr t (4 * p + i)).fenced = true)) ∧
      (∀ (i : Fin 64) (k : Fin 4), (lookD s.power.sliceMemFail i.val 0).testBit k.val = false →
        ∃ t, exec (.phaseFail (.sliceMem i k)) s = .next t ∧ regBit t Reg.PWR_CAUSE 0 = true ∧
          look t.power.sliceMemFail i.val = some (lookD s.power.sliceMemFail i.val 0 + 2 ^ k.val)) ∧
      (∀ (p : Fin 50) a, ∃ t, exec (.currentSample p a) s = .next t ∧ look t.power.current p.val = some a ∧ t.items = s.items ∧ t.mem = s.mem ∧
        (regionState s p = rgCapped → 240 < a →
          regFld t (Reg.PWR_REGION p) 16 4 = min 15 (regFld s (Reg.PWR_REGION p) 16 4 + 1) ∧
          (pauseWanted s p = 0 → ∀ i, i < 4 → (arr s (4 * p + i)).streaming = false → (arr s (4 * p + i)).fenced = false →
            regBit s (Reg.TA_ID (4 * p + i)) 16 = true →
            (if (arr s (4 * p + i)).idleHold = .floor then arr t (4 * p + i) = arr s (4 * p + i) ∧ regBit t (Reg.TA_STATUS (4 * p + i)) 5 = true
             else (arr t (4 * p + i)).pause = 1 ∧ (arr t (4 * p + i)).idleHold = .pause))) ∧
        (regionState s p = rgCapped → a < 216 → regFld t (Reg.PWR_REGION p) 16 4 = regFld s (Reg.PWR_REGION p) 16 4 - 1) ∧
        ((regionState s p ≠ rgCapped ∨ (216 ≤ a ∧ a ≤ 240)) → t = { s with power := t.power })) ∧
      (∀ (p : Fin 50) l, nextStaging s = some (p, l) → s.power.deep = .none → ∃ t, exec (.staging p 0 0 false) s = .next t ∧
        regionState t p = rgStaging ∧ t.power.staging = some ⟨p, 0, false, l⟩ ∧
        t.power.toStage = s.power.toStage.filter (fun x => decide (x.1 ≠ p)))) ∧
    (∀ p x, nextStaging s = some (p, x) → ∀ q, q ≠ p → ∀ l m n, exec (.staging q l m n) s = .next s) ∧
    (∀ x, s.power.staging = some x →
      (x.steps < 7 → exec (.stagingStep x.region) s = .next { s with power := { s.power with staging := some { x with steps := x.steps + 1 } } }) ∧
      (x.steps = 7 → ∃ t, exec (.stagingStep x.region) s = .next t ∧ t.power.staging = none ∧
        regionState t x.region = (if 2 ≤ failCount s x.region then rgCapped else rgOn) ∧
        ∀ r, x.logical = some r → r.val ∈ t.power.zeroing ∧ regFld t (Reg.TE_ID x.region) 8 8 = 0xFF ∧
          regBit t (Reg.TE_ID x.region) 16 = false)) ∧
    (∀ r : Fin 48, r.val ∈ s.power.zeroing → ∃ t, exec (.bankZeroingComplete r) s = .next t ∧ r.val ∉ t.power.zeroing ∧
      regFld t (Reg.TE_ID (regFld s (Reg.REP_REGION r) 0 6)) 8 8 = r ∧ regBit t (Reg.TE_ID (regFld s (Reg.REP_REGION r) 0 6)) 16 = true ∧
      ∀ a, pbBase + r * pbSize ≤ a → a < pbBase + (r + 1) * pbSize → readByte t a = 0) ∧
    (∀ r : Fin 48, r.val ∉ s.power.zeroing → exec (.bankZeroingComplete r) s = .next s) ∧
    (∀ v1 v2 w, s.pins.coreUp = true → 380 ≤ v1 → v1 ≤ 620 → 380 ≤ v2 → v2 ≤ 620 → ∃ t, exec (.governorTick v1 v2 w) s = .next t ∧
      t.power.samples = (w :: s.power.samples).take 4 ∧ t.pins.outSamples = 0 ∧
      regFld t Reg.PWR_INPUT 0 12 = measuredPower t / 100 % 2 ^ 12 ∧ (v1 = v2 → regFld t Reg.PWR_INPUT 12 10 = v1)) ∧
    (∀ v1 v2 w, s.pins.coreUp = true → v1 ≤ 800 → v2 ≤ 800 → bladeOut v1 = true → 1 ≤ s.pins.outSamples →
      ∃ t, exec (.governorTick v1 v2 w) s = .next t ∧ t.pins.coreUp = false ∧ t.pins.railsFault = true ∧ t.pins.inputDue = true) ∧
    (∀ v1 v2 w, s.pins.coreUp = false → s.pins.inputDue = true → 400 ≤ v1 → v1 ≤ 600 → 400 ≤ v2 → v2 ≤ 600 →
      exec (.governorTick v1 v2 w) s = .next { s with pins := { s.pins with outSamples := 0, inputDue := false, startDue := true } }) ∧
    (s.power.phaseWait = true → ∃ t, exec .rampPhaseEnd s = .next t ∧ t.power.phaseWait = false ∧
      (s.power.held = [] → (∀ x ∈ s.engines, x.2.launchQ = []) → t = { s with power := { s.power with phaseWait := false } })) ∧
    (s.power.phaseWait = false → exec .rampPhaseEnd s = .next s) ∧
    (∀ v, 9 ≤ s.boot.done → s.power.move = none → s.power.staging = none → s.power.deep = .none →
      (v.getLsbD 0 ≠ effMode s → ∃ t, exec (.effWrite v) s = .next t ∧ t.power.move = some (v.getLsbD 0) ∧ regFld t Reg.PWR_STATUS 0 2 = 3 ∧
        regFld t Reg.PWR_CTRL 0 3 = fld v 0 3) ∧
      (v.getLsbD 0 = effMode s → ∃ t, exec (.effWrite v) s = .next t ∧ t = { s with regs := t.regs } ∧ regFld t Reg.PWR_CTRL 0 3 = fld v 0 3)) ∧
    (∀ e, s.power.move = some e → issueStopped s = true → regBit s Reg.PWR_CTRL 0 = e → ∃ t, exec .modeMoveComplete s = .next t ∧
      t.power.move = none ∧ t.power.paused = [] ∧ t.power.vdd = vddPoint (if e then 1600 else s.aclkMhz) ∧ effMode t = e ∧
      regBit t Reg.PWR_CAUSE 5 = true ∧
      ∀ n, s.power.paused = [n] → (arr s n).fenced = false → (arr s n).saved = [] → (arr t n).halted = false) ∧
    (∀ e, s.power.move = some e → issueStopped s = false → exec .modeMoveComplete s = .next s) ∧
    (s.power.move = none → exec .modeMoveComplete s = .next s) ∧
    (∀ v, 2 ≤ s.boot.done →
      (mayDeep s = true → v.getLsbD 1 = false → ∃ t, exec (.deep v) s = .next t ∧ t.power.deep = .entering ∧ t.sc.lines = [] ∧
        t.pins.fmPerst = false ∧ isAssigned t = false) ∧
      (mayDeep s = false → v.getLsbD 1 = false → ∃ t, exec (.deep v) s = .next t ∧ regBit t Reg.PWR_CAUSE 6 = true ∧ t.power = s.power) ∧
      (s.power.deep = .deep → v.getLsbD 0 = false → ∃ t, exec (.wake v) s = .next t ∧ t.power.deep = .resuming ∧ t.pins.fmPerst = true ∧
        joinState t = 1) ∧
      (s.power.deep = .entering → v.getLsbD 0 = false → exec (.wake v) s = .next { s with power := { s.power with wakePend := true } }) ∧
      (s.power.deep = .none → v.getLsbD 0 = false → exec (.wake v) s = .next s)) ∧
    (s.power.deep = .entering → moversEmpty s = true → portsEmpty s = true → ∃ t, exec .deepIdleEntered s = .next t ∧ (∀ x, x ∈ t.mem → x.1 < holdBase) ∧
      t.sc.lines = [] ∧ (s.power.wakePend = false → t.power.deep = .deep ∧ regFld t Reg.PWR_STATUS 0 2 = 2) ∧
      (s.power.wakePend = true → t.power.deep = .resuming)) ∧
    (s.power.deep = .resuming → s.power.toStage = [] → s.power.staging = none → s.power.zeroing = [] → joinState s = 2 →
      ∃ t, exec .wakeDone s = .next t ∧ t.power.deep = .none ∧ regBit t Reg.PWR_CAUSE 7 = true ∧
        (regBit s Reg.PWR_CTRL 0 = false → regFld t Reg.PWR_STATUS 0 2 = 0)) ∧
    (let fault (t : State) (cause : Byte) : Prop := t.pins.coreUp = false ∧ t.pins.railsFault = true ∧ t.items = {} ∧ t.mem = [] ∧
        t.evlog.getLast?.map (fun r => (r.cls, r.code)) = some (9#8, cause)
     (s.pins.coreUp = true → (∀ c, ∃ t, exec (.deviceFault (.named c)) s = .next t ∧ fault t c) ∧
        (∀ loc, ∃ t, exec (.deviceFault (.sram loc)) s = .next t ∧ fault t 3#8) ∧ (∃ t, exec (.pllLossOfLock .aclk) s = .next t ∧ fault t 9#8)) ∧
      (s.pins.coreUp = false → ∀ c, exec (.deviceFault c) s = .next s) ∧
      (∀ c : Fin 12, (ctlState s c = 2 ∨ ctlState s c = 3) → ∃ t, exec (.pllLossOfLock (.near c)) s = .next t ∧ c.val ∈ t.near.failing ∧
        t.mem = s.mem) ∧
      (∀ q : Fin 16, (portState s q = 2 ∨ portTrained s q = true) → ∃ t, exec (.pllLossOfLock (.recovered q)) s = .next t ∧ t.mem = s.mem ∧
        portState t q = (if portState s q = 2 ∨ regBit s (Reg.FAB_FI_CTRL q) 2 = true then 1 else 2)))


/-- Thermal protection (R506 to R516, R520, R540): a sample stores each reading of a sensor that works; a temperature at a trip limit
records the trip, drops the rails and counts it in the row; without a trip a die at its warn limit warns and a region at its pause limit
pauses one step more; an AUTO trip restarts the module; CLEAR_HOLD clears thermal hold and the row, and a start that waits in hold goes
on; 600 s at READY clear the row.
A command that finds nothing to act on leaves the state as it is (the model's choice, log 1).
It rests on the model's own choices or readings of logs 28, 39 and 43. -/
def Obligations.ThermalCommands : Prop :=
  ∀ s : State,
    let cleared (t : State) : Prop := regBit t Reg.THM_STATUS 16 = false ∧ t.evlog.getLast?.map (fun r => r.cls) = some 6#8
    (∀ r, s.pins.coreUp = false → exec (.thermalSample r) s = .next s) ∧
    (∀ r, s.pins.coreUp = true →
      let u := takeSample s r
      (∀ src x, tripBy u = some (src, x) → ∃ t, exec (.thermalSample r) s = .next t ∧ t.pins.coreUp = false ∧ t.pins.railsFault = true ∧
        t.thermal.row = s.thermal.row + 1 ∧ t.thermal.tripped = true ∧ regFld t Reg.THM_TRIP0 0 16 = tempFld x ∧
        regFld t Reg.THM_TRIP0 16 9 = src ∧ regFld t Reg.THM_TRIP0 25 3 = min 7 (s.thermal.row + 1) ∧
        t.thermal.autoDue = (imageAuto s && decide (s.thermal.row + 1 ≤ 3))) ∧
      (tripBy u = none → ∃ t, exec (.thermalSample r) s = .next t ∧ t.pins = s.pins ∧ t.items = s.items ∧
        (∀ n x, n < 384 → r.sensors[n]? = some (some x) → -320 ≤ x → x ≤ 2400 → sensorFailed s n = false →
          sensorTemp t n = some x) ∧
        ((∃ y, y ∈ dxTemps u ∧ limit u Reg.THM_LIM_DX 0 ≤ y.2) → regBit t Reg.THM_CAUSE 0 = true) ∧
        ((∃ y, y ∈ rzTemps u ∧ limit u Reg.THM_LIM_RZ 0 ≤ y.2) → regBit t Reg.THM_CAUSE 1 = true) ∧
        (∀ p, p < 50 → limit u Reg.THM_LIM_DX 8 ≤ regionTemp u p →
          regFld t (Reg.THM_REGION p) 0 4 = min 15 (regFld u (Reg.THM_REGION p) 0 4 + 1)))) ∧
    (s.thermal.autoDue = true → s.pins.coreUp = false → s.pins.startDue = false → ∃ t, exec .autoRestart s = .next t ∧ cleared t ∧
      t.pins.startDue = true ∧ t.boot.afterTrip = true ∧ t.thermal.autoDue = false) ∧
    (s.thermal.autoDue = false → exec .autoRestart s = .next s) ∧
    (bootState s = 3 → exec .tripCountReset s = .next { s with thermal := { s.thermal with row := 0 } }) ∧
    (bootState s ≠ 3 → exec .tripCountReset s = .next s) ∧
    (∀ v, 2 ≤ s.boot.done →
      (regBit s Reg.THM_STATUS 16 = true → ∃ t, exec (.clearHold v) s = .next t ∧ cleared t ∧ t.thermal.row = 0 ∧ t.thermal.autoDue = false ∧
        (bootState s = 4 → bootState t = (if waitsBefore t 2 then 1 else 0)) ∧ (bootState s ≠ 4 → bootState t = bootState s)) ∧
      (regBit s Reg.THM_STATUS 16 = false → exec (.clearHold v) s = .next s))

/-- Flash, tokens, measurements and attestation (R537, R538, R548, R551 to R558, R562 to R565): a flash command acts on a sector that the
host may write and while no operation runs; an operation that completes leaves the buffer or erased bytes in its sector; a nonce is fresh
and is consumed by a token; the check of a token gives its result and a security event, and only result 0 unlocks; EXTEND6 and EXTEND7
extend M6 and M7; the relay waits for the device asked; SPDM requests are answered on the transport they came by.
A command that finds nothing to act on leaves the state as it is (the model's choice, log 1).
It rests on the model's own choices or readings of logs 29, 30, 52, 53 and 57. -/
def Obligations.SecurityAndFlashCommands : Prop :=
  ∀ s : State,
    let sector := regFld s Reg.BOOT_FL_OFF 12 15 * 4096
    let starts (t : State) (d : Option (List Byte)) : Prop := t.boot = { s.boot with flashOp := some ⟨sector, d⟩ } ∧
      regBit t Reg.BOOT_FL_STAT 0 = true ∧ t = { s with regs := t.regs, boot := t.boot }
    (∀ v, 2 ≤ s.boot.done →
      (v.getLsbD 1 = false → s.boot.flashOp = none → flashAllowed s sector false = true →
        ∃ t, exec (.prog v) s = .next t ∧ starts t (some (regBytes s (Reg.BOOT_FL_BUF 0) 1024))) ∧
      (v.getLsbD 1 = false → (s.boot.flashOp ≠ none ∨ flashAllowed s sector false = false) →
        exec (.prog v) s = .next (setRegBit s Reg.BOOT_FL_STAT 1)) ∧
      (v.getLsbD 0 = false → s.boot.flashOp = none → flashAllowed s sector true = true → ∃ t, exec (.erase v) s = .next t ∧ starts t none) ∧
      (v.getLsbD 0 = false → (s.boot.flashOp ≠ none ∨ flashAllowed s sector true = false) →
        exec (.erase v) s = .next (setRegBit s Reg.BOOT_FL_STAT 1))) ∧
    (∀ op, s.boot.flashOp = some op →
      (∃ t, exec (.flashOpComplete true) s = .next t ∧ t.boot.flashOp = none ∧ regBit t Reg.BOOT_FL_STAT 0 = false ∧
        (∀ a, a < op.sector ∨ op.sector + 4096 ≤ a → (op.data.getD (List.replicate 4096 0xFF#8)).length = 4096 →
          lookD t.boot.flash a 0xFF#8 = lookD s.boot.flash a 0xFF#8) ∧
        (∀ i, i < 4096 → (op.data.getD (List.replicate 4096 0xFF#8)).length = 4096 →
          lookD t.boot.flash (op.sector + i) 0xFF#8 = (op.data.getD (List.replicate 4096 0xFF#8)).getD i 0)) ∧
      (∃ t, exec (.flashOpComplete false) s = .next t ∧ t.boot.flashOp = none ∧ regBit t Reg.BOOT_FL_STAT 2 = true ∧
        regBit t Reg.BOOT_FL_STAT 0 = false)) ∧
    (s.boot.flashOp = none → ∀ ok, exec (.flashOpComplete ok) s = .next s) ∧
    (∀ v, 2 ≤ s.boot.done →
      let only (i : Nat) : Prop := ∀ j, j < 4 → j ≠ i → v.getLsbD j = false
      (only 0 → s.boot.token = none → ∃ t, exec (.nonce v) s = .next t ∧ regBit t Reg.SEC_STAT 2 = true ∧ t.fresh = s.fresh + 1 ∧
        regBytes t (Reg.SEC_NONCE 0) 8 = tab 32 (fun i => (Config.entropy s.fresh).getD i 0) ∧ t.boot = s.boot) ∧
      (only 0 → s.boot.token ≠ none → exec (.nonce v) s = .next { s with boot := { s.boot with nonceDue := true } }) ∧
      (only 1 → s.boot.token = none → ∃ t x, exec (.tokenSubmit v) s = .next t ∧ t.boot = { s.boot with token := some x } ∧
        x.bytes = (regBytes s (Reg.SEC_TOKEN 0) 2700).take 10797 ∧
        x.nonce = (if regBit s Reg.SEC_STAT 2 then some (regBytes s (Reg.SEC_NONCE 0) 8) else none) ∧ regBit t Reg.SEC_STAT 2 = false) ∧
      (only 1 → s.boot.token ≠ none → ∃ t, exec (.tokenSubmit v) s = .next t ∧ t.boot = s.boot ∧ regFld t Reg.SEC_STAT 4 4 = 8) ∧
      (only 2 → ∃ t, exec (.extend6 v) s = .next t ∧
        measurement t 6 = digest (measurement s 6 ++ digest (regBytes s (Reg.SEC_XDATA 0) 16)) ∧ measurement t 7 = measurement s 7) ∧
      (only 3 → ∃ t, exec (.extend7 v) s = .next t ∧
        measurement t 7 = digest (measurement s 7 ++ digest (regBytes s (Reg.SEC_XDATA 0) 16)) ∧ measurement t 6 = measurement s 6)) ∧
    (∀ x, s.boot.token = some x →
      ∃ t, exec .tokenCheckComplete s = .next t ∧ t.boot.token = none ∧ regFld t Reg.SEC_STAT 4 4 = tokenResult s x ∧
        t.evlog.getLast?.map (fun r => (r.cls, r.code)) = some (8#8, BitVec.ofNat 8 (tokenResult s x)) ∧
        (tokenResult s x ≠ 0 → debugMode t = debugMode s ∧ regBit t Reg.SEC_STAT 1 = regBit s Reg.SEC_STAT 1 ∧
          regFld t Reg.SEC_STAT 8 11 = regFld s Reg.SEC_STAT 8 11) ∧
        (tokenResult s x = 0 → (tokKind x.bytes = 1 → debugMode t = true) ∧ (tokKind x.bytes = 2 → regBit t Reg.SEC_STAT 1 = true) ∧
          (tokKind x.bytes = 4 → slotRevoked t (tokSlot x.bytes) = true))) ∧
    (s.boot.token = none → exec .tokenCheckComplete s = .next s) ∧
    (∀ v, 2 ≤ s.boot.done →
      (relayState s ≠ 1 → ∃ t body, exec (.relaySend v) s = .next t ∧ relayState t = 1 ∧
        t.boot = { s.boot with relay := some ((regWord s Reg.SEC_RELAY_DST).extractLsb' 0 16) } ∧
        body = (regBytes s (Reg.SEC_RELAY_BUF 0) 1024).take (regFld s Reg.SEC_RELAY_DST 16 13) ∧
        t.outbox = s.outbox ++ [.spdmRequest ((regWord s Reg.SEC_RELAY_DST).extractLsb' 0 16) (BitVec.ofNat 16 s.fab.pseq) body]) ∧
      (relayState s = 1 → exec (.relaySend v) s = .next s)) ∧
    (∀ src body, (relayState s = 1 → s.boot.relay = some src → ∃ t, exec (.spdmResponse src body) s = .next t ∧ relayState t = 2 ∧
        t.boot = { s.boot with relay := none } ∧ regFld t Reg.SEC_RELAY_STAT 4 13 = min 4096 body.length ∧ t.outbox = s.outbox) ∧
      ((relayState s ≠ 1 ∨ s.boot.relay ≠ some src) → exec (.spdmResponse src body) s = .next s)) ∧
    (relayState s = 1 → ∃ t, exec .relayTimeout s = .next t ∧ relayState t = 3 ∧ t.boot = { s.boot with relay := none }) ∧
    (relayState s ≠ 1 → exec .relayTimeout s = .next s) ∧
    (∀ via, spdmOpen s via = true →
      let answers (x : SpdmAnswer) : State := { s with outbox := s.outbox ++ [.spdm via x] }
      exec (.getVersion via) s = .next (answers (.version 1 4)) ∧
      exec (.getCapabilities via) s = .next (answers (.capabilities true true true)) ∧
      exec (.negotiateAlgorithms via) s = .next (answers (.algorithms true true)) ∧
      (∀ c, exec (.spdmUnsupportedRequest via c) s = .next (answers (.unsupportedRequest c))) ∧
      (∀ nonce, ∃ sig, exec (.challenge via 0xFF nonce) s = .next { answers (.challengeAuth nonce sig) with fresh := s.fresh + 1 }) ∧
      (∀ (i : Byte) nonce, 1 ≤ i.toNat → i.toNat ≤ 8 →
        exec (.getMeasurements via i false nonce) s =
          .next (answers (.measurements [(i.toNat, measurement s (i.toNat - 1))] nonce none)) ∧
        ∃ sig, exec (.getMeasurements via i true nonce) s =
          .next { answers (.measurements [(i.toNat, measurement s (i.toNat - 1))] nonce (some sig)) with fresh := s.fresh + 1 })) ∧
    (∀ via, spdmOpen s via = false → exec (.getVersion via) s = .next s ∧ exec (.getCapabilities via) s = .next s ∧
      exec (.negotiateAlgorithms via) s = .next s)

/-- Training, retraining and the port's features (R35, R395 to R399, R404, R414, R429, R432 to R435, R438, R439): training that ends
gives the port the widths of its good lanes and the state of R396, or DOWN where a direction has no lane; a failed port trains again; RETRAIN
and EN act on the port; a lane that fails starts an in-service retrain on the remaining lanes, which keeps the link; a trained port that
loses its link trains again; while fault injection holds the generator training is refused with a conflict record; fault injection and
trace capture are enabled or refused with the status that R438 and R439 name, and a refusal of injection leaves one that is in force.
A command that finds nothing to act on leaves the state as it is (the model's choice, log 1).
It rests on the model's own choices or readings of logs 18, 35 and 36. -/
def Obligations.LinkTrainingCommands : Prop :=
  ∀ (s : State) (q : Fin 16),
    let conflict (t : State) : Prop := t.evlog.getLast?.map (fun r => r.cls) = some 2#8
    let refused (t : State) : Prop := portState t q = 1 ∧ (fport t q).refused = true ∧ regBit t (Reg.FAB_PORT_STAT q) 18 = true ∧ conflict t
    let quiet : Prop := ∀ h, (fport s q).hello = some h → helloIsolates s h = false
    let settled (t : State) (tx rx : Nat × Nat) : Prop := portState t q = (if tx.1 = 8 ∧ rx.1 = 8 then 3 else 4) ∧
      regFld t (Reg.FAB_PORT_STAT q) 4 4 = tx.1 ∧ regFld t (Reg.FAB_PORT_STAT q) 8 4 = rx.1 ∧
      regFld t (Reg.FAB_PORT_STAT q) 12 1 = tx.2 ∧ regFld t (Reg.FAB_PORT_STAT q) 13 1 = rx.2
    (∀ res : TrainResult, portState s q = 2 →
      let tx := widthOf s q (res.txGood &&& ~~~badLanes s q true)
      let rx := widthOf s q (res.rxGood &&& ~~~badLanes s q false)
      (1 ≤ tx.1 → 1 ≤ rx.1 → quiet → ∃ t, exec (.trainingComplete q res) s = .next t ∧ settled t tx rx ∧
        (usesSaved s q res = false → look t.boot.savedFab q.val = some ⟨res.serial, res.port, res.settings⟩) ∧
        (usesSaved s q res = true → t.boot = s.boot)) ∧
      ((tx.1 = 0 ∨ rx.1 = 0) → ∃ t, exec (.trainingComplete q res) s = .next t ∧ regFld t (Reg.FAB_PORT_STAT q) 0 14 = 1 ∧
        t.boot = s.boot)) ∧
    (∀ res, portState s q ≠ 2 → exec (.trainingComplete q res) s = .next s) ∧
    (portState s q = 1 → regBit s (Reg.FAB_PORT_CTRL q) 0 = true → (fport s q).refused = false →
      (regBit s (Reg.FAB_FI_CTRL q) 2 = false → ∃ t, exec (.trainingRetry q) s = .next t ∧ portState t q = 2 ∧ (fport t q).replay = [] ∧
        (fport t q).txSeq = 0 ∧ (fport t q).queue = (fport s q).queue) ∧
      (regBit s (Reg.FAB_FI_CTRL q) 2 = true → ∃ t, exec (.trainingRetry q) s = .next t ∧ refused t)) ∧
    ((portState s q ≠ 1 ∨ regBit s (Reg.FAB_PORT_CTRL q) 0 = false ∨ (fport s q).refused = true) → exec (.trainingRetry q) s = .next s) ∧
    (∀ v, 12 ≤ s.boot.begun →
      (v.getLsbD 0 = true → regBit s (Reg.FAB_FI_CTRL q) 2 = false → ∃ t, exec (.retrain q v) s = .next t ∧ portState t q = 2 ∧
        regBit t (Reg.FAB_PORT_CTRL q) 0 = true ∧ regFld t (Reg.FAB_PORT_CTRL q) 2 2 = fld v 2 2) ∧
      (v.getLsbD 0 = true → regBit s (Reg.FAB_FI_CTRL q) 2 = true → ∃ t, exec (.retrain q v) s = .next t ∧ refused t) ∧
      (v.getLsbD 0 = false → ∃ t, exec (.retrain q v) s = .next t ∧ portState t q = 0 ∧ regBit t (Reg.FAB_PORT_CTRL q) 0 = false)) ∧
    (∀ (tx : Bool) (lane : Fin 9),
      let good (p : FabPort) : Bool := (if tx then p.txGood else p.rxGood).getLsbD lane
      (portTrained s q = true → good (fport s q) = true → regBit s (Reg.FAB_FI_CTRL q) 2 = false →
        ∃ t, exec (.laneFail q tx lane) s = .next t ∧ t = { s with fab := t.fab } ∧ (fport t q).retraining = true ∧
          good (fport t q) = false ∧ (fport t q).replay = (fport s q).replay) ∧
      (portTrained s q = true → good (fport s q) = true → regBit s (Reg.FAB_FI_CTRL q) 2 = true →
        ∃ t, exec (.laneFail q tx lane) s = .next t ∧ refused t) ∧
      ((portTrained s q = false ∨ good (fport s q) = false) → exec (.laneFail q tx lane) s = .next s)) ∧
    ((fport s q).retraining = true →
      let tx := widthOf s q ((fport s q).txGood &&& ~~~badLanes s q true)
      let rx := widthOf s q ((fport s q).rxGood &&& ~~~badLanes s q false)
      (1 ≤ tx.1 → 1 ≤ rx.1 → quiet → ∃ t, exec (.inServiceRetrainComplete q true) s = .next t ∧ settled t tx rx ∧
        (fport t q).retraining = false ∧
        (regFld s (Reg.FAB_PORT_STAT q) 4 8 ≠ tx.1 + rx.1 * 16 → regBit t (Reg.FAB_PORT_STAT q) 16 = true)) ∧
      (∃ t, exec (.inServiceRetrainComplete q false) s = .next t ∧ portState t q = 1)) ∧
    ((fport s q).retraining = false → ∀ ok, exec (.inServiceRetrainComplete q ok) s = .next s) ∧
    (2 ≤ portState s q → ∃ t, exec (.portDown q) s = .next t ∧ (fport t q).live = false ∧ (fport t q).replay = [] ∧
      ((fport s q).live = true → regBit t (Reg.FAB_PORT_STAT q) 17 = true) ∧
      (portState s q = 2 → portState t q = 1) ∧
      (portTrained s q = true → regBit s (Reg.FAB_FI_CTRL q) 2 = false → portState t q = 2) ∧
      (portTrained s q = true → regBit s (Reg.FAB_FI_CTRL q) 2 = true → refused t)) ∧
    (portState s q < 2 → exec (.portDown q) s = .next s) ∧
    (∀ v, 12 ≤ s.boot.begun →
      let off (t : State) (n : Nat) : Prop := regBit t (Reg.FAB_FI_CTRL q) 2 = false ∧ regFld t (Reg.FAB_FI_STAT q) 0 2 = n
      let keeps (t : State) (n : Nat) : Prop := regFld t (Reg.FAB_FI_STAT q) 0 2 = n ∧
        regBit t (Reg.FAB_FI_CTRL q) 2 = regBit s (Reg.FAB_FI_CTRL q) 2 ∧
        (regBit s (Reg.FAB_FI_CTRL q) 2 = true → regFld t (Reg.FAB_FI_CTRL q) 0 2 = regFld s (Reg.FAB_FI_CTRL q) 0 2)
      (v.getLsbD 2 = false → ∃ t, exec (.fiEnWrite q v) s = .next t ∧ off t 0 ∧ ((fport s q).refused = true → portState t q = 2)) ∧
      (v.getLsbD 2 = true → regBit s Reg.SEC_STAT 1 = false → ∃ t, exec (.fiEnWrite q v) s = .next t ∧ keeps t 3) ∧
      (v.getLsbD 2 = true → regBit s Reg.SEC_STAT 1 = true → (portState s q = 2 ∨ (fport s q).retraining = true) →
        ∃ t, exec (.fiEnWrite q v) s = .next t ∧ keeps t 2 ∧ conflict t) ∧
      (v.getLsbD 2 = true → regBit s Reg.SEC_STAT 1 = true → portState s q ≠ 2 → (fport s q).retraining = false → fld v 0 2 = 3 →
        regBit s (Reg.FAB_TRACE_CTRL q) 0 = true → ∃ t, exec (.fiEnWrite q v) s = .next t ∧ keeps t 2 ∧ conflict t) ∧
      (v.getLsbD 2 = true → regBit s Reg.SEC_STAT 1 = true → portState s q ≠ 2 → (fport s q).retraining = false →
        (fld v 0 2 ≠ 3 ∨ regBit s (Reg.FAB_TRACE_CTRL q) 0 = false) → ∃ t, exec (.fiEnWrite q v) s = .next t ∧
          regBit t (Reg.FAB_FI_CTRL q) 2 = true ∧ regFld t (Reg.FAB_FI_STAT q) 0 2 = 1 ∧ (fport t q).gen = regWord s (Reg.FAB_FI_SEED q))) ∧
    (∀ v, 12 ≤ s.boot.begun →
      (debugMode s = false → ∃ t, exec (.traceEnWrite q v) s = .next t ∧ t = { s with regs := t.regs } ∧
        regBit t (Reg.FAB_TRACE_CTRL q) 0 = regBit s (Reg.FAB_TRACE_CTRL q) 0) ∧
      (debugMode s = true → v.getLsbD 0 = false → ∃ t, exec (.traceEnWrite q v) s = .next t ∧ regBit t (Reg.FAB_TRACE_CTRL q) 0 = false ∧
        regFld t (Reg.FAB_TRACE_STAT q) 0 2 = 0) ∧
      (debugMode s = true → v.getLsbD 0 = true → fiActive s q 3 = true → ∃ t, exec (.traceEnWrite q v) s = .next t ∧ conflict t ∧
        regBit t (Reg.FAB_TRACE_CTRL q) 0 = false ∧ regFld t (Reg.FAB_TRACE_STAT q) 0 2 = 2) ∧
      (debugMode s = true → v.getLsbD 0 = true → fiActive s q 3 = false → ∃ t, exec (.traceEnWrite q v) s = .next t ∧
        regBit t (Reg.FAB_TRACE_CTRL q) 0 = true ∧ regFld t (Reg.FAB_TRACE_STAT q) 0 2 = 1 ∧ regFld t (Reg.FAB_TRACE_STAT q) 2 9 = 0))

/-- Frames and packets (R400 to R410, R412, R430): a data frame whose link CRC fails is counted and discarded; the one expected is accepted
and advances SEQ, and one that holds a whole packet hands it to the router; any other is discarded; a control or idle frame gives its
acknowledgement and its credits; the replay timer sends every outstanding frame again; a due acknowledgement goes out in a frame of its
own; a held packet is sent when its timer ends; the router sends a packet by the first rule that applies, and counts what it cannot send;
a route entry with an uncorrectable error is invalid (R443).
A command that finds nothing to act on leaves the state as it is (the model's choice, log 1).
It rests on the model's own choices or readings of logs 34 and 36. -/
def Obligations.LinkFrameCommands : Prop :=
  ∀ (s : State) (q : Fin 16),
    let p := fport s q
    let counts (t : State) (off n : Nat) : Prop := counter t off = (counter s off + n) % 2 ^ 64
    (∀ f,
      (frameTaken s q 1 f = true → f.body.length = 64 * (frFld f 1 3 2 + 1) →
        (frameSound f = false → ∃ t, exec (.dataFrame q f) s = .next t ∧ counts t (Reg.FAB_CNT_CRCERR q) 1 ∧ fport t q = discardFrame p ∧
          t.fab.arrived = s.fab.arrived) ∧
        (frameSound f = true → frFld f 0 28 1 = 0 → frFld f 0 4 12 = p.rxSeq → ∃ t, exec (.dataFrame q f) s = .next t ∧
          (fport t q).rxSeq = (p.rxSeq + 1) % 4096 ∧ (fport t q).nakSent = false ∧ counts t (Reg.FAB_CNT_RXBYTES q) f.body.length ∧
          (frFld f 1 5 1 = 1 → frFld f 1 6 1 = 1 → frFld f 1 7 1 = 0 → (bytesPacket f.body).typ ≠ 6 →
            ∃ a, t.fab.arrived = s.fab.arrived ++ [a] ∧ a.port = q ∧ a.pkt = bytesPacket f.body ∧ a.ttl = frFld f 1 8 6) ∧
          (frFld f 1 7 1 = 1 → t.fab.arrived = s.fab.arrived)) ∧
        (frameSound f = true → frFld f 0 28 1 = 0 → frFld f 0 4 12 ≠ p.rxSeq → ∃ t, exec (.dataFrame q f) s = .next t ∧
          (fport t q).rxSeq = p.rxSeq ∧ (fport t q).nakSent = true ∧ t.fab.arrived = s.fab.arrived)) ∧
      ((frameTaken s q 1 f = false ∨ f.body.length ≠ 64 * (frFld f 1 3 2 + 1)) → exec (.dataFrame q f) s = .next s) ∧
      (frameTaken s q 2 f = true → frameSound f = true → exec (.linkControlFrame q f) s = .next (takeFields (traceFrame s q false f) q f)) ∧
      (frameTaken s q 3 f = true → frameSound f = true → exec (.idleFrame q f) s = .next (takeFields (traceFrame s q false f) q f)) ∧
      (∀ u, u = takeFields (traceFrame s q false f) q f → frFld f 0 28 1 = 0 → p.queue = [] → p.sending = none →
        (fport u q).replay = (dropAcked p (frFld f 0 16 12)).replay ∧ u.outbox = s.outbox) ∧
      (frameTaken s q 2 f = true → frameSound f = false → exec (.linkControlFrame q f) s = .next (traceFrame s q false f)) ∧
      (frameTaken s q 3 f = true → frameSound f = false → exec (.idleFrame q f) s = .next (traceFrame s q false f)) ∧
      (frameTaken s q 2 f = false → exec (.linkControlFrame q f) s = .next s) ∧
      (frameTaken s q 3 f = false → exec (.idleFrame q f) s = .next s)) ∧
    (portOpen s q = true → p.replay ≠ [] → ∃ t, exec (.replayTimeout q) s = .next t ∧ counts t (Reg.FAB_CNT_REPLAY q) 1 ∧
      (∃ l, t.outbox = s.outbox ++ p.replay.map (fun f => Output.port q f) ++ l) ∧
      (p.replays < 7 → (fport t q).replay = p.replay ∧ (fport t q).replays = p.replays + 1) ∧
      (7 ≤ p.replays → regBit s (Reg.FAB_FI_CTRL q) 2 = false → (fport t q).retraining = true)) ∧
    ((portOpen s q = false ∨ p.replay = []) → exec (.replayTimeout q) s = .next s) ∧
    (portOpen s q = true → p.due = true → ∃ t, exec (.linkControlSend q) s = .next t ∧ (fport t q).due = false ∧
      (fport t q).nakDue = false ∧ t.outbox = s.outbox ++ [.port q (portFrame p 2 0 0 []).1]) ∧
    ((portOpen s q = false ∨ p.due = false) → exec (.linkControlSend q) s = .next s) ∧
    (∀ r, p.held = some r → p.sending = none →
      exec (.reorderTimeout q) s = .next (pump (setFport s q (startSending { p with held := none } r)) q) ∧
      (portOpen s q = false → ∃ t, exec (.reorderTimeout q) s = .next t ∧ (fport t q).held = none ∧
        (fport t q).sending.map (fun x => x.rest) = some (packetBytes r.pkt))) ∧
    ((p.held = none ∨ p.sending ≠ none) → exec (.reorderTimeout q) s = .next s) ∧
    (∀ (src : Fin 17) (pkt : Packet) (ttl : BitVec 6) (loc : Word),
      (readsRoute s pkt = false → ∀ ecc, exec (.packetForward src pkt ⟨ttl, ecc⟩) s = exec (.packetForward src pkt ⟨ttl, .clean⟩) s) ∧
      (readsRoute s pkt = true → exec (.packetForward src pkt ⟨ttl, .corrected loc⟩) s =
        exec (.packetForward src pkt ⟨ttl, .clean⟩) (correctedError s .dxc 0 loc).2) ∧
      (readsRoute s pkt = true → (16 ≤ src.val ∨ ttl ≠ 0) → ∃ t, exec (.packetForward src pkt ⟨ttl, .uncorrectable loc⟩) s = .next t ∧
        counts t Reg.FAB_CNT_NOROUTE 1 ∧ routeIndex s pkt.dst.toNat ∈ t.fab.badRoutes ∧ regBit t Reg.ERR_CAUSE 1 = true)) ∧
    (∀ (src : Fin 17) (pkt : Packet) (ttl : BitVec 6),
      let inner := decide (src.val < 16)
      let left := if inner then ttl.toNat else 63
      (pkt.pathMode = true → exec (.packetForward src pkt ⟨ttl, .clean⟩) s = .next (forwardPath s src pkt left)) ∧
      (pkt.pathMode = true → inner = true → 15 ≤ pathHidx pkt → ∃ t, exec (.packetForward src pkt ⟨ttl, .clean⟩) s = .next t ∧
        counts t Reg.FAB_CNT_NOROUTE 1) ∧
      (pkt.pathMode = false → isAssigned s = false → ∃ t, exec (.packetForward src pkt ⟨ttl, .clean⟩) s = .next t ∧ counts t Reg.FAB_CNT_NOROUTE 1 ∧
        t.outbox = s.outbox) ∧
      (pkt.pathMode = false → isAssigned s = true → pkt.dst.toNat = ownId s → exec (.packetForward src pkt ⟨ttl, .clean⟩) s = .next s) ∧
      (pkt.pathMode = false → isAssigned s = true → pkt.dst.toNat ≠ ownId s →
        (inner = true → ttl = 0 → ∃ t, exec (.packetForward src pkt ⟨ttl, .clean⟩) s = .next t ∧ counts t Reg.FAB_CNT_TTLDROP 1 ∧ t.outbox = s.outbox) ∧
        ((inner = false ∨ ttl ≠ 0) →
          (routePort s (routeEntry s pkt.dst.toNat) = none → ∃ t, exec (.packetForward src pkt ⟨ttl, .clean⟩) s = .next t ∧
            counts t Reg.FAB_CNT_NOROUTE 1 ∧ t.outbox = s.outbox) ∧
          (∀ x, routePort s (routeEntry s pkt.dst.toNat) = some x → exec (.packetForward src pkt ⟨ttl, .clean⟩) s =
            .next (enqueuePacket (takeFrom s src pkt) x ⟨pkt, if inner then left - 1 else left⟩)))))

/-- A member of the hierarchy (R410 to R414, R416 to R418, R421 to R426, R433, R440, R441): a probe is answered along the reverse of its
path; an assignment is refused while another manager holds the device and else gives it its identifier; a route set of an equal or newer
generation is installed and acknowledged; heartbeats are answered; the loss of the manager keeps everything; LEFT ends what the departed
originated, and the identity of a device that it names; LEAVE waits for an idle device; a HELLO isolates the port or shows its neighbour.
A command that finds nothing to act on leaves the state as it is (the model's choice, log 1).
It rests on the model's own choices or readings of logs 26 and 37. -/
def Obligations.HierarchyMemberCommands : Prop :=
  ∀ s : State,
    let num : BitVec 16 := BitVec.ofNat 16 s.fab.pseq
    let own : List Word := serialWords (ownSerial s)
    let mgr : BitVec 16 := BitVec.ofNat 16 (managerId s)
    (∀ (q : Fin 16) m rpath,
      (portUsable s q = true → ∃ t ws, exec (.probe q m rpath) s = .next t ∧ t.regs = s.regs ∧ t.fab.pseq = (s.fab.pseq + 1) % 65536 ∧
        t.outbox = s.outbox ++ [.control 0 rpath.reverse 3 0 num ws] ∧ ws.length = 49) ∧
      (portUsable s q = false → exec (.probe q m rpath) s = .next s)) ∧
    (∀ (q : Fin 16) (m : AssignMsg),
      let held : Prop := isAssigned s = true ∧ s.fab.mgrLost = false ∧ ∃ x, s.fab.mgr = some x ∧ x ≠ m.mgrSerial
      (portUsable s q = true → isManager s = false → held → ∃ t d, exec (.assign q m) s = .next t ∧ regFld t Reg.FAB_JOIN_STAT 8 8 = 3 ∧
        joinState t = joinState s ∧ isAssigned t = true ∧ ownId t = ownId s ∧ t.items = s.items ∧ t.fab.mgr = s.fab.mgr ∧ t.outbox = s.outbox ++ [.control d [] 5 0 num [3]]) ∧
      (portUsable s q = true → isManager s = false → ¬ held → ∃ t, exec (.assign q m) s = .next t ∧ isAssigned t = true ∧
        ownId t = m.devId.toNat ∧ t.fab.mgr = some m.mgrSerial ∧ t.fab.mgrLost = false ∧ (m.rejoin = true → t.items.itt = []) ∧
        (m.rejoin = false → (isAssigned s = false ∨ ownId s = m.devId.toNat) → t.items = s.items)) ∧
      ((portUsable s q = false ∨ isManager s = true) → exec (.assign q m) s = .next s)) ∧
    (∀ m : RouteSetMsg,
      (isAssigned s = true → isManager s = false → m.entries.length ≤ 4080 →
        ((regWord s Reg.FAB_ROUTE_GEN).toNat ≤ m.gen.toNat → ∃ t l, exec (.routeSet m) s = .next t ∧ regWord t Reg.FAB_ROUTE_GEN = m.gen ∧
          t.fab.routed = true ∧ t.outbox = s.outbox ++ Output.control mgr [] 7 m.gen num own :: l ∧
          (∀ i, i < m.entries.length → m.first.toNat + i < 4096 →
            regWord t (Reg.FAB_ROUTE_DEV (m.first.toNat + i)) = m.entries.getD i 0 &&& 0xFF03FF#32) ∧
          (∀ i, i < m.entries.length → 4096 ≤ m.first.toNat + i → m.first.toNat + i < 4112 →
            regWord t (Reg.FAB_ROUTE_DOM (m.first.toNat + i - 4096)) = m.entries.getD i 0 &&& 0xFF03FF#32)) ∧
        (m.gen.toNat < (regWord s Reg.FAB_ROUTE_GEN).toNat → ∃ t l, exec (.routeSet m) s = .next t ∧
          regWord t Reg.FAB_ROUTE_GEN = regWord s Reg.FAB_ROUTE_GEN ∧
          t.outbox = s.outbox ++ Output.control mgr [] 7 (regWord s Reg.FAB_ROUTE_GEN) num own :: l ∧
          ∀ n, n < 4096 → regWord t (Reg.FAB_ROUTE_DEV n) = regWord s (Reg.FAB_ROUTE_DEV n))) ∧
      ((isAssigned s = false ∨ isManager s = true ∨ 4080 < m.entries.length) → exec (.routeSet m) s = .next s)) ∧
    (∀ serial,
      (isAssigned s = true → (isManager s = true ∨ s.fab.mgr = some serial) → ∃ t d, exec (.heartbeat serial) s = .next t ∧
        t.regs = s.regs ∧ t.fab.mgrLost = false ∧ t.outbox = s.outbox ++ [.control d [] 10 0 num own] ∧ (isManager s = false → d = mgr)) ∧
      ((isAssigned s = false ∨ (isManager s = false ∧ s.fab.mgr ≠ some serial)) → exec (.heartbeat serial) s = .next s)) ∧
    (isAssigned s = true → isManager s = false → ∃ t, exec .managerLoss s = .next t ∧ regBit t Reg.FAB_ID 19 = true ∧ t.fab.mgrLost = true ∧
      t.items = s.items ∧ ∀ n, n < 4096 → regWord t (Reg.FAB_ROUTE_DEV n) = regWord s (Reg.FAB_ROUTE_DEV n)) ∧
    ((isAssigned s = false ∨ isManager s = true) → exec .managerLoss s = .next s) ∧
    (joinState s = 1 → isManager s = false → ∃ t, exec .joinWaitTimeout s = .next t ∧ regBit t Reg.FAB_JOIN_STAT 16 = true ∧
      joinState t = 1 ∧ t.fab = s.fab) ∧
    ((joinState s ≠ 1 ∨ isManager s = true) → exec .joinWaitTimeout s = .next s) ∧
    (∀ m : LeftMsg,
      let named (o : BitVec 16) : Bool := leftNames m.ids m.domain o
      (isAssigned s = true → isManager s = false → ∃ t, exec (.left m) s = .next t ∧ regBit t Reg.FAB_JOIN_STAT 17 = true ∧
        (∀ e, e ∈ t.items.itt ↔ e ∈ s.items.itt ∧ named e.key.orig = false) ∧
        (∀ k, k ∈ t.items.recent → named k.orig = false) ∧ (∀ x, x ∈ t.items.trig → named x.key.orig = false) ∧
        isAssigned t = !named (BitVec.ofNat 16 (ownId s))) ∧
      (isAssigned s = false → exec (.left m) s = .next s)) ∧
    (∀ v, 12 ≤ s.boot.begun → v.getLsbD 1 = false →
      (isAssigned s = true → s.items.itt = [] → s.items.orig = [] → ∃ t l, exec (.fabCmdLeave v) s = .next t ∧ isAssigned t = false ∧
        t.fab.mgr = none ∧ t.outbox = s.outbox ++ Output.control mgr [] 12 0 num own :: l) ∧
      ((isAssigned s = false ∨ s.items.itt ≠ [] ∨ s.items.orig ≠ []) → exec (.fabCmdLeave v) s = .next (setRegBit s Reg.FAB_JOIN_STAT 18))) ∧
    (∀ (q : Fin 16) (m : HelloMsg),
      (portTrained s q = true → isManager s = false → ∃ t, exec (.hello q m) s = .next t ∧ (fport t q).hello = some m ∧
        regWord t (Reg.FAB_PORT_PARTNER q) = BitVec.ofNat 32 (m.devId.toNat + m.port.val * 2 ^ 16 + b2n m.assigned * 2 ^ 20) ∧
        (helloIsolates s m = true → portState t q = 5 ∧ (portState s q ≠ 5 → regBit t (Reg.FAB_PORT_STAT q) 19 = true)) ∧
        (helloIsolates s m = false → portState t q =
          (if regFld s (Reg.FAB_PORT_STAT q) 4 4 = 8 ∧ regFld s (Reg.FAB_PORT_STAT q) 8 4 = 8 then 3 else 4))) ∧
      (portTrained s q = false → exec (.hello q m) s = .next s))

/-- The manager of a domain and the federation manager (R415 to R419, R421 to R424, R427, R428, R441): a device described is given an
identifier and sent its assignment; another manager of lower serial number ends this one's management; a probe is tried three times;
answers to assignments and route sets are kept; routes are computed anew with a new generation when a link or a domain route changes;
members miss heartbeats until they are declared left; LEFT is sent again with its number; domains are entered; REDISCOVER probes anew.
A command that finds nothing to act on leaves the state as it is (the model's choice, log 1).
It rests on the model's own choices or readings of logs 26, 27 and 37. -/
def Obligations.HierarchyManagerCommands : Prop :=
  ∀ s : State,
    let num : BitVec 16 := BitVec.ofNat 16 s.fab.pseq
    let own : List Word := serialWords (ownSerial s)
    let gen := regWord s Reg.FAB_ROUTE_GEN
    let mapped (t : State) (serial : BitVec 64) (f : Member → Member) : Prop :=
      t.fab.members = s.fab.members.map (fun m => if m.desc.serial = serial then f m else m)
    (isManager s = false → (∀ a b c, exec (.assignAck a b c) s = .next s) ∧ (∀ a g, exec (.routeAck a g) s = .next s) ∧
      (∀ m, exec (.linkEvent m) s = .next s) ∧ exec .heartbeatInterval s = .next s ∧ (∀ x, exec (.heartbeatReply x) s = .next s) ∧
      (∀ d, exec (.leave d) s = .next s) ∧ (∀ a d l, exec (.domainInfo a d l) s = .next s) ∧ (∀ l, exec (.domainRoute l) s = .next s) ∧
      (∀ m, exec (.probeReply m) s = .next s) ∧ (∀ x, exec (.routeSetTimeout x) s = .next s) ∧
      ∀ v, 12 ≤ s.boot.begun → v.getLsbD 0 = false → exec (.rediscover v) s = .next (setRegBit s Reg.FAB_JOIN_STAT 18)) ∧
    (∀ (m : ProbeReplyMsg) serial path n, isManager s = true → s.fab.probing = some (serial, path, n) →
      (m.path ≠ path → exec (.probeReply m) s = .next s) ∧
      (m.path = path → m.role = true → m.domain.toNat = ownDomain s → m.serial.toNat < (ownSerial s).toNat →
        ∃ t, exec (.probeReply m) s = .next t ∧ isManager t = false ∧ isAssigned t = false ∧ joinState t = 3 ∧
          regFld t Reg.FAB_JOIN_STAT 8 8 = 2 ∧ t.fab.members = []) ∧
      (∀ i, m.path = path → m.role = false → m.domain.toNat = ownDomain s → m.assigned = false → memberOf s m.serial = none →
        freshIndex s m.serial = some i → ∃ t l, exec (.probeReply m) s = .next t ∧
          t.outbox = s.outbox ++ Output.control 0 m.path 4 0 num ([BitVec.ofNat 32 (ownDomain s * 4096 + i)] ++ own ++ [0]) :: l) ∧
      (m.path = path → m.domain.toNat ≠ ownDomain s → exec (.probeReply m) s =
        .next (nextProbe { s with fab := { s.fab with probing := none, described := s.fab.described ++ [m.serial] } })) ∧
      (n < 3 → ∃ t, exec (.probeTimeout path) s = .next t ∧ t.fab.probing = some (serial, path, n + 1) ∧
        t.outbox = s.outbox ++ [.control 0 path 2 0 num own]) ∧
      (3 ≤ n → exec (.probeTimeout path) s = .next (nextProbe { s with fab := { s.fab with probing := none } })) ∧
      (∀ p, p ≠ path → exec (.probeTimeout p) s = .next s)) ∧
    (s.fab.probing = none → (∀ m, exec (.probeReply m) s = .next s) ∧ ∀ p, exec (.probeTimeout p) s = .next s) ∧
    (∀ serial r, isManager s = true → s.fab.round = true → (memberOf s serial).isSome = true →
      (∃ t, exec (.assignAck serial true r) s = .next t ∧ mapped t serial (fun m => { m with accepted := true })) ∧
      (∃ t, exec (.assignAck serial false r) s = .next t ∧
        t.fab.members = s.fab.members.filter (fun m => decide (m.desc.serial ≠ serial)) ∧
        regFld t Reg.FAB_MGR_STAT 0 13 = ((t.fab.members.filter (fun m => m.accepted)).length + 1) % 8192)) ∧
    (∀ serial g, isManager s = true → ∃ t, exec (.routeAck serial g) s = .next t ∧
      mapped t serial (fun m => { m with ackGen := max m.ackGen g.toNat, tries := 0, acked := if g.toNat = m.sentGen then m.entries else m.acked }) ∧
      (joinState s = 1 → s.fab.round = false → s.fab.leftGroups = [] →
        (∀ m, m ∈ t.fab.members → m.accepted = true ∧ m.sentGen ≤ m.ackGen) → joinState t = 2)) ∧
    (∀ serial m, memberOf s serial = some m → isManager s = true →
      (m.ackGen < m.sentGen → m.tries < 3 → ∃ t ws l, exec (.routeSetTimeout serial) s = .next t ∧
        mapped t serial (fun m => { m with tries := m.tries + 1 }) ∧
        t.outbox = s.outbox ++ Output.control 0 m.desc.path 6 (BitVec.ofNat 32 m.sentGen) num ws :: l) ∧
      ((m.sentGen ≤ m.ackGen ∨ 3 ≤ m.tries) → exec (.routeSetTimeout serial) s = .next s)) ∧
    (∀ serial, memberOf s serial = none → exec (.routeSetTimeout serial) s = .next s) ∧
    (∀ m : LinkEventMsg, isManager s = true → m.state ≠ 3 → m.state ≠ 4 → ∃ t, exec (.linkEvent m) s = .next t ∧
      regWord t Reg.FAB_ROUTE_GEN = gen + 1) ∧
    (isManager s = true → isFedMgr s = false → s.fab.domains = [] →
      ((∀ m, m ∈ s.fab.members → m.answered = true ∨ m.missed < 2) → ∃ t, exec .heartbeatInterval s = .next t ∧
        t.fab.members = s.fab.members.map (fun m => if m.accepted then { m with missed := nextMissed m.answered m.missed, answered := false }
          else m) ∧
        ∀ m, m ∈ joined s → ∃ n, Output.control (BitVec.ofNat 16 (memberId s m)) [] 9 0 n own ∈ t.outbox) ∧
      (∀ m, m ∈ s.fab.members → m.accepted = true → m.answered = false → 2 ≤ m.missed → s.fab.leftGroups = [] →
        ∃ t, exec .heartbeatInterval s = .next t ∧ (∀ x, x ∈ t.fab.members → x.desc.serial ≠ m.desc.serial) ∧
          ∀ e, e ∈ t.items.itt → e.key.orig ≠ BitVec.ofNat 16 (memberId s m))) ∧
    (∀ serial, isManager s = true → ∃ t, exec (.heartbeatReply serial) s = .next t ∧ t = { s with fab := t.fab } ∧
      mapped t serial (fun m => { m with missed := 0, answered := true })) ∧
    (∀ member pseq, (∀ w, w ∈ s.fab.leftWaits → w.member ≠ member ∨ w.pseq ≠ pseq.toNat) → exec (.leftTimeout member pseq) s = .next s) ∧
    (∀ w member pseq,
      let mine (w : LeftWait) : Bool := decide (w.member = member) && decide (w.pseq = pseq.toNat)
      let left : FabSt := { s.fab with leftWaits := s.fab.leftWaits.filter (fun w => !mine w) }
      s.fab.leftWaits.find? mine = some w →
      (w.tries < 3 → ∃ t, exec (.leftTimeout member pseq) s = .next t ∧ t.fab.pseq = s.fab.pseq ∧ ∃ ws,
        t.outbox = s.outbox ++ [.control member [] 11 0 pseq ws]) ∧
      (3 ≤ w.tries → (∀ m, m ∈ joined s → memberId s m ≠ member.toNat) →
        exec (.leftTimeout member pseq) s = .next (finishGroups { s with fab := left }))) ∧
    (∀ d : BitVec 16, isManager s = true →
      (∀ m, (joined s).find? (fun m => decide (memberId s m = d.toNat)) = some m → exec (.leave d) s = .next (declareLeft s [m] []) ∧
        (s.fab.leftGroups = [] → ∀ x, x ∈ (declareLeft s [m] []).fab.members → x.desc.serial ≠ m.desc.serial)) ∧
      ((∀ m, m ∈ joined s → memberId s m ≠ d.toNat) → exec (.leave d) s = .next s)) ∧
    (∀ serial (d : BitVec 4) links, isManager s = true → ∃ t, exec (.domainInfo serial d links) s = .next t ∧
      t.fab.domains = put s.fab.domains d.toNat { serial := serial, links := links }) ∧
    (∀ links, isManager s = true → ∃ t, exec (.domainRoute links) s = .next t ∧ regWord t Reg.FAB_ROUTE_GEN = gen + 1 ∧
      t.fab.toDomain = links.foldl (fun l x => put l x.1.toNat x.2) []) ∧
    (∀ v, 12 ≤ s.boot.begun → v.getLsbD 0 = false → isManager s = true →
      (s.fab.round = true → exec (.rediscover v) s = .next s) ∧
      (s.fab.round = false → exec (.rediscover v) s = .next (startRound s) ∧
        ((∀ q, q < 16 → portUsable s q = false) → (startRound s).fab.round = false ∧ regWord (startRound s) Reg.FAB_ROUTE_GEN = gen + 1)))

/-- An offset that no chapter defines reads as zero and discards writes, and no error is raised (R14); a write by BAR0 that waits behind the
host's accesses received before it (R570) is discarded when its turn comes. -/
def Obligations.UndefinedRegisterOffsets : Prop :=
  ∀ (s : State) (off : BitVec 26), off.toNat % 4 = 0 → findReg regMap off.toNat = none →
    regRead s off.toNat 4 = 0 ∧
    ∀ (path : AccPath) (d : BitVec 64) (poisoned : Bool) (hw : Word),
      (path ≠ .bar0 ∨ poisoned = true ∨ s.sc.host = [] → exec (.registerWrite path off .b32 d poisoned hw) s = .next s) ∧
      (path = .bar0 → poisoned = false → s.sc.host ≠ [] → exec (.registerWrite path off .b32 d poisoned hw) s =
        .next { s with sc := { s.sc with host := s.sc.host ++ [.bar0 off.toNat .b32 d hw] } }) ∧
      ∀ t, accessWrite t off.toNat .b32 d hw = t

/-- The hop limit of routed packets (R408): a local source starts at 63, each device that forwards lowers TTL by 1 and discards and counts a
packet that it would forward with TTL 0, and path-mode packets ignore TTL. -/
def Obligations.RoutedHopLimit : Prop :=
  ∀ (s : State) (src : Fin 17) (pkt : Packet) (ttl : BitVec 6) (ecc : ReadCheck) (q : Nat),
    let drops (t : State) (n : Nat) : Prop := counter t Reg.FAB_CNT_TTLDROP = (counter s Reg.FAB_CNT_TTLDROP + n) % 2 ^ 64
    (pkt.pathMode = false → isAssigned s = true → pkt.dst.toNat ≠ ownId s → routePort s (routeEntry s pkt.dst.toNat) = some q →
      (src.val = 16 → exec (.packetForward src pkt ⟨ttl, .clean⟩) s = .next (enqueuePacket s q ⟨pkt, 63⟩)) ∧
      (src.val < 16 → ttl ≠ 0 → ∃ t, exec (.packetForward src pkt ⟨ttl, .clean⟩) s = .next (enqueuePacket t q ⟨pkt, ttl.toNat - 1⟩) ∧
        t = { s with fab := t.fab }) ∧
      (src.val < 16 → ttl = 0 → ∃ t, exec (.packetForward src pkt ⟨ttl, .clean⟩) s = .next t ∧ drops t 1 ∧ t.outbox = s.outbox)) ∧
    (pkt.pathMode = true → ∃ t, exec (.packetForward src pkt ⟨ttl, ecc⟩) s = .next t ∧ drops t 0)

end
end

