-- ==== Sys2Proof/Laws/Bits.lean ====
section
/-! SUPPORT. Laws of bit fields: a field read after it is set, and the bits that setting it leaves alone. -/

namespace Sys2Proof.Machine

theorem nfld_testBit (x lo w i : Nat) : (nfld x lo w).testBit i = (decide (i < w) && x.testBit (lo + i)) := by
  unfold nfld
  rw [Nat.testBit_mod_two_pow, Nat.testBit_shiftRight]

theorem fld_testBit {n : Nat} (x : BitVec n) (lo w i : Nat) : (fld x lo w).testBit i = (decide (i < w) && x.getLsbD (lo + i)) := by
  unfold fld
  rw [nfld_testBit]; rfl

/-- What setting a field leaves at each bit. -/
theorem setFld_getLsbD {n : Nat} (x : BitVec n) (lo w v i : Nat) :
    (setFld x lo w v).getLsbD i = (decide (i < n) && if lo ≤ i ∧ i < lo + w then v.testBit (i - lo) else x.getLsbD i) := by
  unfold setFld
  by_cases hn : i < n
  · simp only [BitVec.getLsbD_or, BitVec.getLsbD_and, BitVec.getLsbD_not, BitVec.getLsbD_shiftLeft, BitVec.getLsbD_ofNat, hn,
      decide_true, Bool.true_and, Nat.testBit_mod_two_pow, Nat.testBit_two_pow_sub_one]
    by_cases h1 : i < lo
    · simp [h1, show ¬ lo ≤ i by omega]
    · have h1' : lo ≤ i := by omega
      by_cases h2 : i < lo + w
      · have h3 : i - lo < w := by omega
        have h4 : i - lo < n := by omega
        simp [h1, h1', h2, h3, h4]
      · have h3 : ¬ i - lo < w := by omega
        simp [h1, h1', h2, h3]
  · simp [hn, BitVec.getLsbD_of_ge, Nat.le_of_not_lt hn]

/-- A field reads as it was set. -/
theorem fld_setFld_self {n : Nat} (x : BitVec n) (lo w v : Nat) (h : lo + w ≤ n) : fld (setFld x lo w v) lo w = v % 2 ^ w := by
  apply Nat.eq_of_testBit_eq
  intro i
  rw [fld_testBit, setFld_getLsbD, Nat.testBit_mod_two_pow]
  by_cases hi : i < w
  · have : lo + i < n := by omega
    simp [hi, this]
  · simp [hi]

/-- Setting a field leaves every field apart from it alone. -/
theorem fld_setFld_apart {n : Nat} (x : BitVec n) (lo w v lo' w' : Nat) (h : lo' + w' ≤ lo ∨ lo + w ≤ lo') :
    fld (setFld x lo w v) lo' w' = fld x lo' w' := by
  apply Nat.eq_of_testBit_eq
  intro i
  rw [fld_testBit, fld_testBit, setFld_getLsbD]
  by_cases hi : i < w'
  · have h' : ¬ (lo ≤ lo' + i ∧ lo' + i < lo + w) := by omega
    simp only [hi, decide_true, Bool.true_and, h', if_false]
    by_cases hn : lo' + i < n
    · simp [hn]
    · simp [hn, BitVec.getLsbD_of_ge, Nat.le_of_not_lt hn]
  · simp [hi]

theorem bit_setFld {n : Nat} (x : BitVec n) (lo w v i : Nat) :
    bit (setFld x lo w v) i = (decide (i < n) && if lo ≤ i ∧ i < lo + w then v.testBit (i - lo) else bit x i) := setFld_getLsbD x lo w v i

end Sys2Proof.Machine
end

