-- ==== Sys2Proof/Laws/Tables.lean ====
section
/-! SUPPORT. Laws of sparse tables and of lists by index: a read after a write gives what was written, and a write leaves every
other key alone; the canonical form is kept. -/

namespace Sys2Proof.Machine

variable {α β : Type}

@[simp] theorem look_nil (x : Nat) : look ([] : Tbl α) x = none := rfl

theorem look_cons (k : Nat) (v : α) (t : Tbl α) (x : Nat) : look ((k, v) :: t) x = if k = x then some v else look t x := rfl

theorem look_put (t : Tbl α) (x y : Nat) (v : α) : look (put t x v) y = if x = y then some v else look t y := by
  induction t with
  | nil => simp [put, look]
  | cons e t ih =>
    obtain ⟨k, w⟩ := e
    unfold put
    split
    · simp [look]
    · split
      · subst_vars; simp only [look]; split <;> rfl
      · simp only [look, ih]
        split <;> split <;> simp_all

@[simp] theorem look_put_self (t : Tbl α) (x : Nat) (v : α) : look (put t x v) x = some v := by simp [look_put]

theorem look_put_ne {x y : Nat} (t : Tbl α) (v : α) (h : x ≠ y) : look (put t x v) y = look t y := by simp [look_put, h]

theorem look_del (t : Tbl α) (x y : Nat) : look (del t x) y = if x = y then none else look t y := by
  induction t with
  | nil => simp [del, look]
  | cons e t ih =>
    obtain ⟨k, w⟩ := e
    unfold del
    split
    · subst_vars; rw [ih]; simp only [look]; split <;> simp_all
    · simp only [look, ih]; split <;> split <;> simp_all

@[simp] theorem look_del_self (t : Tbl α) (x : Nat) : look (del t x) x = none := by simp [look_del]

theorem look_del_ne {x y : Nat} (t : Tbl α) (h : x ≠ y) : look (del t x) y = look t y := by simp [look_del, h]

@[simp] theorem lookD_nil (x : Nat) (d : α) : lookD ([] : Tbl α) x d = d := rfl

@[simp] theorem lookD_put_self (t : Tbl α) (x : Nat) (v d : α) : lookD (put t x v) x d = v := by simp [lookD]

theorem lookD_put_ne {x y : Nat} (t : Tbl α) (v d : α) (h : x ≠ y) : lookD (put t x v) y d = lookD t y d := by
  simp [lookD, look_put_ne t v h]

theorem lookD_put (t : Tbl α) (x y : Nat) (v d : α) : lookD (put t x v) y d = if x = y then v else lookD t y d := by
  by_cases h : x = y <;> simp [lookD, look_put, h]

@[simp] theorem lookD_putD_self [DecidableEq α] (t : Tbl α) (x : Nat) (v d : α) : lookD (putD d t x v) x d = v := by
  unfold putD; split <;> simp_all [lookD]

theorem lookD_putD_ne [DecidableEq α] {x y : Nat} (t : Tbl α) (v d d' : α) (h : x ≠ y) : lookD (putD d t x v) y d' = lookD t y d' := by
  unfold putD; split <;> simp [lookD, look_del_ne, look_put_ne, h]

theorem risingFrom_mono {t : Tbl α} {a b : Nat} (h : risingFrom b t = true) (hab : a ≤ b) : risingFrom a t = true := by
  cases t with
  | nil => rfl
  | cons e t => simp only [risingFrom, Bool.and_eq_true, decide_eq_true_eq] at *; exact ⟨by omega, h.2⟩

theorem risingFrom_put {t : Tbl α} {a : Nat} (h : risingFrom a t = true) (x : Nat) (v : α) (hx : a ≤ x) :
    risingFrom a (put t x v) = true := by
  induction t generalizing a with
  | nil => simp [put, risingFrom, hx]
  | cons e t ih =>
    obtain ⟨k, w⟩ := e
    simp only [risingFrom, Bool.and_eq_true, decide_eq_true_eq] at h
    unfold put
    split
    · simp only [risingFrom, Bool.and_eq_true, decide_eq_true_eq]; exact ⟨hx, by omega, h.2⟩
    · split
      · subst_vars; simp only [risingFrom, Bool.and_eq_true, decide_eq_true_eq]; exact ⟨hx, h.2⟩
      · simp only [risingFrom, Bool.and_eq_true, decide_eq_true_eq]; exact ⟨h.1, ih h.2 (by omega)⟩

theorem risingFrom_filter {t : Tbl α} {a : Nat} (h : risingFrom a t = true) (p : Nat × α → Bool) :
    risingFrom a (t.filter p) = true := by
  induction t generalizing a with
  | nil => rfl
  | cons e t ih =>
    obtain ⟨k, w⟩ := e
    simp only [risingFrom, Bool.and_eq_true, decide_eq_true_eq] at h
    rw [List.filter_cons]
    split
    · simp only [risingFrom, Bool.and_eq_true, decide_eq_true_eq]; exact ⟨h.1, ih h.2⟩
    · exact risingFrom_mono (ih h.2) (by omega)

theorem del_eq_filter (t : Tbl α) (x : Nat) : del t x = t.filter (fun e => decide (e.1 ≠ x)) := by
  induction t with
  | nil => rfl
  | cons e t ih =>
    obtain ⟨k, w⟩ := e
    unfold del
    rw [List.filter_cons]
    split <;> simp_all

theorem risingFrom_del {t : Tbl α} {a : Nat} (h : risingFrom a t = true) (x : Nat) : risingFrom a (del t x) = true := by
  rw [del_eq_filter]; exact risingFrom_filter h _

theorem mem_put {t : Tbl α} {x : Nat} {v : α} {e : Nat × α} (h : e ∈ put t x v) : e = (x, v) ∨ e ∈ t := by
  induction t with
  | nil => simp [put] at h; exact Or.inl h
  | cons c t ih =>
    obtain ⟨k, w⟩ := c
    unfold put at h
    split at h
    · simpa using h
    · split at h
      · rcases List.mem_cons.1 h with h | h <;> simp [h]
      · rcases List.mem_cons.1 h with h | h
        · simp [h]
        · rcases ih h with h | h <;> simp [h]

theorem Canon.nil (d : Nat → α) : Canon d ([] : Tbl α) := ⟨rfl, by simp⟩

theorem Canon.filter {d : Nat → α} {t : Tbl α} (h : Canon d t) (p : Nat × α → Bool) : Canon d (t.filter p) :=
  ⟨risingFrom_filter h.1 p, fun e he => h.2 e (List.mem_filter.1 he).1⟩

theorem Canon.putD [DecidableEq α] {d : Nat → α} {t : Tbl α} (h : Canon d t) (x : Nat) (v : α) : Canon d (putD (d x) t x v) := by
  unfold Machine.putD
  split
  · rw [del_eq_filter]; exact h.filter _
  · rename_i hv
    refine ⟨risingFrom_put h.1 x v (Nat.zero_le _), fun e he => ?_⟩
    rcases mem_put he with rfl | he
    · exact hv
    · exact h.2 e he

end Sys2Proof.Machine
end

