-- ==== Sys2Proof/Laws/Regs.lean ====
section
/-! SUPPORT. Laws of the register table: a register reads as it was stored, and a store leaves every other register alone. -/

namespace Sys2Proof.Machine

@[simp] theorem regWord_setRegWord_self (s : State) (o : Nat) (v : Word) : regWord (setRegWord s o v) o = v := by
  simp [regWord, setRegWord]

theorem regWord_setRegWord_ne {o o' : Nat} (s : State) (v : Word) (h : o ≠ o') : regWord (setRegWord s o v) o' = regWord s o' := by
  simp [regWord, setRegWord, lookD_putD_ne _ _ _ _ h]

theorem regWord_setRegWord (s : State) (o o' : Nat) (v : Word) :
    regWord (setRegWord s o v) o' = if o = o' then v else regWord s o' := by
  by_cases h : o = o'
  · subst h; simp
  · simp [h, regWord_setRegWord_ne]

theorem regWord_setRegFld (s : State) (o lo w v o' : Nat) :
    regWord (setRegFld s o lo w v) o' = if o = o' then setFld (regWord s o) lo w v else regWord s o' := regWord_setRegWord ..

theorem regFld_setRegFld_self (s : State) (o lo w v : Nat) (h : lo + w ≤ 32) : regFld (setRegFld s o lo w v) o lo w = v % 2 ^ w := by
  simp [regFld, setRegFld, fld_setFld_self _ _ _ _ h]

theorem regFld_setRegFld_apart (s : State) (o lo w v lo' w' : Nat) (h : lo' + w' ≤ lo ∨ lo + w ≤ lo') :
    regFld (setRegFld s o lo w v) o lo' w' = regFld s o lo' w' := by
  simp [regFld, setRegFld, fld_setFld_apart _ _ _ _ _ _ h]

theorem regFld_setRegFld_ne {o o' : Nat} (s : State) (lo w v lo' w' : Nat) (h : o ≠ o') :
    regFld (setRegFld s o lo w v) o' lo' w' = regFld s o' lo' w' := by
  simp [regFld, setRegFld, regWord_setRegWord_ne _ _ h]

theorem regBit_setRegBit_self (s : State) (o i : Nat) (h : i < 32) : regBit (setRegBit s o i) o i = true := by
  simp [regBit, setRegBit, setRegFld, bit_setFld, h]

theorem regBit_clrRegBit_self (s : State) (o i : Nat) : regBit (clrRegBit s o i) o i = false := by
  simp [regBit, clrRegBit, setRegFld, bit_setFld]

end Sys2Proof.Machine
end

