-- ==== Sys2Proof/Laws/State.lean ====
section
/-! SUPPORT. What the named updates of the state do to each part of it: one law per part and update. -/

namespace Sys2Proof.Machine

@[simp] theorem arrays_setRegWord (s : State) (off : Nat) (v : Word) : (setRegWord s off v).arrays = s.arrays := rfl
@[simp] theorem engines_setRegWord (s : State) (off : Nat) (v : Word) : (setRegWord s off v).engines = s.engines := rfl
@[simp] theorem mem_setRegWord (s : State) (off : Nat) (v : Word) : (setRegWord s off v).mem = s.mem := rfl
@[simp] theorem poison_setRegWord (s : State) (off : Nat) (v : Word) : (setRegWord s off v).poison = s.poison := rfl
@[simp] theorem sc_setRegWord (s : State) (off : Nat) (v : Word) : (setRegWord s off v).sc = s.sc := rfl
@[simp] theorem vc_setRegWord (s : State) (off : Nat) (v : Word) : (setRegWord s off v).vc = s.vc := rfl
@[simp] theorem tint_setRegWord (s : State) (off : Nat) (v : Word) : (setRegWord s off v).tint = s.tint := rfl
@[simp] theorem near_setRegWord (s : State) (off : Nat) (v : Word) : (setRegWord s off v).near = s.near := rfl
@[simp] theorem far_setRegWord (s : State) (off : Nat) (v : Word) : (setRegWord s off v).far = s.far := rfl
@[simp] theorem movers_setRegWord (s : State) (off : Nat) (v : Word) : (setRegWord s off v).movers = s.movers := rfl
@[simp] theorem items_setRegWord (s : State) (off : Nat) (v : Word) : (setRegWord s off v).items = s.items := rfl
@[simp] theorem host_setRegWord (s : State) (off : Nat) (v : Word) : (setRegWord s off v).host = s.host := rfl
@[simp] theorem fab_setRegWord (s : State) (off : Nat) (v : Word) : (setRegWord s off v).fab = s.fab := rfl
@[simp] theorem power_setRegWord (s : State) (off : Nat) (v : Word) : (setRegWord s off v).power = s.power := rfl
@[simp] theorem thermal_setRegWord (s : State) (off : Nat) (v : Word) : (setRegWord s off v).thermal = s.thermal := rfl
@[simp] theorem boot_setRegWord (s : State) (off : Nat) (v : Word) : (setRegWord s off v).boot = s.boot := rfl
@[simp] theorem pins_setRegWord (s : State) (off : Nat) (v : Word) : (setRegWord s off v).pins = s.pins := rfl
@[simp] theorem aclkMhz_setRegWord (s : State) (off : Nat) (v : Word) : (setRegWord s off v).aclkMhz = s.aclkMhz := rfl
@[simp] theorem evlog_setRegWord (s : State) (off : Nat) (v : Word) : (setRegWord s off v).evlog = s.evlog := rfl
@[simp] theorem repair_setRegWord (s : State) (off : Nat) (v : Word) : (setRegWord s off v).repair = s.repair := rfl
@[simp] theorem pend_setRegWord (s : State) (off : Nat) (v : Word) : (setRegWord s off v).pend = s.pend := rfl
@[simp] theorem lastErr_setRegWord (s : State) (off : Nat) (v : Word) : (setRegWord s off v).lastErr = s.lastErr := rfl
@[simp] theorem outbox_setRegWord (s : State) (off : Nat) (v : Word) : (setRegWord s off v).outbox = s.outbox := rfl
@[simp] theorem fresh_setRegWord (s : State) (off : Nat) (v : Word) : (setRegWord s off v).fresh = s.fresh := rfl
@[simp] theorem pending_setRegWord (s : State) (off : Nat) (v : Word) : (setRegWord s off v).pending = s.pending := rfl

@[simp] theorem arrays_setRegFld (s : State) (off lo w v : Nat) : (setRegFld s off lo w v).arrays = s.arrays := rfl
@[simp] theorem engines_setRegFld (s : State) (off lo w v : Nat) : (setRegFld s off lo w v).engines = s.engines := rfl
@[simp] theorem mem_setRegFld (s : State) (off lo w v : Nat) : (setRegFld s off lo w v).mem = s.mem := rfl
@[simp] theorem poison_setRegFld (s : State) (off lo w v : Nat) : (setRegFld s off lo w v).poison = s.poison := rfl
@[simp] theorem sc_setRegFld (s : State) (off lo w v : Nat) : (setRegFld s off lo w v).sc = s.sc := rfl
@[simp] theorem vc_setRegFld (s : State) (off lo w v : Nat) : (setRegFld s off lo w v).vc = s.vc := rfl
@[simp] theorem tint_setRegFld (s : State) (off lo w v : Nat) : (setRegFld s off lo w v).tint = s.tint := rfl
@[simp] theorem near_setRegFld (s : State) (off lo w v : Nat) : (setRegFld s off lo w v).near = s.near := rfl
@[simp] theorem far_setRegFld (s : State) (off lo w v : Nat) : (setRegFld s off lo w v).far = s.far := rfl
@[simp] theorem movers_setRegFld (s : State) (off lo w v : Nat) : (setRegFld s off lo w v).movers = s.movers := rfl
@[simp] theorem items_setRegFld (s : State) (off lo w v : Nat) : (setRegFld s off lo w v).items = s.items := rfl
@[simp] theorem host_setRegFld (s : State) (off lo w v : Nat) : (setRegFld s off lo w v).host = s.host := rfl
@[simp] theorem fab_setRegFld (s : State) (off lo w v : Nat) : (setRegFld s off lo w v).fab = s.fab := rfl
@[simp] theorem power_setRegFld (s : State) (off lo w v : Nat) : (setRegFld s off lo w v).power = s.power := rfl
@[simp] theorem thermal_setRegFld (s : State) (off lo w v : Nat) : (setRegFld s off lo w v).thermal = s.thermal := rfl
@[simp] theorem boot_setRegFld (s : State) (off lo w v : Nat) : (setRegFld s off lo w v).boot = s.boot := rfl
@[simp] theorem pins_setRegFld (s : State) (off lo w v : Nat) : (setRegFld s off lo w v).pins = s.pins := rfl
@[simp] theorem aclkMhz_setRegFld (s : State) (off lo w v : Nat) : (setRegFld s off lo w v).aclkMhz = s.aclkMhz := rfl
@[simp] theorem evlog_setRegFld (s : State) (off lo w v : Nat) : (setRegFld s off lo w v).evlog = s.evlog := rfl
@[simp] theorem repair_setRegFld (s : State) (off lo w v : Nat) : (setRegFld s off lo w v).repair = s.repair := rfl
@[simp] theorem pend_setRegFld (s : State) (off lo w v : Nat) : (setRegFld s off lo w v).pend = s.pend := rfl
@[simp] theorem lastErr_setRegFld (s : State) (off lo w v : Nat) : (setRegFld s off lo w v).lastErr = s.lastErr := rfl
@[simp] theorem outbox_setRegFld (s : State) (off lo w v : Nat) : (setRegFld s off lo w v).outbox = s.outbox := rfl
@[simp] theorem fresh_setRegFld (s : State) (off lo w v : Nat) : (setRegFld s off lo w v).fresh = s.fresh := rfl
@[simp] theorem pending_setRegFld (s : State) (off lo w v : Nat) : (setRegFld s off lo w v).pending = s.pending := rfl

@[simp] theorem arrays_setRegBit (s : State) (off i : Nat) : (setRegBit s off i).arrays = s.arrays := rfl
@[simp] theorem engines_setRegBit (s : State) (off i : Nat) : (setRegBit s off i).engines = s.engines := rfl
@[simp] theorem mem_setRegBit (s : State) (off i : Nat) : (setRegBit s off i).mem = s.mem := rfl
@[simp] theorem poison_setRegBit (s : State) (off i : Nat) : (setRegBit s off i).poison = s.poison := rfl
@[simp] theorem sc_setRegBit (s : State) (off i : Nat) : (setRegBit s off i).sc = s.sc := rfl
@[simp] theorem vc_setRegBit (s : State) (off i : Nat) : (setRegBit s off i).vc = s.vc := rfl
@[simp] theorem tint_setRegBit (s : State) (off i : Nat) : (setRegBit s off i).tint = s.tint := rfl
@[simp] theorem near_setRegBit (s : State) (off i : Nat) : (setRegBit s off i).near = s.near := rfl
@[simp] theorem far_setRegBit (s : State) (off i : Nat) : (setRegBit s off i).far = s.far := rfl
@[simp] theorem movers_setRegBit (s : State) (off i : Nat) : (setRegBit s off i).movers = s.movers := rfl
@[simp] theorem items_setRegBit (s : State) (off i : Nat) : (setRegBit s off i).items = s.items := rfl
@[simp] theorem host_setRegBit (s : State) (off i : Nat) : (setRegBit s off i).host = s.host := rfl
@[simp] theorem fab_setRegBit (s : State) (off i : Nat) : (setRegBit s off i).fab = s.fab := rfl
@[simp] theorem power_setRegBit (s : State) (off i : Nat) : (setRegBit s off i).power = s.power := rfl
@[simp] theorem thermal_setRegBit (s : State) (off i : Nat) : (setRegBit s off i).thermal = s.thermal := rfl
@[simp] theorem boot_setRegBit (s : State) (off i : Nat) : (setRegBit s off i).boot = s.boot := rfl
@[simp] theorem pins_setRegBit (s : State) (off i : Nat) : (setRegBit s off i).pins = s.pins := rfl
@[simp] theorem aclkMhz_setRegBit (s : State) (off i : Nat) : (setRegBit s off i).aclkMhz = s.aclkMhz := rfl
@[simp] theorem evlog_setRegBit (s : State) (off i : Nat) : (setRegBit s off i).evlog = s.evlog := rfl
@[simp] theorem repair_setRegBit (s : State) (off i : Nat) : (setRegBit s off i).repair = s.repair := rfl
@[simp] theorem pend_setRegBit (s : State) (off i : Nat) : (setRegBit s off i).pend = s.pend := rfl
@[simp] theorem lastErr_setRegBit (s : State) (off i : Nat) : (setRegBit s off i).lastErr = s.lastErr := rfl
@[simp] theorem outbox_setRegBit (s : State) (off i : Nat) : (setRegBit s off i).outbox = s.outbox := rfl
@[simp] theorem fresh_setRegBit (s : State) (off i : Nat) : (setRegBit s off i).fresh = s.fresh := rfl
@[simp] theorem pending_setRegBit (s : State) (off i : Nat) : (setRegBit s off i).pending = s.pending := rfl

@[simp] theorem arrays_clrRegBit (s : State) (off i : Nat) : (clrRegBit s off i).arrays = s.arrays := rfl
@[simp] theorem engines_clrRegBit (s : State) (off i : Nat) : (clrRegBit s off i).engines = s.engines := rfl
@[simp] theorem mem_clrRegBit (s : State) (off i : Nat) : (clrRegBit s off i).mem = s.mem := rfl
@[simp] theorem poison_clrRegBit (s : State) (off i : Nat) : (clrRegBit s off i).poison = s.poison := rfl
@[simp] theorem sc_clrRegBit (s : State) (off i : Nat) : (clrRegBit s off i).sc = s.sc := rfl
@[simp] theorem vc_clrRegBit (s : State) (off i : Nat) : (clrRegBit s off i).vc = s.vc := rfl
@[simp] theorem tint_clrRegBit (s : State) (off i : Nat) : (clrRegBit s off i).tint = s.tint := rfl
@[simp] theorem near_clrRegBit (s : State) (off i : Nat) : (clrRegBit s off i).near = s.near := rfl
@[simp] theorem far_clrRegBit (s : State) (off i : Nat) : (clrRegBit s off i).far = s.far := rfl
@[simp] theorem movers_clrRegBit (s : State) (off i : Nat) : (clrRegBit s off i).movers = s.movers := rfl
@[simp] theorem items_clrRegBit (s : State) (off i : Nat) : (clrRegBit s off i).items = s.items := rfl
@[simp] theorem host_clrRegBit (s : State) (off i : Nat) : (clrRegBit s off i).host = s.host := rfl
@[simp] theorem fab_clrRegBit (s : State) (off i : Nat) : (clrRegBit s off i).fab = s.fab := rfl
@[simp] theorem power_clrRegBit (s : State) (off i : Nat) : (clrRegBit s off i).power = s.power := rfl
@[simp] theorem thermal_clrRegBit (s : State) (off i : Nat) : (clrRegBit s off i).thermal = s.thermal := rfl
@[simp] theorem boot_clrRegBit (s : State) (off i : Nat) : (clrRegBit s off i).boot = s.boot := rfl
@[simp] theorem pins_clrRegBit (s : State) (off i : Nat) : (clrRegBit s off i).pins = s.pins := rfl
@[simp] theorem aclkMhz_clrRegBit (s : State) (off i : Nat) : (clrRegBit s off i).aclkMhz = s.aclkMhz := rfl
@[simp] theorem evlog_clrRegBit (s : State) (off i : Nat) : (clrRegBit s off i).evlog = s.evlog := rfl
@[simp] theorem repair_clrRegBit (s : State) (off i : Nat) : (clrRegBit s off i).repair = s.repair := rfl
@[simp] theorem pend_clrRegBit (s : State) (off i : Nat) : (clrRegBit s off i).pend = s.pend := rfl
@[simp] theorem lastErr_clrRegBit (s : State) (off i : Nat) : (clrRegBit s off i).lastErr = s.lastErr := rfl
@[simp] theorem outbox_clrRegBit (s : State) (off i : Nat) : (clrRegBit s off i).outbox = s.outbox := rfl
@[simp] theorem fresh_clrRegBit (s : State) (off i : Nat) : (clrRegBit s off i).fresh = s.fresh := rfl
@[simp] theorem pending_clrRegBit (s : State) (off i : Nat) : (clrRegBit s off i).pending = s.pending := rfl

@[simp] theorem arrays_setCounter (s : State) (off v : Nat) : (setCounter s off v).arrays = s.arrays := rfl
@[simp] theorem engines_setCounter (s : State) (off v : Nat) : (setCounter s off v).engines = s.engines := rfl
@[simp] theorem mem_setCounter (s : State) (off v : Nat) : (setCounter s off v).mem = s.mem := rfl
@[simp] theorem poison_setCounter (s : State) (off v : Nat) : (setCounter s off v).poison = s.poison := rfl
@[simp] theorem sc_setCounter (s : State) (off v : Nat) : (setCounter s off v).sc = s.sc := rfl
@[simp] theorem vc_setCounter (s : State) (off v : Nat) : (setCounter s off v).vc = s.vc := rfl
@[simp] theorem tint_setCounter (s : State) (off v : Nat) : (setCounter s off v).tint = s.tint := rfl
@[simp] theorem near_setCounter (s : State) (off v : Nat) : (setCounter s off v).near = s.near := rfl
@[simp] theorem far_setCounter (s : State) (off v : Nat) : (setCounter s off v).far = s.far := rfl
@[simp] theorem movers_setCounter (s : State) (off v : Nat) : (setCounter s off v).movers = s.movers := rfl
@[simp] theorem items_setCounter (s : State) (off v : Nat) : (setCounter s off v).items = s.items := rfl
@[simp] theorem host_setCounter (s : State) (off v : Nat) : (setCounter s off v).host = s.host := rfl
@[simp] theorem fab_setCounter (s : State) (off v : Nat) : (setCounter s off v).fab = s.fab := rfl
@[simp] theorem power_setCounter (s : State) (off v : Nat) : (setCounter s off v).power = s.power := rfl
@[simp] theorem thermal_setCounter (s : State) (off v : Nat) : (setCounter s off v).thermal = s.thermal := rfl
@[simp] theorem boot_setCounter (s : State) (off v : Nat) : (setCounter s off v).boot = s.boot := rfl
@[simp] theorem pins_setCounter (s : State) (off v : Nat) : (setCounter s off v).pins = s.pins := rfl
@[simp] theorem aclkMhz_setCounter (s : State) (off v : Nat) : (setCounter s off v).aclkMhz = s.aclkMhz := rfl
@[simp] theorem evlog_setCounter (s : State) (off v : Nat) : (setCounter s off v).evlog = s.evlog := rfl
@[simp] theorem repair_setCounter (s : State) (off v : Nat) : (setCounter s off v).repair = s.repair := rfl
@[simp] theorem pend_setCounter (s : State) (off v : Nat) : (setCounter s off v).pend = s.pend := rfl
@[simp] theorem lastErr_setCounter (s : State) (off v : Nat) : (setCounter s off v).lastErr = s.lastErr := rfl
@[simp] theorem outbox_setCounter (s : State) (off v : Nat) : (setCounter s off v).outbox = s.outbox := rfl
@[simp] theorem fresh_setCounter (s : State) (off v : Nat) : (setCounter s off v).fresh = s.fresh := rfl
@[simp] theorem pending_setCounter (s : State) (off v : Nat) : (setCounter s off v).pending = s.pending := rfl

@[simp] theorem arrays_addCounter (s : State) (off k : Nat) : (addCounter s off k).arrays = s.arrays := by
  unfold addCounter; split
  · rfl
  · exact arrays_setCounter ..
@[simp] theorem engines_addCounter (s : State) (off k : Nat) : (addCounter s off k).engines = s.engines := by
  unfold addCounter; split
  · rfl
  · exact engines_setCounter ..
@[simp] theorem mem_addCounter (s : State) (off k : Nat) : (addCounter s off k).mem = s.mem := by
  unfold addCounter; split
  · rfl
  · exact mem_setCounter ..
@[simp] theorem poison_addCounter (s : State) (off k : Nat) : (addCounter s off k).poison = s.poison := by
  unfold addCounter; split
  · rfl
  · exact poison_setCounter ..
@[simp] theorem sc_addCounter (s : State) (off k : Nat) : (addCounter s off k).sc = s.sc := by
  unfold addCounter; split
  · rfl
  · exact sc_setCounter ..
@[simp] theorem vc_addCounter (s : State) (off k : Nat) : (addCounter s off k).vc = s.vc := by
  unfold addCounter; split
  · rfl
  · exact vc_setCounter ..
@[simp] theorem tint_addCounter (s : State) (off k : Nat) : (addCounter s off k).tint = s.tint := by
  unfold addCounter; split
  · rfl
  · exact tint_setCounter ..
@[simp] theorem near_addCounter (s : State) (off k : Nat) : (addCounter s off k).near = s.near := by
  unfold addCounter; split
  · rfl
  · exact near_setCounter ..
@[simp] theorem far_addCounter (s : State) (off k : Nat) : (addCounter s off k).far = s.far := by
  unfold addCounter; split
  · rfl
  · exact far_setCounter ..
@[simp] theorem movers_addCounter (s : State) (off k : Nat) : (addCounter s off k).movers = s.movers := by
  unfold addCounter; split
  · rfl
  · exact movers_setCounter ..
@[simp] theorem items_addCounter (s : State) (off k : Nat) : (addCounter s off k).items = s.items := by
  unfold addCounter; split
  · rfl
  · exact items_setCounter ..
@[simp] theorem host_addCounter (s : State) (off k : Nat) : (addCounter s off k).host = s.host := by
  unfold addCounter; split
  · rfl
  · exact host_setCounter ..
@[simp] theorem fab_addCounter (s : State) (off k : Nat) : (addCounter s off k).fab = s.fab := by
  unfold addCounter; split
  · rfl
  · exact fab_setCounter ..
@[simp] theorem power_addCounter (s : State) (off k : Nat) : (addCounter s off k).power = s.power := by
  unfold addCounter; split
  · rfl
  · exact power_setCounter ..
@[simp] theorem thermal_addCounter (s : State) (off k : Nat) : (addCounter s off k).thermal = s.thermal := by
  unfold addCounter; split
  · rfl
  · exact thermal_setCounter ..
@[simp] theorem boot_addCounter (s : State) (off k : Nat) : (addCounter s off k).boot = s.boot := by
  unfold addCounter; split
  · rfl
  · exact boot_setCounter ..
@[simp] theorem pins_addCounter (s : State) (off k : Nat) : (addCounter s off k).pins = s.pins := by
  unfold addCounter; split
  · rfl
  · exact pins_setCounter ..
@[simp] theorem aclkMhz_addCounter (s : State) (off k : Nat) : (addCounter s off k).aclkMhz = s.aclkMhz := by
  unfold addCounter; split
  · rfl
  · exact aclkMhz_setCounter ..
@[simp] theorem evlog_addCounter (s : State) (off k : Nat) : (addCounter s off k).evlog = s.evlog := by
  unfold addCounter; split
  · rfl
  · exact evlog_setCounter ..
@[simp] theorem repair_addCounter (s : State) (off k : Nat) : (addCounter s off k).repair = s.repair := by
  unfold addCounter; split
  · rfl
  · exact repair_setCounter ..
@[simp] theorem pend_addCounter (s : State) (off k : Nat) : (addCounter s off k).pend = s.pend := by
  unfold addCounter; split
  · rfl
  · exact pend_setCounter ..
@[simp] theorem lastErr_addCounter (s : State) (off k : Nat) : (addCounter s off k).lastErr = s.lastErr := by
  unfold addCounter; split
  · rfl
  · exact lastErr_setCounter ..
@[simp] theorem outbox_addCounter (s : State) (off k : Nat) : (addCounter s off k).outbox = s.outbox := by
  unfold addCounter; split
  · rfl
  · exact outbox_setCounter ..
@[simp] theorem fresh_addCounter (s : State) (off k : Nat) : (addCounter s off k).fresh = s.fresh := by
  unfold addCounter; split
  · rfl
  · exact fresh_setCounter ..
@[simp] theorem pending_addCounter (s : State) (off k : Nat) : (addCounter s off k).pending = s.pending := by
  unfold addCounter; split
  · rfl
  · exact pending_setCounter ..

@[simp] theorem arrays_countEngine (s : State) (e off k : Nat) : (countEngine s e off k).arrays = s.arrays := by
  unfold countEngine; split
  · rfl
  · exact arrays_addCounter ..
@[simp] theorem engines_countEngine (s : State) (e off k : Nat) : (countEngine s e off k).engines = s.engines := by
  unfold countEngine; split
  · rfl
  · exact engines_addCounter ..
@[simp] theorem mem_countEngine (s : State) (e off k : Nat) : (countEngine s e off k).mem = s.mem := by
  unfold countEngine; split
  · rfl
  · exact mem_addCounter ..
@[simp] theorem poison_countEngine (s : State) (e off k : Nat) : (countEngine s e off k).poison = s.poison := by
  unfold countEngine; split
  · rfl
  · exact poison_addCounter ..
@[simp] theorem sc_countEngine (s : State) (e off k : Nat) : (countEngine s e off k).sc = s.sc := by
  unfold countEngine; split
  · rfl
  · exact sc_addCounter ..
@[simp] theorem vc_countEngine (s : State) (e off k : Nat) : (countEngine s e off k).vc = s.vc := by
  unfold countEngine; split
  · rfl
  · exact vc_addCounter ..
@[simp] theorem tint_countEngine (s : State) (e off k : Nat) : (countEngine s e off k).tint = s.tint := by
  unfold countEngine; split
  · rfl
  · exact tint_addCounter ..
@[simp] theorem near_countEngine (s : State) (e off k : Nat) : (countEngine s e off k).near = s.near := by
  unfold countEngine; split
  · rfl
  · exact near_addCounter ..
@[simp] theorem far_countEngine (s : State) (e off k : Nat) : (countEngine s e off k).far = s.far := by
  unfold countEngine; split
  · rfl
  · exact far_addCounter ..
@[simp] theorem movers_countEngine (s : State) (e off k : Nat) : (countEngine s e off k).movers = s.movers := by
  unfold countEngine; split
  · rfl
  · exact movers_addCounter ..
@[simp] theorem items_countEngine (s : State) (e off k : Nat) : (countEngine s e off k).items = s.items := by
  unfold countEngine; split
  · rfl
  · exact items_addCounter ..
@[simp] theorem host_countEngine (s : State) (e off k : Nat) : (countEngine s e off k).host = s.host := by
  unfold countEngine; split
  · rfl
  · exact host_addCounter ..
@[simp] theorem fab_countEngine (s : State) (e off k : Nat) : (countEngine s e off k).fab = s.fab := by
  unfold countEngine; split
  · rfl
  · exact fab_addCounter ..
@[simp] theorem power_countEngine (s : State) (e off k : Nat) : (countEngine s e off k).power = s.power := by
  unfold countEngine; split
  · rfl
  · exact power_addCounter ..
@[simp] theorem thermal_countEngine (s : State) (e off k : Nat) : (countEngine s e off k).thermal = s.thermal := by
  unfold countEngine; split
  · rfl
  · exact thermal_addCounter ..
@[simp] theorem boot_countEngine (s : State) (e off k : Nat) : (countEngine s e off k).boot = s.boot := by
  unfold countEngine; split
  · rfl
  · exact boot_addCounter ..
@[simp] theorem pins_countEngine (s : State) (e off k : Nat) : (countEngine s e off k).pins = s.pins := by
  unfold countEngine; split
  · rfl
  · exact pins_addCounter ..
@[simp] theorem aclkMhz_countEngine (s : State) (e off k : Nat) : (countEngine s e off k).aclkMhz = s.aclkMhz := by
  unfold countEngine; split
  · rfl
  · exact aclkMhz_addCounter ..
@[simp] theorem evlog_countEngine (s : State) (e off k : Nat) : (countEngine s e off k).evlog = s.evlog := by
  unfold countEngine; split
  · rfl
  · exact evlog_addCounter ..
@[simp] theorem repair_countEngine (s : State) (e off k : Nat) : (countEngine s e off k).repair = s.repair := by
  unfold countEngine; split
  · rfl
  · exact repair_addCounter ..
@[simp] theorem pend_countEngine (s : State) (e off k : Nat) : (countEngine s e off k).pend = s.pend := by
  unfold countEngine; split
  · rfl
  · exact pend_addCounter ..
@[simp] theorem lastErr_countEngine (s : State) (e off k : Nat) : (countEngine s e off k).lastErr = s.lastErr := by
  unfold countEngine; split
  · rfl
  · exact lastErr_addCounter ..
@[simp] theorem outbox_countEngine (s : State) (e off k : Nat) : (countEngine s e off k).outbox = s.outbox := by
  unfold countEngine; split
  · rfl
  · exact outbox_addCounter ..
@[simp] theorem fresh_countEngine (s : State) (e off k : Nat) : (countEngine s e off k).fresh = s.fresh := by
  unfold countEngine; split
  · rfl
  · exact fresh_addCounter ..
@[simp] theorem pending_countEngine (s : State) (e off k : Nat) : (countEngine s e off k).pending = s.pending := by
  unfold countEngine; split
  · rfl
  · exact pending_addCounter ..

@[simp] theorem regs_emit (s : State) (o : Output) : (emit s o).regs = s.regs := rfl
@[simp] theorem arrays_emit (s : State) (o : Output) : (emit s o).arrays = s.arrays := rfl
@[simp] theorem engines_emit (s : State) (o : Output) : (emit s o).engines = s.engines := rfl
@[simp] theorem mem_emit (s : State) (o : Output) : (emit s o).mem = s.mem := rfl
@[simp] theorem poison_emit (s : State) (o : Output) : (emit s o).poison = s.poison := rfl
@[simp] theorem sc_emit (s : State) (o : Output) : (emit s o).sc = s.sc := rfl
@[simp] theorem vc_emit (s : State) (o : Output) : (emit s o).vc = s.vc := rfl
@[simp] theorem tint_emit (s : State) (o : Output) : (emit s o).tint = s.tint := rfl
@[simp] theorem near_emit (s : State) (o : Output) : (emit s o).near = s.near := rfl
@[simp] theorem far_emit (s : State) (o : Output) : (emit s o).far = s.far := rfl
@[simp] theorem movers_emit (s : State) (o : Output) : (emit s o).movers = s.movers := rfl
@[simp] theorem items_emit (s : State) (o : Output) : (emit s o).items = s.items := rfl
@[simp] theorem host_emit (s : State) (o : Output) : (emit s o).host = s.host := rfl
@[simp] theorem fab_emit (s : State) (o : Output) : (emit s o).fab = s.fab := rfl
@[simp] theorem power_emit (s : State) (o : Output) : (emit s o).power = s.power := rfl
@[simp] theorem thermal_emit (s : State) (o : Output) : (emit s o).thermal = s.thermal := rfl
@[simp] theorem boot_emit (s : State) (o : Output) : (emit s o).boot = s.boot := rfl
@[simp] theorem pins_emit (s : State) (o : Output) : (emit s o).pins = s.pins := rfl
@[simp] theorem aclkMhz_emit (s : State) (o : Output) : (emit s o).aclkMhz = s.aclkMhz := rfl
@[simp] theorem evlog_emit (s : State) (o : Output) : (emit s o).evlog = s.evlog := rfl
@[simp] theorem repair_emit (s : State) (o : Output) : (emit s o).repair = s.repair := rfl
@[simp] theorem pend_emit (s : State) (o : Output) : (emit s o).pend = s.pend := rfl
@[simp] theorem lastErr_emit (s : State) (o : Output) : (emit s o).lastErr = s.lastErr := rfl
@[simp] theorem fresh_emit (s : State) (o : Output) : (emit s o).fresh = s.fresh := rfl
@[simp] theorem pending_emit (s : State) (o : Output) : (emit s o).pending = s.pending := rfl

@[simp] theorem regs_setArr (s : State) (n : Nat) (a : ArraySt) : (setArr s n a).regs = s.regs := rfl
@[simp] theorem engines_setArr (s : State) (n : Nat) (a : ArraySt) : (setArr s n a).engines = s.engines := rfl
@[simp] theorem mem_setArr (s : State) (n : Nat) (a : ArraySt) : (setArr s n a).mem = s.mem := rfl
@[simp] theorem poison_setArr (s : State) (n : Nat) (a : ArraySt) : (setArr s n a).poison = s.poison := rfl
@[simp] theorem sc_setArr (s : State) (n : Nat) (a : ArraySt) : (setArr s n a).sc = s.sc := rfl
@[simp] theorem vc_setArr (s : State) (n : Nat) (a : ArraySt) : (setArr s n a).vc = s.vc := rfl
@[simp] theorem tint_setArr (s : State) (n : Nat) (a : ArraySt) : (setArr s n a).tint = s.tint := rfl
@[simp] theorem near_setArr (s : State) (n : Nat) (a : ArraySt) : (setArr s n a).near = s.near := rfl
@[simp] theorem far_setArr (s : State) (n : Nat) (a : ArraySt) : (setArr s n a).far = s.far := rfl
@[simp] theorem movers_setArr (s : State) (n : Nat) (a : ArraySt) : (setArr s n a).movers = s.movers := rfl
@[simp] theorem items_setArr (s : State) (n : Nat) (a : ArraySt) : (setArr s n a).items = s.items := rfl
@[simp] theorem host_setArr (s : State) (n : Nat) (a : ArraySt) : (setArr s n a).host = s.host := rfl
@[simp] theorem fab_setArr (s : State) (n : Nat) (a : ArraySt) : (setArr s n a).fab = s.fab := rfl
@[simp] theorem power_setArr (s : State) (n : Nat) (a : ArraySt) : (setArr s n a).power = s.power := rfl
@[simp] theorem thermal_setArr (s : State) (n : Nat) (a : ArraySt) : (setArr s n a).thermal = s.thermal := rfl
@[simp] theorem boot_setArr (s : State) (n : Nat) (a : ArraySt) : (setArr s n a).boot = s.boot := rfl
@[simp] theorem pins_setArr (s : State) (n : Nat) (a : ArraySt) : (setArr s n a).pins = s.pins := rfl
@[simp] theorem aclkMhz_setArr (s : State) (n : Nat) (a : ArraySt) : (setArr s n a).aclkMhz = s.aclkMhz := rfl
@[simp] theorem evlog_setArr (s : State) (n : Nat) (a : ArraySt) : (setArr s n a).evlog = s.evlog := rfl
@[simp] theorem repair_setArr (s : State) (n : Nat) (a : ArraySt) : (setArr s n a).repair = s.repair := rfl
@[simp] theorem pend_setArr (s : State) (n : Nat) (a : ArraySt) : (setArr s n a).pend = s.pend := rfl
@[simp] theorem lastErr_setArr (s : State) (n : Nat) (a : ArraySt) : (setArr s n a).lastErr = s.lastErr := rfl
@[simp] theorem outbox_setArr (s : State) (n : Nat) (a : ArraySt) : (setArr s n a).outbox = s.outbox := rfl
@[simp] theorem fresh_setArr (s : State) (n : Nat) (a : ArraySt) : (setArr s n a).fresh = s.fresh := rfl
@[simp] theorem pending_setArr (s : State) (n : Nat) (a : ArraySt) : (setArr s n a).pending = s.pending := rfl

@[simp] theorem regs_setEng (s : State) (e : Nat) (x : Engine) : (setEng s e x).regs = s.regs := rfl
@[simp] theorem arrays_setEng (s : State) (e : Nat) (x : Engine) : (setEng s e x).arrays = s.arrays := rfl
@[simp] theorem mem_setEng (s : State) (e : Nat) (x : Engine) : (setEng s e x).mem = s.mem := rfl
@[simp] theorem poison_setEng (s : State) (e : Nat) (x : Engine) : (setEng s e x).poison = s.poison := rfl
@[simp] theorem sc_setEng (s : State) (e : Nat) (x : Engine) : (setEng s e x).sc = s.sc := rfl
@[simp] theorem vc_setEng (s : State) (e : Nat) (x : Engine) : (setEng s e x).vc = s.vc := rfl
@[simp] theorem tint_setEng (s : State) (e : Nat) (x : Engine) : (setEng s e x).tint = s.tint := rfl
@[simp] theorem near_setEng (s : State) (e : Nat) (x : Engine) : (setEng s e x).near = s.near := rfl
@[simp] theorem far_setEng (s : State) (e : Nat) (x : Engine) : (setEng s e x).far = s.far := rfl
@[simp] theorem movers_setEng (s : State) (e : Nat) (x : Engine) : (setEng s e x).movers = s.movers := rfl
@[simp] theorem items_setEng (s : State) (e : Nat) (x : Engine) : (setEng s e x).items = s.items := rfl
@[simp] theorem host_setEng (s : State) (e : Nat) (x : Engine) : (setEng s e x).host = s.host := rfl
@[simp] theorem fab_setEng (s : State) (e : Nat) (x : Engine) : (setEng s e x).fab = s.fab := rfl
@[simp] theorem power_setEng (s : State) (e : Nat) (x : Engine) : (setEng s e x).power = s.power := rfl
@[simp] theorem thermal_setEng (s : State) (e : Nat) (x : Engine) : (setEng s e x).thermal = s.thermal := rfl
@[simp] theorem boot_setEng (s : State) (e : Nat) (x : Engine) : (setEng s e x).boot = s.boot := rfl
@[simp] theorem pins_setEng (s : State) (e : Nat) (x : Engine) : (setEng s e x).pins = s.pins := rfl
@[simp] theorem aclkMhz_setEng (s : State) (e : Nat) (x : Engine) : (setEng s e x).aclkMhz = s.aclkMhz := rfl
@[simp] theorem evlog_setEng (s : State) (e : Nat) (x : Engine) : (setEng s e x).evlog = s.evlog := rfl
@[simp] theorem repair_setEng (s : State) (e : Nat) (x : Engine) : (setEng s e x).repair = s.repair := rfl
@[simp] theorem pend_setEng (s : State) (e : Nat) (x : Engine) : (setEng s e x).pend = s.pend := rfl
@[simp] theorem lastErr_setEng (s : State) (e : Nat) (x : Engine) : (setEng s e x).lastErr = s.lastErr := rfl
@[simp] theorem outbox_setEng (s : State) (e : Nat) (x : Engine) : (setEng s e x).outbox = s.outbox := rfl
@[simp] theorem fresh_setEng (s : State) (e : Nat) (x : Engine) : (setEng s e x).fresh = s.fresh := rfl
@[simp] theorem pending_setEng (s : State) (e : Nat) (x : Engine) : (setEng s e x).pending = s.pending := rfl

@[simp] theorem regs_setGrp (s : State) (e sl : Nat) (g : Group) : (setGrp s e sl g).regs = s.regs := rfl
@[simp] theorem arrays_setGrp (s : State) (e sl : Nat) (g : Group) : (setGrp s e sl g).arrays = s.arrays := rfl
@[simp] theorem mem_setGrp (s : State) (e sl : Nat) (g : Group) : (setGrp s e sl g).mem = s.mem := rfl
@[simp] theorem poison_setGrp (s : State) (e sl : Nat) (g : Group) : (setGrp s e sl g).poison = s.poison := rfl
@[simp] theorem sc_setGrp (s : State) (e sl : Nat) (g : Group) : (setGrp s e sl g).sc = s.sc := rfl
@[simp] theorem vc_setGrp (s : State) (e sl : Nat) (g : Group) : (setGrp s e sl g).vc = s.vc := rfl
@[simp] theorem tint_setGrp (s : State) (e sl : Nat) (g : Group) : (setGrp s e sl g).tint = s.tint := rfl
@[simp] theorem near_setGrp (s : State) (e sl : Nat) (g : Group) : (setGrp s e sl g).near = s.near := rfl
@[simp] theorem far_setGrp (s : State) (e sl : Nat) (g : Group) : (setGrp s e sl g).far = s.far := rfl
@[simp] theorem movers_setGrp (s : State) (e sl : Nat) (g : Group) : (setGrp s e sl g).movers = s.movers := rfl
@[simp] theorem items_setGrp (s : State) (e sl : Nat) (g : Group) : (setGrp s e sl g).items = s.items := rfl
@[simp] theorem host_setGrp (s : State) (e sl : Nat) (g : Group) : (setGrp s e sl g).host = s.host := rfl
@[simp] theorem fab_setGrp (s : State) (e sl : Nat) (g : Group) : (setGrp s e sl g).fab = s.fab := rfl
@[simp] theorem power_setGrp (s : State) (e sl : Nat) (g : Group) : (setGrp s e sl g).power = s.power := rfl
@[simp] theorem thermal_setGrp (s : State) (e sl : Nat) (g : Group) : (setGrp s e sl g).thermal = s.thermal := rfl
@[simp] theorem boot_setGrp (s : State) (e sl : Nat) (g : Group) : (setGrp s e sl g).boot = s.boot := rfl
@[simp] theorem pins_setGrp (s : State) (e sl : Nat) (g : Group) : (setGrp s e sl g).pins = s.pins := rfl
@[simp] theorem aclkMhz_setGrp (s : State) (e sl : Nat) (g : Group) : (setGrp s e sl g).aclkMhz = s.aclkMhz := rfl
@[simp] theorem evlog_setGrp (s : State) (e sl : Nat) (g : Group) : (setGrp s e sl g).evlog = s.evlog := rfl
@[simp] theorem repair_setGrp (s : State) (e sl : Nat) (g : Group) : (setGrp s e sl g).repair = s.repair := rfl
@[simp] theorem pend_setGrp (s : State) (e sl : Nat) (g : Group) : (setGrp s e sl g).pend = s.pend := rfl
@[simp] theorem lastErr_setGrp (s : State) (e sl : Nat) (g : Group) : (setGrp s e sl g).lastErr = s.lastErr := rfl
@[simp] theorem outbox_setGrp (s : State) (e sl : Nat) (g : Group) : (setGrp s e sl g).outbox = s.outbox := rfl
@[simp] theorem fresh_setGrp (s : State) (e sl : Nat) (g : Group) : (setGrp s e sl g).fresh = s.fresh := rfl
@[simp] theorem pending_setGrp (s : State) (e sl : Nat) (g : Group) : (setGrp s e sl g).pending = s.pending := rfl

@[simp] theorem regs_setRing (s : State) (e a : Nat) (r : Ring) : (setRing s e a r).regs = s.regs := rfl
@[simp] theorem arrays_setRing (s : State) (e a : Nat) (r : Ring) : (setRing s e a r).arrays = s.arrays := rfl
@[simp] theorem mem_setRing (s : State) (e a : Nat) (r : Ring) : (setRing s e a r).mem = s.mem := rfl
@[simp] theorem poison_setRing (s : State) (e a : Nat) (r : Ring) : (setRing s e a r).poison = s.poison := rfl
@[simp] theorem sc_setRing (s : State) (e a : Nat) (r : Ring) : (setRing s e a r).sc = s.sc := rfl
@[simp] theorem vc_setRing (s : State) (e a : Nat) (r : Ring) : (setRing s e a r).vc = s.vc := rfl
@[simp] theorem tint_setRing (s : State) (e a : Nat) (r : Ring) : (setRing s e a r).tint = s.tint := rfl
@[simp] theorem near_setRing (s : State) (e a : Nat) (r : Ring) : (setRing s e a r).near = s.near := rfl
@[simp] theorem far_setRing (s : State) (e a : Nat) (r : Ring) : (setRing s e a r).far = s.far := rfl
@[simp] theorem movers_setRing (s : State) (e a : Nat) (r : Ring) : (setRing s e a r).movers = s.movers := rfl
@[simp] theorem items_setRing (s : State) (e a : Nat) (r : Ring) : (setRing s e a r).items = s.items := rfl
@[simp] theorem host_setRing (s : State) (e a : Nat) (r : Ring) : (setRing s e a r).host = s.host := rfl
@[simp] theorem fab_setRing (s : State) (e a : Nat) (r : Ring) : (setRing s e a r).fab = s.fab := rfl
@[simp] theorem power_setRing (s : State) (e a : Nat) (r : Ring) : (setRing s e a r).power = s.power := rfl
@[simp] theorem thermal_setRing (s : State) (e a : Nat) (r : Ring) : (setRing s e a r).thermal = s.thermal := rfl
@[simp] theorem boot_setRing (s : State) (e a : Nat) (r : Ring) : (setRing s e a r).boot = s.boot := rfl
@[simp] theorem pins_setRing (s : State) (e a : Nat) (r : Ring) : (setRing s e a r).pins = s.pins := rfl
@[simp] theorem aclkMhz_setRing (s : State) (e a : Nat) (r : Ring) : (setRing s e a r).aclkMhz = s.aclkMhz := rfl
@[simp] theorem evlog_setRing (s : State) (e a : Nat) (r : Ring) : (setRing s e a r).evlog = s.evlog := rfl
@[simp] theorem repair_setRing (s : State) (e a : Nat) (r : Ring) : (setRing s e a r).repair = s.repair := rfl
@[simp] theorem pend_setRing (s : State) (e a : Nat) (r : Ring) : (setRing s e a r).pend = s.pend := rfl
@[simp] theorem lastErr_setRing (s : State) (e a : Nat) (r : Ring) : (setRing s e a r).lastErr = s.lastErr := rfl
@[simp] theorem outbox_setRing (s : State) (e a : Nat) (r : Ring) : (setRing s e a r).outbox = s.outbox := rfl
@[simp] theorem fresh_setRing (s : State) (e a : Nat) (r : Ring) : (setRing s e a r).fresh = s.fresh := rfl
@[simp] theorem pending_setRing (s : State) (e a : Nat) (r : Ring) : (setRing s e a r).pending = s.pending := rfl

@[simp] theorem regs_logEvent (s : State) (cls code : Nat) (detail : List Word) : (logEvent s cls code detail).regs = s.regs := by
  unfold logEvent; rfl
@[simp] theorem arrays_logEvent (s : State) (cls code : Nat) (detail : List Word) : (logEvent s cls code detail).arrays = s.arrays := by
  unfold logEvent; rfl
@[simp] theorem engines_logEvent (s : State) (cls code : Nat) (detail : List Word) : (logEvent s cls code detail).engines = s.engines := by
  unfold logEvent; rfl
@[simp] theorem mem_logEvent (s : State) (cls code : Nat) (detail : List Word) : (logEvent s cls code detail).mem = s.mem := by
  unfold logEvent; rfl
@[simp] theorem poison_logEvent (s : State) (cls code : Nat) (detail : List Word) : (logEvent s cls code detail).poison = s.poison := by
  unfold logEvent; rfl
@[simp] theorem sc_logEvent (s : State) (cls code : Nat) (detail : List Word) : (logEvent s cls code detail).sc = s.sc := by
  unfold logEvent; rfl
@[simp] theorem vc_logEvent (s : State) (cls code : Nat) (detail : List Word) : (logEvent s cls code detail).vc = s.vc := by
  unfold logEvent; rfl
@[simp] theorem tint_logEvent (s : State) (cls code : Nat) (detail : List Word) : (logEvent s cls code detail).tint = s.tint := by
  unfold logEvent; rfl
@[simp] theorem near_logEvent (s : State) (cls code : Nat) (detail : List Word) : (logEvent s cls code detail).near = s.near := by
  unfold logEvent; rfl
@[simp] theorem far_logEvent (s : State) (cls code : Nat) (detail : List Word) : (logEvent s cls code detail).far = s.far := by
  unfold logEvent; rfl
@[simp] theorem movers_logEvent (s : State) (cls code : Nat) (detail : List Word) : (logEvent s cls code detail).movers = s.movers := by
  unfold logEvent; rfl
@[simp] theorem items_logEvent (s : State) (cls code : Nat) (detail : List Word) : (logEvent s cls code detail).items = s.items := by
  unfold logEvent; rfl
@[simp] theorem host_logEvent (s : State) (cls code : Nat) (detail : List Word) : (logEvent s cls code detail).host = s.host := by
  unfold logEvent; rfl
@[simp] theorem fab_logEvent (s : State) (cls code : Nat) (detail : List Word) : (logEvent s cls code detail).fab = s.fab := by
  unfold logEvent; rfl
@[simp] theorem power_logEvent (s : State) (cls code : Nat) (detail : List Word) : (logEvent s cls code detail).power = s.power := by
  unfold logEvent; rfl
@[simp] theorem thermal_logEvent (s : State) (cls code : Nat) (detail : List Word) : (logEvent s cls code detail).thermal = s.thermal := by
  unfold logEvent; rfl
@[simp] theorem boot_logEvent (s : State) (cls code : Nat) (detail : List Word) : (logEvent s cls code detail).boot = s.boot := by
  unfold logEvent; rfl
@[simp] theorem pins_logEvent (s : State) (cls code : Nat) (detail : List Word) : (logEvent s cls code detail).pins = s.pins := by
  unfold logEvent; rfl
@[simp] theorem aclkMhz_logEvent (s : State) (cls code : Nat) (detail : List Word) : (logEvent s cls code detail).aclkMhz = s.aclkMhz := by
  unfold logEvent; rfl
@[simp] theorem repair_logEvent (s : State) (cls code : Nat) (detail : List Word) : (logEvent s cls code detail).repair = s.repair := by
  unfold logEvent; rfl
@[simp] theorem pend_logEvent (s : State) (cls code : Nat) (detail : List Word) : (logEvent s cls code detail).pend = s.pend := by
  unfold logEvent; rfl
@[simp] theorem lastErr_logEvent (s : State) (cls code : Nat) (detail : List Word) : (logEvent s cls code detail).lastErr = s.lastErr := by
  unfold logEvent; rfl
@[simp] theorem outbox_logEvent (s : State) (cls code : Nat) (detail : List Word) : (logEvent s cls code detail).outbox = s.outbox := by
  unfold logEvent; rfl
@[simp] theorem fresh_logEvent (s : State) (cls code : Nat) (detail : List Word) : (logEvent s cls code detail).fresh = s.fresh := by
  unfold logEvent; rfl
@[simp] theorem pending_logEvent (s : State) (cls code : Nat) (detail : List Word) : (logEvent s cls code detail).pending = s.pending := by
  unfold logEvent; rfl

@[simp] theorem regs_setPoison (s : State) (u : Nat) (p : Bool) : (setPoison s u p).regs = s.regs := rfl
@[simp] theorem arrays_setPoison (s : State) (u : Nat) (p : Bool) : (setPoison s u p).arrays = s.arrays := rfl
@[simp] theorem engines_setPoison (s : State) (u : Nat) (p : Bool) : (setPoison s u p).engines = s.engines := rfl
@[simp] theorem mem_setPoison (s : State) (u : Nat) (p : Bool) : (setPoison s u p).mem = s.mem := rfl
@[simp] theorem sc_setPoison (s : State) (u : Nat) (p : Bool) : (setPoison s u p).sc = s.sc := rfl
@[simp] theorem vc_setPoison (s : State) (u : Nat) (p : Bool) : (setPoison s u p).vc = s.vc := rfl
@[simp] theorem tint_setPoison (s : State) (u : Nat) (p : Bool) : (setPoison s u p).tint = s.tint := rfl
@[simp] theorem near_setPoison (s : State) (u : Nat) (p : Bool) : (setPoison s u p).near = s.near := rfl
@[simp] theorem far_setPoison (s : State) (u : Nat) (p : Bool) : (setPoison s u p).far = s.far := rfl
@[simp] theorem movers_setPoison (s : State) (u : Nat) (p : Bool) : (setPoison s u p).movers = s.movers := rfl
@[simp] theorem items_setPoison (s : State) (u : Nat) (p : Bool) : (setPoison s u p).items = s.items := rfl
@[simp] theorem host_setPoison (s : State) (u : Nat) (p : Bool) : (setPoison s u p).host = s.host := rfl
@[simp] theorem fab_setPoison (s : State) (u : Nat) (p : Bool) : (setPoison s u p).fab = s.fab := rfl
@[simp] theorem power_setPoison (s : State) (u : Nat) (p : Bool) : (setPoison s u p).power = s.power := rfl
@[simp] theorem thermal_setPoison (s : State) (u : Nat) (p : Bool) : (setPoison s u p).thermal = s.thermal := rfl
@[simp] theorem boot_setPoison (s : State) (u : Nat) (p : Bool) : (setPoison s u p).boot = s.boot := rfl
@[simp] theorem pins_setPoison (s : State) (u : Nat) (p : Bool) : (setPoison s u p).pins = s.pins := rfl
@[simp] theorem aclkMhz_setPoison (s : State) (u : Nat) (p : Bool) : (setPoison s u p).aclkMhz = s.aclkMhz := rfl
@[simp] theorem evlog_setPoison (s : State) (u : Nat) (p : Bool) : (setPoison s u p).evlog = s.evlog := rfl
@[simp] theorem repair_setPoison (s : State) (u : Nat) (p : Bool) : (setPoison s u p).repair = s.repair := rfl
@[simp] theorem pend_setPoison (s : State) (u : Nat) (p : Bool) : (setPoison s u p).pend = s.pend := rfl
@[simp] theorem lastErr_setPoison (s : State) (u : Nat) (p : Bool) : (setPoison s u p).lastErr = s.lastErr := rfl
@[simp] theorem outbox_setPoison (s : State) (u : Nat) (p : Bool) : (setPoison s u p).outbox = s.outbox := rfl
@[simp] theorem fresh_setPoison (s : State) (u : Nat) (p : Bool) : (setPoison s u p).fresh = s.fresh := rfl
@[simp] theorem pending_setPoison (s : State) (u : Nat) (p : Bool) : (setPoison s u p).pending = s.pending := rfl

@[simp] theorem regs_setFarPort (s : State) (p : Nat) (x : FarPort) : (setFarPort s p x).regs = s.regs := rfl
@[simp] theorem arrays_setFarPort (s : State) (p : Nat) (x : FarPort) : (setFarPort s p x).arrays = s.arrays := rfl
@[simp] theorem engines_setFarPort (s : State) (p : Nat) (x : FarPort) : (setFarPort s p x).engines = s.engines := rfl
@[simp] theorem mem_setFarPort (s : State) (p : Nat) (x : FarPort) : (setFarPort s p x).mem = s.mem := rfl
@[simp] theorem poison_setFarPort (s : State) (p : Nat) (x : FarPort) : (setFarPort s p x).poison = s.poison := rfl
@[simp] theorem sc_setFarPort (s : State) (p : Nat) (x : FarPort) : (setFarPort s p x).sc = s.sc := rfl
@[simp] theorem vc_setFarPort (s : State) (p : Nat) (x : FarPort) : (setFarPort s p x).vc = s.vc := rfl
@[simp] theorem tint_setFarPort (s : State) (p : Nat) (x : FarPort) : (setFarPort s p x).tint = s.tint := rfl
@[simp] theorem near_setFarPort (s : State) (p : Nat) (x : FarPort) : (setFarPort s p x).near = s.near := rfl
@[simp] theorem movers_setFarPort (s : State) (p : Nat) (x : FarPort) : (setFarPort s p x).movers = s.movers := rfl
@[simp] theorem items_setFarPort (s : State) (p : Nat) (x : FarPort) : (setFarPort s p x).items = s.items := rfl
@[simp] theorem host_setFarPort (s : State) (p : Nat) (x : FarPort) : (setFarPort s p x).host = s.host := rfl
@[simp] theorem fab_setFarPort (s : State) (p : Nat) (x : FarPort) : (setFarPort s p x).fab = s.fab := rfl
@[simp] theorem power_setFarPort (s : State) (p : Nat) (x : FarPort) : (setFarPort s p x).power = s.power := rfl
@[simp] theorem thermal_setFarPort (s : State) (p : Nat) (x : FarPort) : (setFarPort s p x).thermal = s.thermal := rfl
@[simp] theorem boot_setFarPort (s : State) (p : Nat) (x : FarPort) : (setFarPort s p x).boot = s.boot := rfl
@[simp] theorem pins_setFarPort (s : State) (p : Nat) (x : FarPort) : (setFarPort s p x).pins = s.pins := rfl
@[simp] theorem aclkMhz_setFarPort (s : State) (p : Nat) (x : FarPort) : (setFarPort s p x).aclkMhz = s.aclkMhz := rfl
@[simp] theorem evlog_setFarPort (s : State) (p : Nat) (x : FarPort) : (setFarPort s p x).evlog = s.evlog := rfl
@[simp] theorem repair_setFarPort (s : State) (p : Nat) (x : FarPort) : (setFarPort s p x).repair = s.repair := rfl
@[simp] theorem pend_setFarPort (s : State) (p : Nat) (x : FarPort) : (setFarPort s p x).pend = s.pend := rfl
@[simp] theorem lastErr_setFarPort (s : State) (p : Nat) (x : FarPort) : (setFarPort s p x).lastErr = s.lastErr := rfl
@[simp] theorem outbox_setFarPort (s : State) (p : Nat) (x : FarPort) : (setFarPort s p x).outbox = s.outbox := rfl
@[simp] theorem fresh_setFarPort (s : State) (p : Nat) (x : FarPort) : (setFarPort s p x).fresh = s.fresh := rfl
@[simp] theorem pending_setFarPort (s : State) (p : Nat) (x : FarPort) : (setFarPort s p x).pending = s.pending := rfl

@[simp] theorem regs_setFarModule (s : State) (p : Nat) (x : Fm576) : (setFarModule s p x).regs = s.regs := rfl
@[simp] theorem arrays_setFarModule (s : State) (p : Nat) (x : Fm576) : (setFarModule s p x).arrays = s.arrays := rfl
@[simp] theorem engines_setFarModule (s : State) (p : Nat) (x : Fm576) : (setFarModule s p x).engines = s.engines := rfl
@[simp] theorem mem_setFarModule (s : State) (p : Nat) (x : Fm576) : (setFarModule s p x).mem = s.mem := rfl
@[simp] theorem poison_setFarModule (s : State) (p : Nat) (x : Fm576) : (setFarModule s p x).poison = s.poison := rfl
@[simp] theorem sc_setFarModule (s : State) (p : Nat) (x : Fm576) : (setFarModule s p x).sc = s.sc := rfl
@[simp] theorem vc_setFarModule (s : State) (p : Nat) (x : Fm576) : (setFarModule s p x).vc = s.vc := rfl
@[simp] theorem tint_setFarModule (s : State) (p : Nat) (x : Fm576) : (setFarModule s p x).tint = s.tint := rfl
@[simp] theorem near_setFarModule (s : State) (p : Nat) (x : Fm576) : (setFarModule s p x).near = s.near := rfl
@[simp] theorem movers_setFarModule (s : State) (p : Nat) (x : Fm576) : (setFarModule s p x).movers = s.movers := rfl
@[simp] theorem items_setFarModule (s : State) (p : Nat) (x : Fm576) : (setFarModule s p x).items = s.items := rfl
@[simp] theorem host_setFarModule (s : State) (p : Nat) (x : Fm576) : (setFarModule s p x).host = s.host := rfl
@[simp] theorem fab_setFarModule (s : State) (p : Nat) (x : Fm576) : (setFarModule s p x).fab = s.fab := rfl
@[simp] theorem power_setFarModule (s : State) (p : Nat) (x : Fm576) : (setFarModule s p x).power = s.power := rfl
@[simp] theorem thermal_setFarModule (s : State) (p : Nat) (x : Fm576) : (setFarModule s p x).thermal = s.thermal := rfl
@[simp] theorem boot_setFarModule (s : State) (p : Nat) (x : Fm576) : (setFarModule s p x).boot = s.boot := rfl
@[simp] theorem pins_setFarModule (s : State) (p : Nat) (x : Fm576) : (setFarModule s p x).pins = s.pins := rfl
@[simp] theorem aclkMhz_setFarModule (s : State) (p : Nat) (x : Fm576) : (setFarModule s p x).aclkMhz = s.aclkMhz := rfl
@[simp] theorem evlog_setFarModule (s : State) (p : Nat) (x : Fm576) : (setFarModule s p x).evlog = s.evlog := rfl
@[simp] theorem repair_setFarModule (s : State) (p : Nat) (x : Fm576) : (setFarModule s p x).repair = s.repair := rfl
@[simp] theorem pend_setFarModule (s : State) (p : Nat) (x : Fm576) : (setFarModule s p x).pend = s.pend := rfl
@[simp] theorem lastErr_setFarModule (s : State) (p : Nat) (x : Fm576) : (setFarModule s p x).lastErr = s.lastErr := rfl
@[simp] theorem outbox_setFarModule (s : State) (p : Nat) (x : Fm576) : (setFarModule s p x).outbox = s.outbox := rfl
@[simp] theorem fresh_setFarModule (s : State) (p : Nat) (x : Fm576) : (setFarModule s p x).fresh = s.fresh := rfl
@[simp] theorem pending_setFarModule (s : State) (p : Nat) (x : Fm576) : (setFarModule s p x).pending = s.pending := rfl

end Sys2Proof.Machine
end

