-- ==== Sys2Proof/Laws/Issue.lean ====
section
/-! SUPPORT. What a group-issue leaves (R195, R212, R223, R234): the engine, its slots, its counters, and the group. -/

namespace Sys2Proof.Machine

theorem eng_setEng_self (s : State) (e : Nat) (x : Engine) : eng (setEng s e x) e = x := by
  simp [eng, setEng]

theorem eng_setEng_ne {e e' : Nat} (s : State) (x : Engine) (h : e ≠ e') : eng (setEng s e x) e' = eng s e' := by
  simp [eng, setEng, lookD_put_ne _ _ _ h]

/-- An engine depends on nothing but the table of engines. -/
theorem eng_of_engines {s t : State} (h : t.engines = s.engines) (e : Nat) : eng t e = eng s e := by
  unfold eng; rw [h]

theorem grp_of_engines {s t : State} (h : t.engines = s.engines) (e sl : Nat) : grp t e sl = grp s e sl := by
  unfold grp; rw [eng_of_engines h]

theorem regWord_of_regs {s t : State} (h : t.regs = s.regs) (off : Nat) : regWord t off = regWord s off := by
  unfold regWord; rw [h]

theorem regBit_of_regs {s t : State} (h : t.regs = s.regs) (off i : Nat) : regBit t off i = regBit s off i := by
  unfold regBit; rw [regWord_of_regs h]

theorem regFld_of_regs {s t : State} (h : t.regs = s.regs) (off lo w : Nat) : regFld t off lo w = regFld s off lo w := by
  unfold regFld; rw [regWord_of_regs h]

theorem grp_setGrp_self (s : State) (e sl : Nat) (g : Group) : grp (setGrp s e sl g) e sl = some g := by
  simp [grp, setGrp, eng_setEng_self]

theorem grp_setGrp_ne {sl sl' : Nat} (s : State) (e : Nat) (g : Group) (h : sl ≠ sl') :
    grp (setGrp s e sl g) e sl' = grp s e sl' := by
  simp [grp, setGrp, eng_setEng_self, look_put_ne _ _ h]

/-- A counter pair changes only its two words. -/
theorem regWord_setCounter (s : State) (off v o : Nat) (h1 : off ≠ o) (h2 : off + 4 ≠ o) :
    regWord (setCounter s off v) o = regWord s o := by
  unfold setCounter
  rw [regWord_setRegWord_ne _ _ h2, regWord_setRegWord_ne _ _ h1]

theorem regWord_addCounter (s : State) (off k o : Nat) (h1 : off ≠ o) (h2 : off + 4 ≠ o) :
    regWord (addCounter s off k) o = regWord s o := by
  unfold addCounter
  split
  · rfl
  · exact regWord_setCounter _ _ _ _ h1 h2

theorem regWord_countEngine (s : State) (e off k o : Nat) (h1 : off ≠ o) (h2 : off + 4 ≠ o) :
    regWord (countEngine s e off k) o = regWord s o := by
  unfold countEngine
  split
  · rfl
  · exact regWord_addCounter _ _ _ _ h1 h2

/-- What differs is only the register table. -/
structure OnlyRegs (s t : State) : Prop where
  eq : t = { s with regs := t.regs }

theorem OnlyRegs.refl (s : State) : OnlyRegs s s := ⟨rfl⟩

theorem OnlyRegs.trans {a b c : State} (h : OnlyRegs a b) (k : OnlyRegs b c) : OnlyRegs a c := by
  cases h with | mk h => cases k with | mk k => exact ⟨by rw [k, h]⟩

theorem OnlyRegs.engines {a b : State} (h : OnlyRegs a b) : b.engines = a.engines := by rw [h.eq]

theorem onlyRegs_setRegWord (s : State) (o : Nat) (v : Word) : OnlyRegs s (setRegWord s o v) := ⟨rfl⟩

theorem onlyRegs_setCounter (s : State) (o v : Nat) : OnlyRegs s (setCounter s o v) :=
  (onlyRegs_setRegWord ..).trans (onlyRegs_setRegWord ..)

theorem onlyRegs_addCounter (s : State) (o k : Nat) : OnlyRegs s (addCounter s o k) := by
  unfold addCounter
  split
  · exact OnlyRegs.refl _
  · exact onlyRegs_setCounter ..

theorem onlyRegs_countEngine (s : State) (e o k : Nat) : OnlyRegs s (countEngine s e o k) := by
  unfold countEngine
  split
  · exact OnlyRegs.refl _
  · exact onlyRegs_addCounter ..

theorem onlyRegs_countIssue (s : State) (e : Nat) (g : Group) (p : Subset) : OnlyRegs s (countIssue s e g p) := by
  unfold countIssue
  exact (((onlyRegs_countEngine ..).trans (onlyRegs_countEngine ..)).trans (onlyRegs_countEngine ..)).trans (onlyRegs_countEngine ..)

theorem onlyRegs_endStep (s : State) (e : Nat) (b : Bool) : OnlyRegs s (endStep s e b) := by
  unfold endStep
  split
  · exact onlyRegs_setRegWord ..
  · exact OnlyRegs.refl _

/-- A register that is no issue counter of the engine is left alone. -/
theorem regWord_countIssue (s : State) (e : Nat) (g : Group) (p : Subset) (o : Nat)
    (h : ¬ (Reg.TE_CNT_ISSUE e ≤ o ∧ o < Reg.TE_CNT_BARWAIT e)) : regWord (countIssue s e g p) o = regWord s o := by
  unfold Reg.TE_CNT_ISSUE Reg.TE_CNT_BARWAIT at h
  unfold countIssue
  simp only
  rw [regWord_countEngine, regWord_countEngine, regWord_countEngine, regWord_countEngine] <;>
    (simp only [Reg.TE_CNT_ISSUE, Reg.TE_CNT_PARTIAL, Reg.TE_CNT_STARVE, Reg.TE_CNT_PROMOTE]; omega)

theorem regWord_endStep (s : State) (e : Nat) (b : Bool) (o : Nat) (h : o ≠ Reg.TE_DBG_STAT e) :
    regWord (endStep s e b) o = regWord s o := by
  unfold endStep setRegBit setRegFld
  split
  · exact regWord_setRegWord_ne _ _ (Ne.symm h)
  · rfl

theorem modAt_length {α : Type} (l : List α) (i : Nat) (f : α → α) : (modAt l i f).length = l.length := by
  induction l generalizing i with
  | nil => rfl
  | cons a t ih => cases i <;> simp [modAt, ih]

theorem modAt_getD {α : Type} (l : List α) (i j : Nat) (f : α → α) (d : α) (h : j < l.length) :
    (modAt l i f).getD j d = if i = j then f (l.getD j d) else l.getD j d := by
  induction l generalizing i j with
  | nil => simp at h
  | cons a t ih =>
    cases i with
    | zero => cases j <;> simp [modAt]
    | succ i =>
      cases j with
      | zero => simp [modAt]
      | succ j =>
        have := ih i j (by simpa using h)
        simpa [modAt] using this

theorem th_modTh (g : Group) (l l' : Nat) (f : Thread → Thread) (h : l' < g.threads.length) :
    (g.modTh l f).th l' = if l = l' then f (g.th l') else g.th l' := modAt_getD _ _ _ _ _ h

theorem threads_modTh_length (g : Group) (l : Nat) (f : Thread → Thread) : (g.modTh l f).threads.length = g.threads.length :=
  modAt_length _ _ _

/-- A group in which only some threads and the u registers differ. -/
structure LanesDone (g h : Group) (act : List Nat) (upd : Nat → Thread → Thread) (u : Tbl Word) : Prop where
  rest : { h with threads := g.threads } = { g with u := u }
  len : h.threads.length = g.threads.length
  th : ∀ l, l < g.threads.length → h.th l = if l ∈ act then upd l (g.th l) else g.th l

theorem LanesDone.nil (g : Group) (upd : Nat → Thread → Thread) : LanesDone g g [] upd g.u := ⟨rfl, rfl, by simp⟩

theorem LanesDone.setU {g h : Group} {act : List Nat} {upd : Nat → Thread → Thread} {u : Tbl Word} (d : LanesDone g h act upd u)
    (i : Nat) (w : Word) : LanesDone g (h.setU i w) act upd (putD 0 u i w) := by
  obtain ⟨r, n, t⟩ := d
  have hu : h.u = u := congrArg Group.u r
  refine ⟨?_, n, t⟩
  have := congrArg (fun x : Group => { x with u := putD 0 u i w }) r
  simpa [Group.setU, hu] using this

/-- One more lane. -/
theorem LanesDone.lane {g h : Group} {act : List Nat} {upd : Nat → Thread → Thread} {u : Tbl Word} (d : LanesDone g h act upd u)
    (l : Nat) (hl : l ∉ act) : LanesDone g (h.modTh l (upd l)) (act ++ [l]) upd u := by
  obtain ⟨r, n, t⟩ := d
  refine ⟨r, (threads_modTh_length ..).trans n, fun i hi => ?_⟩
  rw [th_modTh _ _ _ _ (n ▸ hi), t i hi]
  by_cases h1 : l = i
  · subst h1; simp [hl]
  · simp [h1, Ne.symm h1]

theorem foldl_modTh_done (g : Group) (act : List Nat) (f : Nat → Thread → Thread) (hn : act.Nodup) :
    LanesDone g (act.foldl (fun g l => g.modTh l (f l)) g) act f g.u := by
  suffices H : ∀ (rest done : List Nat) (h : Group), (done ++ rest).Nodup → LanesDone g h done f g.u →
      LanesDone g (rest.foldl (fun g l => g.modTh l (f l)) h) (done ++ rest) f g.u by
    simpa using H act [] g (by simpa using hn) (LanesDone.nil g f)
  intro rest
  induction rest with
  | nil => intro done h _ d; simpa using d
  | cons a t ih =>
    intro done h nd d
    have := ih (done ++ [a]) (h.modTh a (f a)) (by simpa using nd) (d.lane a (by
      rw [List.nodup_append] at nd
      exact fun hm => nd.2.2 a hm a (by simp) rfl))
    simpa using this

theorem modLanes_done (g : Group) (act : List Nat) (f : Nat → Thread → Thread) (hn : act.Nodup) :
    LanesDone g (g.modLanes act f) act f g.u := foldl_modTh_done g act f hn

theorem subset_nodup (g : Group) (pc : Addr) : (g.subset pc).Nodup := by
  unfold Group.subset Group.readyLanes lanes32
  exact ((List.nodup_range).filter _).filter _

theorem subset_lt {g : Group} {pc : Addr} {l : Nat} (h : l ∈ g.subset pc) : l < 32 := by
  simp only [Group.subset, Group.readyLanes, lanes32, List.mem_filter, List.mem_range] at h
  exact h.1.1

theorem pick_lanes {g : Group} {p : Subset} (h : g.pick = some p) : p.lanes = g.subset p.pc := by
  unfold Group.pick at h
  split at h
  · exact absurd h (by simp)
  · simp only [Option.some.injEq] at h
    subst h; rfl

theorem actLanes_nodup {g : Group} {p : Subset} (w : BitVec 64) (h : g.pick = some p) : (actLanes w g p).Nodup := by
  unfold actLanes
  rw [pick_lanes h]
  exact (subset_nodup _ _).filter _

theorem mem_actLanes {w : BitVec 64} {g : Group} {p : Subset} {l : Nat} :
    l ∈ actLanes w g p ↔ l ∈ p.lanes ∧ guardOf w (g.th l) = true := by
  simp [actLanes]

/-- Where a thread goes after an issue. -/
def afterIssue (faults : List LaneFault) (pcs : List (Nat × Addr)) (l : Nat) (pc : Addr) : Addr :=
  if faults.any (fun f => f.lane == l) then pc
  else match pcs.find? (fun x => x.1 == l) with
    | some x => x.2
    | none => pc + 8

/-- Ages and program counters after an issue. -/
theorem advance_th (h : Group) (p : Subset) (fs : List LaneFault) (pcs : List (Nat × Addr)) (l : Nat) (hl : l < h.threads.length) :
    (h.advance p fs pcs).th l =
      if l ∈ p.lanes then { h.th l with age := 0, pc := afterIssue fs pcs l (h.th l).pc }
      else { h.th l with age := (h.th l).age + 1 } := by
  simp only [Group.advance, Group.th, List.getD_eq_getElem?_getD, List.getElem?_map, List.getElem?_zipIdx]
  rw [List.getElem?_eq_getElem hl]
  simp only [Option.map_some, Nat.zero_add, Option.getD_some, List.contains_eq_mem, decide_eq_true_eq]
  by_cases hm : l ∈ p.lanes
  · simp only [hm, if_true, afterIssue]
    by_cases hf : fs.any (fun f => f.lane == l) = true
    · simp only [hf, if_true]
    · simp only [hf]; rfl
  · simp only [hm]; rfl

theorem advance_length (h : Group) (p : Subset) (fs : List LaneFault) (pcs : List (Nat × Addr)) :
    (h.advance p fs pcs).threads.length = h.threads.length := by
  simp [Group.advance]

/-- What finishIssue leaves before a trap is taken. -/
def settled (e sl : Nat) (g0 : Group) (p : Subset) (r : IssueRes) : State :=
  let g := r.g.advance p r.faults r.pcs
  let g := { g with dbg := if g0.dbg = DbgState.halted then .halted else g.dbg, inIssue := none, regFault := none }
  let g := { g with stopped := g.stopped || (match grp r.st e sl with
    | some h => h.stopped
    | none => false) }
  endStep (setGrp (countIssue r.st e g0 p) e sl { g with stepPend := false, stepOver := false }) e (decide (g0.dbg = .halted))

/-- The end of an instruction that was not in issue before. -/
theorem finishIssue_eq {g0 : Group} (hi : g0.inIssue = none) (e sl : Nat) (p : Subset) (r : IssueRes) :
    finishIssue e sl g0 p r = match worstFault r.faults with
      | some f => trapGroup (r.post (settled e sl g0 p r)) e sl f.lane f.code f.detail f.addr
      | none => r.post (settled e sl g0 p r) := by
  unfold finishIssue settled
  rw [hi]
  simp only [Bool.or_false, decide_eq_true_eq]
  all_goals rfl

theorem effectLanes_eq {g : Group} (hr : g.regFault = none) (p : Subset) (w : BitVec 64) : effectLanes g p w = actLanes w g p := by
  unfold effectLanes actLanes
  rw [hr]
  simp

theorem runWord_eq {g : Group} (hr : g.regFault = none) (s : State) (e sl : Nat) (p : Subset) (w : BitVec 64)
    (body : State → Group → List Nat → IssueRes) :
    runWord s e sl g p w body =
      if (body s g (actLanes w g p)).stall then stayInIssue e sl g p w (body s g (actLanes w g p))
      else finishIssue e sl g p (body s g (actLanes w g p)) := by
  unfold runWord
  rw [effectLanes_eq hr]
  unfold regFaults
  rw [hr]
  simp only [List.append_nil]

/-- An issue runs its body on the fetched state, and stays in issue or ends. -/
theorem issue_eq {s : State} {e sl : Nat} {w : BitVec 64} {g : Group} {p : Subset} (H : Issues s e sl w g p)
    (body : State → Group → List Nat → IssueRes) :
    issue s e sl w body =
      if (body (fetched s e p.pc w) g (actLanes w g p)).stall then stayInIssue e sl g p w (body (fetched s e p.pc w) g (actLanes w g p))
      else finishIssue e sl g p (body (fetched s e p.pc w) g (actLanes w g p)) := by
  obtain ⟨hs, hp, he, hi, ho, hr, hf, hk, hg, hv, hfull⟩ := H
  unfold issue
  rw [hs]
  simp only [Option.bind_some, hi, Option.map_none]
  unfold startIssue
  rw [hs]; simp only
  rw [hp]; simp only
  rw [if_neg (by simp [he, hi, ho, hf]), hk]
  simp only [Bool.false_and, Bool.false_eq_true, if_false]
  unfold issueWord
  simp only [hg, Bool.not_true, Bool.false_eq_true, if_false]
  rw [if_neg (by omega)]
  exact runWord_eq hr _ e sl p w body

theorem grp_fetched (s : State) (e sl : Nat) (pc : Addr) (w : BitVec 64) : grp (fetched s e pc w) e sl = grp s e sl := by
  unfold grp fetched; rw [eng_setEng_self]

/-- What a settled issue is, in the terms of claims. -/
theorem settled_to {e sl : Nat} {w : BitVec 64} {g : Group} {p : Subset} {r : IssueRes} {upd : Nat → Thread → Thread}
    {u : Tbl Word} {nxt : Nat → Addr} (he : g.eligible = true) (hi : g.inIssue = none) (hrf : g.regFault = none) (hfull : g.threads.length = 32)
    (hgr : ∀ h, grp r.st e sl = some h → h.stopped = false) (hd : LanesDone g r.g (actLanes w g p) upd u)
    (hact : ∀ l, l ∈ actLanes w g p → afterIssue r.faults r.pcs l (upd l (g.th l)).pc = nxt l)
    (hoff : ∀ l, l ∈ p.lanes → l ∉ actLanes w g p → afterIssue r.faults r.pcs l (g.th l).pc = (g.th l).pc + 8) :
    IssueTo r.st (settled e sl g p r) e sl w g p upd u nxt := by
  have hst : g.stopped = false := by
    unfold Group.eligible at he
    cases h : g.stopped <;> simp [h] at he ⊢
  have hst' : r.g.stopped = false := (congrArg Group.stopped hd.rest).trans hst
  have hor : ((r.g.advance p r.faults r.pcs).stopped || (match grp r.st e sl with | some h => h.stopped | none => false)) = false := by
    have : (r.g.advance p r.faults r.pcs).stopped = r.g.stopped := rfl
    rw [this, hst']
    cases hx : grp r.st e sl with
    | none => rfl
    | some h => simpa using hgr h hx
  have h1 : r.g.dbg = g.dbg := by have := congrArg Group.dbg hd.rest; exact this
  have h2 : (r.g.advance p r.faults r.pcs).inIssue = none := by have := congrArg Group.inIssue hd.rest; exact Eq.trans this hi
  have h3 : (r.g.advance p r.faults r.pcs).regFault = none := by have := congrArg Group.regFault hd.rest; exact Eq.trans this hrf
  have h4 : (if g.dbg = .halted then .halted else (r.g.advance p r.faults r.pcs).dbg) = (r.g.advance p r.faults r.pcs).dbg := by
    split
    · exact Eq.symm (Eq.trans h1 (by assumption))
    · rfl
  have hse : ∀ b, ((r.g.advance p r.faults r.pcs).stopped || (match grp r.st e sl with | some h => h.stopped | none => false)) = b →
      settled e sl g p r = endStep (setGrp (countIssue r.st e g p) e sl
        { r.g.advance p r.faults r.pcs with stopped := b, stepPend := false, stepOver := false }) e (decide (g.dbg = .halted)) := by
    intro b hb
    rw [← hb]
    unfold settled
    dsimp only
    rw [h2, h3, h4]
  rw [hse _ hor]
  generalize hh : ({ r.g.advance p r.faults r.pcs with stopped := false, stepPend := false, stepOver := false } : Group) = h
  have o1 := onlyRegs_countIssue r.st e g p
  have hr := regWord_countIssue r.st e g p
  generalize hc : countIssue r.st e g p = c at o1 hr
  have o2 := onlyRegs_endStep (setGrp c e sl h) e (decide (g.dbg = .halted))
  have e2 : (endStep (setGrp c e sl h) e (decide (g.dbg = .halted))).engines = (setGrp c e sl h).engines := o2.engines
  have ec : ∀ e', eng c e' = eng r.st e' := fun e' => eng_of_engines o1.engines e'
  refine ⟨⟨?_, ?_, ?_, ?_, ?_⟩, h, ?_, ?_⟩
  · rw [o2.eq]
    have := o1.eq
    unfold setGrp setEng
    rw [this]
  · intro e' hne
    rw [eng_of_engines e2, setGrp, eng_setEng_ne _ _ (Ne.symm hne), ec]
  · intro sl' hne
    rw [grp_of_engines e2, grp_setGrp_ne _ _ _ (Ne.symm hne)]
    unfold grp; rw [ec]
  · rw [eng_of_engines e2, setGrp, eng_setEng_self, ec]
  · intro off h1 h2
    rw [regWord_endStep _ _ _ _ h2]
    exact hr off h1
  · rw [grp_of_engines e2, grp_setGrp_self]
  · refine ⟨?_, ?_, ?_⟩
    · rw [← hh]
      have h2 := congrArg (fun y : Group => { y with promoted := false, stopped := false, stepPend := false, stepOver := false }) hd.rest
      have h3 : ({ g with u := u, promoted := false, stepPend := false, stepOver := false } : Group)
          = { g with u := u, promoted := false, stopped := false, stepPend := false, stepOver := false } := by rw [← hst]
      rw [h3]
      exact h2
    · rw [← hh]
      exact (advance_length r.g p r.faults r.pcs).trans (hd.len.trans hfull)
    · intro l hl
      have hl' : l < g.threads.length := by omega
      rw [← hh]
      have h3 : ∀ y : Group, ({ y with stopped := false, stepPend := false, stepOver := false } : Group).th l = y.th l := fun _ => rfl
      rw [h3, advance_th _ _ _ _ _ (hd.len ▸ hl'), hd.th l hl']
      by_cases hm : l ∈ p.lanes
      · by_cases ha : l ∈ actLanes w g p
        · simp only [ha, if_true, hm]
          rw [hact l ha]
        · simp only [ha, if_false, hm, if_true]
          rw [hoff l hm ha]
      · have ha : l ∉ actLanes w g p := fun hx => hm (mem_actLanes.1 hx).1
        simp only [ha, hm, if_false]

/-- The instruction cache is no part of what claims compare. -/
theorem IssueFrame.of_fetched {s t : State} {e sl : Nat} {pc : Addr} {w : BitVec 64} (h : IssueFrame (fetched s e pc w) t e sl) :
    IssueFrame s t e sl := by
  obtain ⟨h1, h2, h3, h4, h5⟩ := h
  refine ⟨h1, fun e' hne => ?_, fun sl' hne => ?_, ?_, h5⟩
  · rw [h2 e' hne]; exact eng_setEng_ne _ _ (Ne.symm hne)
  · rw [h3 sl' hne, grp_fetched]
  · rw [h4]; unfold fetched; rw [eng_setEng_self]

/-- A group that issues has not been stopped. -/
theorem stopped_of_eligible {g : Group} (h : g.eligible = true) : g.stopped = false := by
  unfold Group.eligible at h
  cases hx : g.stopped <;> simp [hx] at h ⊢

/-- What any instruction leaves that does not stay in issue: its settled state, what follows it, and the trap of its worst fault. -/
theorem issue_to {s : State} {e sl : Nat} {w : BitVec 64} {g : Group} {p : Subset} (H : Issues s e sl w g p)
    {body : State → Group → List Nat → IssueRes} {r : IssueRes} {upd : Nat → Thread → Thread} {u : Tbl Word} {nxt : Nat → Addr}
    (hb : body (fetched s e p.pc w) g (actLanes w g p) = r) (hstall : r.stall = false)
    (hgr : ∀ h, grp r.st e sl = some h → h.stopped = false) (hd : LanesDone g r.g (actLanes w g p) upd u)
    (hact : ∀ l, l ∈ actLanes w g p → afterIssue r.faults r.pcs l (upd l (g.th l)).pc = nxt l)
    (hoff : ∀ l, l ∈ p.lanes → l ∉ actLanes w g p → afterIssue r.faults r.pcs l (g.th l).pc = (g.th l).pc + 8) :
    ∃ t, IssueTo r.st t e sl w g p upd u nxt ∧ issue s e sl w body = match worstFault r.faults with
      | some f => trapGroup (r.post t) e sl f.lane f.code f.detail f.addr
      | none => r.post t := by
  refine ⟨settled e sl g p r, settled_to H.eligible H.idle H.sound H.full hgr hd hact hoff, ?_⟩
  rw [issue_eq H, hb, hstall]
  simp only [Bool.false_eq_true, if_false]
  exact finishIssue_eq H.idle e sl p r

theorem grp_fetched_running {s : State} {e sl : Nat} {w : BitVec 64} {g : Group} {p : Subset} (H : Issues s e sl w g p) (h : Group)
    (hx : grp (fetched s e p.pc w) e sl = some h) : h.stopped = false := by
  rw [grp_fetched, H.slot] at hx
  cases hx
  exact stopped_of_eligible H.eligible

theorem IssueTo.of_fetched {s t : State} {e sl : Nat} {pc : Addr} {w w' : BitVec 64} {g : Group} {p : Subset}
    {upd : Nat → Thread → Thread} {u : Tbl Word} {nxt : Nat → Addr} (h : IssueTo (fetched s e pc w) t e sl w' g p upd u nxt) :
    IssueTo s t e sl w' g p upd u nxt := ⟨h.1.of_fetched, h.2⟩

/-- A body that changes only the group gives the group-issue that claims speak of. -/
theorem issue_done {s : State} {e sl : Nat} {w : BitVec 64} {g : Group} {p : Subset} (H : Issues s e sl w g p)
    {body : State → Group → List Nat → IssueRes} {g' : Group} {upd : Nat → Thread → Thread} {u : Tbl Word}
    (hb : ∀ s0, body s0 g (actLanes w g p) = { st := s0, g := g' }) (hd : LanesDone g g' (actLanes w g p) upd u)
    (hpc : ∀ l t, (upd l t).pc = t.pc) : IssueDone s (issue s e sl w body) e sl w g p upd u := by
  rw [issue_eq H, hb, if_neg (by simp), finishIssue_eq H.idle]
  have := settled_to (e := e) (sl := sl) (r := { st := fetched s e p.pc w, g := g' }) (nxt := fun l => (g.th l).pc + 8) H.eligible H.idle H.sound H.full
    (fun h hx => by
      rw [grp_fetched, H.slot] at hx
      cases hx
      have he := H.eligible
      unfold Group.eligible at he
      cases h : g.stopped <;> simp [h] at he ⊢) hd
    (fun l _ => by rw [hpc]; rfl) (fun _ _ _ => rfl)
  exact ⟨this.1.of_fetched, this.2⟩

theorem writeD_done (g : Group) (ud : Bool) (d : BitVec 8) (f : Nat → Word) (act : List Nat) (hn : act.Nodup) :
    LanesDone g (g.writeD ud d (act.map (fun l => (l, f l)))) act (destThread ud d f) (destFile ud d f g.u act) := by
  cases ud with
  | false =>
    have h := foldl_modTh_done g act (fun l t => t.setReg d.toNat (f l)) hn
    have e1 : destThread false d f = fun l t => t.setReg d.toNat (f l) := by funext l t; simp [destThread]
    have e2 : destFile false d f g.u act = g.u := by cases act <;> simp [destFile]
    rw [e1, e2]
    simpa [Group.writeD, List.foldl_map] using h
  | true =>
    have e1 : destThread true d f = fun _ t => t := by funext l t; simp [destThread]
    rw [e1]
    cases act with
    | nil => exact LanesDone.nil g _
    | cons a t =>
      simp only [Group.writeD, if_true, List.map_cons, destFile]
      refine ⟨rfl, rfl, fun l _ => ?_⟩
      simp [Group.setU, Group.th]

theorem destThread_pc (ud : Bool) (d : BitVec 8) (f : Nat → Word) (l : Nat) (t : Thread) : (destThread ud d f l t).pc = t.pc := by
  unfold destThread Thread.setReg
  split <;> rfl

/-- The issue of an instruction that computes one word in each lane. -/
theorem issue_alu {s : State} {e sl : Nat} {w : BitVec 64} {g : Group} {p : Subset} (H : Issues s e sl w g p) (ud : Bool)
    (d : BitVec 8) (f : Group → Nat → Word) :
    IssueDone s (issue s e sl w (aluBody ud d f)) e sl w g p (destThread ud d (f g)) (destFile ud d (f g) g.u (actLanes w g p)) :=
  issue_done H (fun _ => rfl) (writeD_done g ud d (f g) _ (actLanes_nodup w H.pick)) (fun _ _ => destThread_pc ..)

/-- The issue of an instruction that sets a predicate in each lane. -/
theorem issue_pred {s : State} {e sl : Nat} {w : BitVec 64} {g : Group} {p : Subset} (H : Issues s e sl w g p)
    (d : BitVec 8) (f : Group → Nat → Bool) :
    IssueDone s (issue s e sl w (predBody d f)) e sl w g p (fun l x => x.setPred d.toNat (f g l)) g.u :=
  issue_done H (fun _ => rfl) (modLanes_done g _ _ (actLanes_nodup w H.pick)) (fun _ _ => rfl)

/-- The issue of an instruction that computes one word and conditions in each lane. -/
theorem issue_fp {s : State} {e sl : Nat} {w : BitVec 64} {g : Group} {p : Subset} (H : Issues s e sl w g p) (ud : Bool)
    (d : BitVec 8) (f : Group → Nat → Nat × FpFlags) :
    IssueDone s (issue s e sl w (fpBody ud d f)) e sl w g p
      (fun l x => destThread ud d (fun l => BitVec.ofNat 32 (f g l).1) l (x.orStat (f g l).2.bits))
      (destFile ud d (fun l => BitVec.ofNat 32 (f g l).1) g.u (actLanes w g p)) := by
  have hn := actLanes_nodup w H.pick
  have d1 := foldl_modTh_done g (actLanes w g p) (fun l t => t.orStat (f g l).2.bits) hn
  have d2 := writeD_done ((actLanes w g p).foldl (fun h l => h.modTh l (fun t => t.orStat (f g l).2.bits)) g) ud d
    (fun l => BitVec.ofNat 32 (f g l).1) (actLanes w g p) hn
  have hu : ((actLanes w g p).foldl (fun h l => h.modTh l (fun t => t.orStat (f g l).2.bits)) g).u = g.u := by
    have := congrArg Group.u d1.rest
    exact this
  rw [hu] at d2
  refine issue_done H (g' := _) (fun s0 => ?_) ⟨?_, d2.len.trans d1.len, fun l hl => ?_⟩ (fun l t => ?_)
  · simp only [fpBody, List.foldl_map, List.map_map]
    rfl
  · have h1 := d1.rest
    have h2 := d2.rest
    have h3 := congrArg (fun y : Group => { y with threads := g.threads }) h2
    have h4 := congrArg (fun y : Group => { y with u := destFile ud d (fun l => BitVec.ofNat 32 (f g l).1) g.u (actLanes w g p) }) h1
    exact h3.trans h4
  · have hl' := d1.len ▸ hl
    rw [d2.th l hl', d1.th l hl]
    split <;> rfl
  · rw [destThread_pc]; rfl

theorem writesWord {c : Instr} {e sl : Nat} {w : BitVec 64} {ud : Bool} {d : BitVec 8} {f : Group → Nat → Word}
    (h : ∀ s, exec c s = .next (issue s e sl w (aluBody ud d f))) : WritesWord c e sl w ud d f :=
  fun s _ _ H => ⟨_, h s, issue_alu H ud d f⟩

theorem writesPred {c : Instr} {e sl : Nat} {w : BitVec 64} {d : BitVec 8} {f : Group → Nat → Bool}
    (h : ∀ s, exec c s = .next (issue s e sl w (predBody d f))) : WritesPred c e sl w d f :=
  fun s _ _ H => ⟨_, h s, issue_pred H d f⟩

theorem writesFloat {c : Instr} {e sl : Nat} {w : BitVec 64} {ud : Bool} {d : BitVec 8} {f : Group → Nat → Nat × FpFlags}
    (h : ∀ s, exec c s = .next (issue s e sl w (fpBody ud d f))) : WritesFloat c e sl w ud d f :=
  fun s _ _ H => ⟨_, h s, issue_fp H ud d f⟩

end Sys2Proof.Machine
end

