-- ==== Sys2Proof/Laws/Memory.lean ====
section
/-! SUPPORT. Laws of memory: a byte reads as it was stored, a store leaves every other byte alone, and every store keeps the
canonical form. -/

namespace Sys2Proof.Machine

theorem memByte_setMemByte_self (m : List Host.Cell) (a : Nat) (b : Byte) : memByte (setMemByte m a b) a = some b := by
  unfold setMemByte
  by_cases h : unlistedByte a = some b <;> simp [memByte, h]

theorem memByte_setMemByte_ne {a a' : Nat} (m : List Host.Cell) (b : Byte) (h : a ≠ a') : memByte (setMemByte m a b) a' = memByte m a' := by
  unfold setMemByte
  by_cases hb : unlistedByte a = some b <;> simp [memByte, hb, look_del_ne, look_put_ne, h]

theorem memByte_setMemByte (m : List Host.Cell) (a a' : Nat) (b : Byte) :
    memByte (setMemByte m a b) a' = if a = a' then some b else memByte m a' := by
  by_cases h : a = a'
  · subst h; simp [memByte_setMemByte_self]
  · simp [h, memByte_setMemByte_ne]

/-- What a byte reads as after a run of bytes is stored. -/
theorem memByte_setMemBytes (m : List Host.Cell) (a : Nat) (bs : List Byte) (x : Nat) :
    memByte (setMemBytes m a bs) x = if a ≤ x ∧ x < a + bs.length then bs[x - a]? else memByte m x := by
  induction bs generalizing m a with
  | nil => simp [setMemBytes, show ¬ (a ≤ x ∧ x < a) by omega]
  | cons b t ih =>
    simp only [setMemBytes, ih, List.length_cons, memByte_setMemByte]
    by_cases h1 : x = a
    · subst h1; simp [show ¬ x + 1 ≤ x by omega]
    · by_cases h2 : a + 1 ≤ x ∧ x < a + 1 + t.length
      · have h3 : a ≤ x ∧ x < a + (t.length + 1) := by omega
        have h4 : x - a = (x - (a + 1)) + 1 := by omega
        simp [h2, h3, h4]
      · have h3 : ¬ (a ≤ x ∧ x < a + (t.length + 1)) := by omega
        rw [if_neg h2, if_neg h3, if_neg (fun h => h1 h.symm)]

theorem Memory.wf_iff (m : List Host.Cell) :
    Memory.wf m = true ↔ risingFrom 0 m = true ∧ ∀ e ∈ m, unlistedByte e.1 ≠ some e.2 := by
  simp [Memory.wf]

theorem Memory.wf_filter {m : List Host.Cell} (h : Memory.wf m = true) (p : Host.Cell → Bool) : Memory.wf (m.filter p) = true := by
  rw [Memory.wf_iff] at *
  exact ⟨risingFrom_filter h.1 p, fun e he => h.2 e (List.mem_filter.1 he).1⟩

theorem Memory.wf_setMemByte {m : List Host.Cell} (h : Memory.wf m = true) (a : Nat) (b : Byte) : Memory.wf (setMemByte m a b) = true := by
  unfold setMemByte
  split
  · rw [del_eq_filter]; exact Memory.wf_filter h _
  · rename_i hb
    rw [Memory.wf_iff] at *
    refine ⟨risingFrom_put h.1 a b (Nat.zero_le _), fun e he => ?_⟩
    rcases mem_put he with rfl | he
    · exact hb
    · exact h.2 e he

theorem Memory.wf_setMemBytes {m : List Host.Cell} (h : Memory.wf m = true) (a : Nat) (bs : List Byte) :
    Memory.wf (setMemBytes m a bs) = true := by
  induction bs generalizing m a with
  | nil => exact h
  | cons b t ih => exact ih (Memory.wf_setMemByte h a b) (a + 1)

theorem Memory.wf_nil : Memory.wf [] = true := rfl

/-- State.reset's memory has the canonical form. -/
theorem Memory.wf_reset : Memory.wf State.reset.mem = true := rfl

end Sys2Proof.Machine
end

