-- ==== Sys2Proof/Laws/KeepsBase.lean ====
section
/-! SUPPORT. What every command keeps: the queue as it is; the canonical form of memory, of the register table and of the list of
poisoned units; the numbering and the size of the event log; everything sent out; and free values never taken back. -/

namespace Sys2Proof.Machine

/-- What a change from s to t keeps. -/
structure Keeps (s t : State) : Prop where
  pending : t.pending = s.pending
  mem : Memory.wf s.mem = true → Memory.wf t.mem = true
  regs : Canon resetWord s.regs → Canon resetWord t.regs
  poison : s.poison.Pairwise (· < ·) → t.poison.Pairwise (· < ·)
  log : s.evlog.length ≤ 131072 → t.evlog.length ≤ 131072
  seq : evSeq s.evlog → evSeq t.evlog
  outbox : s.outbox <+: t.outbox
  fresh : s.fresh ≤ t.fresh

/-- What an answer keeps. -/
def OutKeeps (s : State) (o : Out) : Prop := ∀ t, o = .next t → Keeps s t

/-- What an optional state keeps. -/
def OptKeeps (s : State) (o : Option State) : Prop := ∀ t, o = some t → Keeps s t

/-- What an instruction's body keeps. -/
structure IssueKeeps (s : State) (r : IssueRes) : Prop where
  st : Keeps s r.st
  post : ∀ t, Keeps s t → Keeps s (r.post t)

theorem Keeps.refl (s : State) : Keeps s s :=
  ⟨rfl, fun h => h, fun h => h, fun h => h, fun h => h, fun h => h, List.prefix_refl _, Nat.le_refl _⟩

theorem Keeps.trans {a b c : State} (h : Keeps a b) (k : Keeps b c) : Keeps a c :=
  ⟨k.pending.trans h.pending, fun x => k.mem (h.mem x), fun x => k.regs (h.regs x), fun x => k.poison (h.poison x),
    fun x => k.log (h.log x), fun x => k.seq (h.seq x), h.outbox.trans k.outbox, Nat.le_trans h.fresh k.fresh⟩

section

variable {s0 s : State} (h : Keeps s0 s)

include h

@[simp ↓] theorem Keeps.upd (arrays engines sc vc tint near far movers items host fab power thermal boot pins aclk repair pend lastErr) :
    Keeps s0 (State.mk s.regs arrays engines s.mem s.poison sc vc tint near far movers items host fab power thermal boot pins
      aclk s.evlog repair pend lastErr s.outbox s.fresh s.pending) :=
  ⟨h.pending, h.mem, h.regs, h.poison, h.log, h.seq, h.outbox, h.fresh⟩

omit h in
theorem Keeps.upd_iff (arrays engines sc vc tint near far movers items host fab power thermal boot pins aclk repair pend lastErr) :
    Keeps s0 (State.mk s.regs arrays engines s.mem s.poison sc vc tint near far movers items host fab power thermal boot pins
      aclk s.evlog repair pend lastErr s.outbox s.fresh s.pending) ↔ Keeps s0 s :=
  ⟨fun h => ⟨h.pending, h.mem, h.regs, h.poison, h.log, h.seq, h.outbox, h.fresh⟩, fun h => h.upd ..⟩

@[simp ↓] theorem Keeps.updFresh (n : Nat) (arrays engines sc vc tint near far movers items host fab power thermal boot pins aclk repair pend lastErr) :
    Keeps s0 (State.mk s.regs arrays engines s.mem s.poison sc vc tint near far movers items host fab power thermal boot pins
      aclk s.evlog repair pend lastErr s.outbox (s.fresh + n) s.pending) :=
  ⟨h.pending, h.mem, h.regs, h.poison, h.log, h.seq, h.outbox, Nat.le_trans h.fresh (Nat.le_add_right _ _)⟩

theorem Keeps.updMem {m : List Host.Cell} (hm : Memory.wf s.mem = true → Memory.wf m = true)
    (arrays engines sc vc tint near far movers items host fab power thermal boot pins aclk repair pend lastErr) :
    Keeps s0 (State.mk s.regs arrays engines m s.poison sc vc tint near far movers items host fab power thermal boot pins
      aclk s.evlog repair pend lastErr s.outbox s.fresh s.pending) :=
  ⟨h.pending, fun x => hm (h.mem x), h.regs, h.poison, h.log, h.seq, h.outbox, h.fresh⟩

@[simp ↓] theorem Keeps.updBytes (a : Nat) (bs : List Byte)
    (arrays engines sc vc tint near far movers items host fab power thermal boot pins aclk repair pend lastErr) :
    Keeps s0 (State.mk s.regs arrays engines (setMemBytes s.mem a bs) s.poison sc vc tint near far movers items host fab power
      thermal boot pins aclk s.evlog repair pend lastErr s.outbox s.fresh s.pending) :=
  h.updMem (fun x => Memory.wf_setMemBytes x a bs) ..

@[simp ↓] theorem Keeps.updCells {α : Type} (f : List Host.Cell → α → List Host.Cell) (l : List α)
    (hf : ∀ m x, Memory.wf m = true → Memory.wf (f m x) = true)
    (arrays engines sc vc tint near far movers items host fab power thermal boot pins aclk repair pend lastErr) :
    Keeps s0 (State.mk s.regs arrays engines (l.foldl f s.mem) s.poison sc vc tint near far movers items host fab power
      thermal boot pins aclk s.evlog repair pend lastErr s.outbox s.fresh s.pending) := by
  refine h.updMem (fun x => ?_) ..
  generalize s.mem = m at x
  induction l generalizing m with
  | nil => exact x
  | cons a l ih => exact ih _ (hf m a x)

@[simp ↓] theorem Keeps.updFilter (p : Host.Cell → Bool) (q : Nat → Bool)
    (arrays engines sc vc tint near far movers items host fab power thermal boot pins aclk repair pend lastErr) :
    Keeps s0 (State.mk s.regs arrays engines (s.mem.filter p) (s.poison.filter q) sc vc tint near far movers items host fab power
      thermal boot pins aclk s.evlog repair pend lastErr s.outbox s.fresh s.pending) :=
  ⟨h.pending, fun x => Memory.wf_filter (h.mem x) p, h.regs, fun x => (h.poison x).filter q, h.log, h.seq, h.outbox, h.fresh⟩

@[simp ↓] theorem Keeps.updFilterFresh (p : Host.Cell → Bool) (q : Nat → Bool) (n : Nat)
    (arrays engines sc vc tint near far movers items host fab power thermal boot pins aclk repair pend lastErr) :
    Keeps s0 (State.mk s.regs arrays engines (s.mem.filter p) (s.poison.filter q) sc vc tint near far movers items host fab power
      thermal boot pins aclk s.evlog repair pend lastErr s.outbox (s.fresh + n) s.pending) :=
  ⟨h.pending, fun x => Memory.wf_filter (h.mem x) p, h.regs, fun x => (h.poison x).filter q, h.log, h.seq, h.outbox,
    Nat.le_trans h.fresh (Nat.le_add_right _ _)⟩

@[simp ↓] theorem Keeps.updEmptyFresh (n : Nat)
    (arrays engines sc vc tint near far movers items host fab power thermal boot pins aclk repair pend lastErr) :
    Keeps s0 (State.mk s.regs arrays engines [] [] sc vc tint near far movers items host fab power
      thermal boot pins aclk s.evlog repair pend lastErr s.outbox (s.fresh + n) s.pending) :=
  ⟨h.pending, fun _ => rfl, h.regs, fun _ => List.Pairwise.nil, h.log, h.seq, h.outbox, Nat.le_trans h.fresh (Nat.le_add_right _ _)⟩

@[simp ↓] theorem Keeps.updEmpty (arrays engines sc vc tint near far movers items host fab power thermal boot pins aclk repair pend lastErr) :
    Keeps s0 (State.mk s.regs arrays engines [] [] sc vc tint near far movers items host fab power
      thermal boot pins aclk s.evlog repair pend lastErr s.outbox s.fresh s.pending) :=
  ⟨h.pending, fun _ => rfl, h.regs, fun _ => List.Pairwise.nil, h.log, h.seq, h.outbox, h.fresh⟩

@[simp ↓] theorem keeps_setRegWord (o : Nat) (v : Word) : Keeps s0 (setRegWord s o v) :=
  ⟨h.pending, h.mem, fun x => (h.regs x).putD o v, h.poison, h.log, h.seq, h.outbox, h.fresh⟩

@[simp ↓] theorem keeps_regsFilter (p : Nat × Word → Bool) : Keeps s0 { s with regs := s.regs.filter p } :=
  ⟨h.pending, h.mem, fun x => (h.regs x).filter p, h.poison, h.log, h.seq, h.outbox, h.fresh⟩

@[simp ↓] theorem keeps_emit (o : Output) : Keeps s0 (emit s o) :=
  ⟨h.pending, h.mem, h.regs, h.poison, h.log, h.seq, h.outbox.trans (List.prefix_append _ _), h.fresh⟩

omit h in
theorem evSeq_drop {l : List LogRec} (x : evSeq l) (n : Nat) : evSeq (l.drop n) := by
  induction n generalizing l with
  | zero => exact x
  | succ n ih =>
    cases l with
    | nil => exact x
    | cons a t => exact ih x.2

omit h in
theorem evSeq_concat {l : List LogRec} (x : evSeq l) (r : LogRec)
    (hr : ∀ a, l.getLast? = some a → r.seq = a.seq + 1) : evSeq (l ++ [r]) := by
  induction l with
  | nil => exact ⟨by simp, trivial⟩
  | cons a t ih =>
    refine ⟨?_, ih x.2 ?_⟩
    · intro b hb
      cases t with
      | nil =>
        simp at hb
        subst hb
        exact hr a rfl
      | cons c t => exact x.1 b (by simpa using hb)
    · intro b hb
      refine hr b ?_
      cases t with
      | nil => cases hb
      | cons c t => simpa using hb

omit h in
theorem drop_length_le {α : Type} (l : List α) (n : Nat) : (l.drop (l.length - n)).length ≤ n := by
  rw [List.length_drop]
  omega

theorem Keeps.updLog {l : List LogRec} {n : Nat} (hn : n = 131072) (hs : evSeq s.evlog → evSeq l) :
    Keeps s0 { s with evlog := l.drop (l.length - n) } :=
  ⟨h.pending, h.mem, h.regs, h.poison, fun _ => hn ▸ drop_length_le l n, fun x => evSeq_drop (hs (h.seq x)) _, h.outbox, h.fresh⟩

@[simp ↓] theorem keeps_logEvent (cls code : Nat) (d : List Word) : Keeps s0 (logEvent s cls code d) := by
  unfold logEvent
  refine h.updLog rfl (fun x => evSeq_concat x _ ?_)
  intro a ha
  simp only [ha]

omit h in
theorem insNat_mem {l : List Nat} {x y : Nat} (hy : y ∈ insNat l x) : y = x ∨ y ∈ l := by
  induction l with
  | nil => simpa [insNat] using hy
  | cons k t ih =>
    unfold insNat at hy
    split at hy
    · simpa using hy
    · split at hy
      · exact Or.inr hy
      · rcases List.mem_cons.1 hy with rfl | hy
        · simp
        · rcases ih hy with h | h <;> simp [h]

omit h in
theorem insNat_sorted {l : List Nat} (hl : l.Pairwise (· < ·)) (x : Nat) : (insNat l x).Pairwise (· < ·) := by
  induction l with
  | nil => simp [insNat]
  | cons k t ih =>
    rw [List.pairwise_cons] at hl
    unfold insNat
    split
    · rw [List.pairwise_cons]
      refine ⟨fun y hy => ?_, List.pairwise_cons.2 hl⟩
      rcases List.mem_cons.1 hy with rfl | hy
      · assumption
      · have := hl.1 y hy; omega
    · split
      · exact List.pairwise_cons.2 hl
      · rw [List.pairwise_cons]
        refine ⟨fun y hy => ?_, ih hl.2⟩
        rcases insNat_mem hy with rfl | hy
        · omega
        · exact hl.1 y hy

@[simp ↓] theorem keeps_setPoison (u : Nat) (p : Bool) : Keeps s0 (setPoison s u p) := by
  refine ⟨h.pending, h.mem, h.regs, fun x => ?_, h.log, h.seq, h.outbox, h.fresh⟩
  have y := h.poison x
  unfold setPoison
  dsimp only
  split
  · exact insNat_sorted y u
  · exact y.filter _

end

section

variable {s0 : State}

@[simp ↓] theorem keeps_ite {a b : State} {c : Prop} [Decidable c] (h1 : Keeps s0 a) (h2 : Keeps s0 b) : Keeps s0 (if c then a else b) := by
  split <;> assumption

@[simp ↓] theorem keeps_iteSnd {α : Type} {a b : α × State} {c : Prop} [Decidable c] (h1 : Keeps s0 a.2) (h2 : Keeps s0 b.2) :
    Keeps s0 (if c then a else b).2 := by
  split <;> assumption

@[simp ↓] theorem keeps_iteFst {α : Type} {a b : State × α} {c : Prop} [Decidable c] (h1 : Keeps s0 a.1) (h2 : Keeps s0 b.1) :
    Keeps s0 (if c then a else b).1 := by
  split <;> assumption

@[simp ↓] theorem keeps_outIte {a b : Out} {c : Prop} [Decidable c] (h1 : OutKeeps s0 a) (h2 : OutKeeps s0 b) :
    OutKeeps s0 (if c then a else b) := by
  split <;> assumption

theorem keeps_issueIte {a b : IssueRes} {c : Prop} [Decidable c] (h1 : IssueKeeps s0 a) (h2 : IssueKeeps s0 b) :
    IssueKeeps s0 (if c then a else b) := by
  split <;> assumption

@[simp ↓] theorem keeps_foldl {α : Type} {f : State → α → State} {l : List α} {s : State} (h : Keeps s0 s)
    (hf : ∀ t x, Keeps s0 t → Keeps s0 (f t x)) : Keeps s0 (l.foldl f s) := by
  induction l generalizing s with
  | nil => exact h
  | cons a l ih => exact ih (hf s a h)

@[simp ↓] theorem keeps_next {t : State} (h : Keeps s0 t) : OutKeeps s0 (.next t) := by
  intro x hx
  cases hx
  exact h

@[simp ↓] theorem keeps_fault (r : Fault) : OutKeeps s0 (.fault r) := by
  intro x hx
  cases hx

@[simp ↓] theorem keeps_some {t : State} (h : Keeps s0 t) : OptKeeps s0 (some t) := by
  intro x hx
  cases hx
  exact h

@[simp ↓] theorem keeps_none : OptKeeps s0 none := by
  intro x hx
  cases hx

@[simp ↓] theorem keeps_getD {o : Option State} {s : State} (h : OptKeeps s0 o) (hs : Keeps s0 s) : Keeps s0 (o.getD s) := by
  cases o with
  | none => exact hs
  | some t => exact h t rfl

theorem keeps_of_some {o : Option State} {t : State} (h : OptKeeps s0 o) (e : o = some t) : Keeps s0 t := h t e

theorem keeps_of_snd {α : Type} {p : α × State} {a : α} {t : State} (h : Keeps s0 p.2) (e : p = (a, t)) : Keeps s0 t := by
  subst e
  exact h

theorem keeps_of_fst {α : Type} {p : State × α} {a : α} {t : State} (h : Keeps s0 p.1) (e : p = (t, a)) : Keeps s0 t := by
  subst e
  exact h

end

end Sys2Proof.Machine
end

