-- ==== Sys2Proof/Laws/KeepsPart1.lean ====
section
/-! SUPPORT. What the operations and commands keep (KeepsBase), in the order of the model's files: Ops, Errors, Packets, ItemEnd, Memory, RegBase, Tints, FarBase, Lines, Far, Cache. -/

set_option linter.unusedTactic false
set_option linter.unreachableTactic false
set_option linter.unusedSimpArgs false
set_option linter.unusedVariables false

namespace Sys2Proof.Machine

@[simp ↓] theorem keeps_setRegFld {s0 s : State} (h : Keeps s0 s) (off lo w v : Nat) : Keeps s0 (setRegFld s off lo w v) := by
  unfold setRegFld
  try dsimp only
  repeat' (first | with_reducible assumption | (simp +contextual [h]; done) | split)

@[simp ↓] theorem keeps_setRegBit {s0 s : State} (h : Keeps s0 s) (off i : Nat) : Keeps s0 (setRegBit s off i) := by
  unfold setRegBit
  try dsimp only
  repeat' (first | with_reducible assumption | (simp +contextual [h]; done) | split)

@[simp ↓] theorem keeps_clrRegBit {s0 s : State} (h : Keeps s0 s) (off i : Nat) : Keeps s0 (clrRegBit s off i) := by
  unfold clrRegBit
  try dsimp only
  repeat' (first | with_reducible assumption | (simp +contextual [h]; done) | split)

@[simp ↓] theorem keeps_setCounter {s0 s : State} (h : Keeps s0 s) (off v : Nat) : Keeps s0 (setCounter s off v) := by
  unfold setCounter
  try dsimp only
  repeat' (first | with_reducible assumption | (simp +contextual [h]; done) | split)

@[simp ↓] theorem keeps_addCounter {s0 s : State} (h : Keeps s0 s) (off k : Nat) : Keeps s0 (addCounter s off k) := by
  unfold addCounter
  try dsimp only
  repeat' (first | with_reducible assumption | (simp +contextual [h]; done) | split)

@[simp ↓] theorem keeps_freeWord {s0 s : State} (h : Keeps s0 s) : Keeps s0 (freeWord s).2 := by
  unfold freeWord
  exact h.updFresh 1 ..

@[simp ↓] theorem keeps_freeBool {s0 s : State} (h : Keeps s0 s) : Keeps s0 (freeBool s).2 := by
  unfold freeBool
  exact h.updFresh 1 ..

@[simp ↓] theorem keeps_logConflict {s0 s : State} (h : Keeps s0 s) (r : Shared) (inst : Nat) (holder refused : Feature) : Keeps s0 (logConflict s r inst holder refused) := by
  unfold logConflict
  try dsimp only
  repeat' (first | with_reducible assumption | (simp +contextual [h]; done) | split)

@[simp ↓] theorem keeps_setArr {s0 s : State} (h : Keeps s0 s) (n : Nat) (a : ArraySt) : Keeps s0 (setArr s n a) := by
  unfold setArr
  try dsimp only
  repeat' (first | with_reducible assumption | (simp +contextual [h]; done) | split)

@[simp ↓] theorem keeps_setEng {s0 s : State} (h : Keeps s0 s) (e : Nat) (x : Engine) : Keeps s0 (setEng s e x) := by
  unfold setEng
  try dsimp only
  repeat' (first | with_reducible assumption | (simp +contextual [h]; done) | split)

@[simp ↓] theorem keeps_setGrp {s0 s : State} (h : Keeps s0 s) (e sl : Nat) (g : Group) : Keeps s0 (setGrp s e sl g) := by
  unfold setGrp
  try dsimp only
  repeat' (first | with_reducible assumption | (simp +contextual [h]; done) | split)

@[simp ↓] theorem keeps_setRing {s0 s : State} (h : Keeps s0 s) (e a : Nat) (r : Ring) : Keeps s0 (setRing s e a r) := by
  unfold setRing
  try dsimp only
  repeat' (first | with_reducible assumption | (simp +contextual [h]; done) | split)

@[simp ↓] theorem keeps_triggerVector {s0 s : State} (h : Keeps s0 s) (v : Fin 128) : Keeps s0 (triggerVector s v) := by
  unfold triggerVector
  try dsimp only
  repeat' (first | with_reducible assumption | (simp +contextual [h]; done) | split)

@[simp ↓] theorem keeps_settleCause {s0 t : State} (h : Keeps s0 t) (g : Fin 8) (s : State) : Keeps s0 (settleCause g s t) := by
  unfold settleCause
  repeat' (first
    | with_reducible assumption
    | with_reducible apply keeps_triggerVector
    | with_reducible apply keeps_clrRegBit
    | with_reducible apply keeps_ite)

@[simp ↓] theorem keeps_withCause {s0 s : State} (h : Keeps s0 s) (g : Fin 8) (f : State → State) (hf : ∀ x0, Keeps s0 x0 → Keeps s0 (f x0)) : Keeps s0 (withCause g f s) := by
  unfold withCause
  try dsimp only
  repeat' (first | with_reducible assumption | (simp +contextual [h, hf]; done) | split)

@[simp ↓] theorem keeps_raiseErr {s0 s : State} (h : Keeps s0 s) (i : Nat) : Keeps s0 (raiseErr s i) := by
  unfold raiseErr
  try dsimp only
  repeat' (first | with_reducible assumption | (simp +contextual [h]; done) | split)

@[simp ↓] theorem keeps_raisePwr {s0 s : State} (h : Keeps s0 s) (i : Nat) : Keeps s0 (raisePwr s i) := by
  unfold raisePwr
  try dsimp only
  repeat' (first | with_reducible assumption | (simp +contextual [h]; done) | split)

@[simp ↓] theorem keeps_raiseThm {s0 s : State} (h : Keeps s0 s) (i : Nat) : Keeps s0 (raiseThm s i) := by
  unfold raiseThm
  try dsimp only
  repeat' (first | with_reducible assumption | (simp +contextual [h]; done) | split)

@[simp ↓] theorem keeps_raisePort {s0 s : State} (h : Keeps s0 s) (q i : Nat) : Keeps s0 (raisePort s q i) := by
  unfold raisePort
  try dsimp only
  repeat' (first | with_reducible assumption | (simp +contextual [h]; done) | split)

@[simp ↓] theorem keeps_raiseBoot {s0 s : State} (h : Keeps s0 s) : Keeps s0 (raiseBoot s) := by
  unfold raiseBoot
  try dsimp only
  repeat' (first | with_reducible assumption | (simp +contextual [h]; done) | split)

@[simp ↓] theorem keeps_raiseHost {s0 s : State} (h : Keeps s0 s) (i : Nat) : Keeps s0 (raiseHost s i) := by
  unfold raiseHost
  try dsimp only
  repeat' (first | with_reducible assumption | (simp +contextual [h]; done) | split)

@[simp ↓] theorem keeps_markBad {s0 s : State} (h : Keeps s0 s) (what : Word) : Keeps s0 (markBad s what) := by
  unfold markBad
  try dsimp only
  repeat' (first | with_reducible assumption | (simp +contextual [h]; done) | split)

@[simp ↓] theorem keeps_enterPending {s0 s : State} (h : Keeps s0 s) (what : Word) (cause : Byte) : Keeps s0 (enterPending s what cause) := by
  unfold enterPending
  try dsimp only
  repeat' (first
    | with_reducible assumption
    | (with_reducible intro _)
    | with_reducible apply keeps_markBad
    | with_reducible apply keeps_raiseErr
    | with_reducible apply keeps_ite
    | simp only [↓Keeps.upd_iff]
    | split)

@[simp ↓] theorem keeps_overflowBucket {s0 s : State} (h : Keeps s0 s) (c : BktClass) (i : Nat) : Keeps s0 (overflowBucket s c i) := by
  unfold overflowBucket
  try dsimp only
  repeat' (first
    | with_reducible assumption
    | (with_reducible intro _)
    | with_reducible apply keeps_setRegWord
    | with_reducible apply keeps_logEvent
    | with_reducible apply keeps_raiseErr
    | with_reducible apply keeps_enterPending
    | with_reducible apply keeps_ite
    | simp only [↓Keeps.upd_iff]
    | (refine keeps_of_some ?_ (by assumption))
    | (refine keeps_of_snd ?_ (by assumption))
    | (refine keeps_of_fst ?_ (by assumption))
    | split
    | dsimp only)

@[simp ↓] theorem keeps_addBucket {s0 s : State} (h : Keeps s0 s) (c : BktClass) (inst k : Nat) : Keeps s0 (addBucket s c inst k).2 := by
  unfold addBucket
  try dsimp only
  repeat' (first | with_reducible assumption | (simp +contextual [h]; done) | split)

@[simp ↓] theorem keeps_correctedError {s0 s : State} (h : Keeps s0 s) (c : BktClass) (inst : Nat) (loc : Word) : Keeps s0 (correctedError s c inst loc).2 := by
  unfold correctedError
  try dsimp only
  repeat' (first | with_reducible assumption | (simp +contextual [h]; done) | split)

@[simp ↓] theorem keeps_uncorrectable {s0 s : State} (h : Keeps s0 s) (c : BktClass) (inst : Nat) (loc : Word) : Keeps s0 (uncorrectable s c inst loc).2 := by
  unfold uncorrectable
  try dsimp only
  repeat' (first
    | with_reducible assumption
    | (with_reducible intro _)
    | with_reducible apply keeps_setRegWord
    | with_reducible apply keeps_logEvent
    | with_reducible apply keeps_raiseErr
    | with_reducible apply keeps_addBucket
    | with_reducible apply keeps_ite
    | simp only [↓Keeps.upd_iff]
    | split)

@[simp ↓] theorem keeps_leakBucket {s0 s : State} (h : Keeps s0 s) (i : Nat) : Keeps s0 (leakBucket s i) := by
  unfold leakBucket
  try dsimp only
  repeat' (first | with_reducible assumption | (simp +contextual [h]; done) | split)

@[simp ↓] theorem keeps_nextPseq {s0 s : State} (h : Keeps s0 s) (key : ItemKey) (typ : Nat) : Keeps s0 (nextPseq s key typ).2 := by
  unfold nextPseq
  try dsimp only
  repeat' (first | with_reducible assumption | (simp +contextual [h]; done) | split)

@[simp ↓] theorem keeps_sendKept {s0 s : State} (h : Keeps s0 s) (q : PktSpec) : Keeps s0 (sendKept s q) := by
  unfold sendKept
  try dsimp only
  repeat' (first
    | with_reducible assumption
    | (with_reducible intro _)
    | with_reducible apply keeps_nextPseq
    | with_reducible apply keeps_emit
    | simp only [↓Keeps.upd_iff]
    | (refine keeps_of_some ?_ (by assumption))
    | (refine keeps_of_snd ?_ (by assumption))
    | (refine keeps_of_fst ?_ (by assumption))
    | split)

@[simp ↓] theorem keeps_sendAnswer {s0 s : State} (h : Keeps s0 s) (q : PktSpec) : Keeps s0 (sendAnswer s q) := by
  unfold sendAnswer
  try dsimp only
  repeat' (first | with_reducible assumption | (simp +contextual [h]; done) | split)

@[simp ↓] theorem keeps_sendAck {s0 s : State} (h : Keeps s0 s) (p : Packet) : Keeps s0 (sendAck s p) := by
  unfold sendAck
  try dsimp only
  repeat' (first | with_reducible assumption | (simp +contextual [h]; done) | split)

@[simp ↓] theorem keeps_sendNack {s0 s : State} (h : Keeps s0 s) (p : Packet) (code detail : Nat) : Keeps s0 (sendNack s p code detail) := by
  unfold sendNack
  try dsimp only
  repeat' (first | with_reducible assumption | (simp +contextual [h]; done) | split)

@[simp ↓] theorem keeps_endWork {s0 s : State} (h : Keeps s0 s) (k : ItemKey) : Keeps s0 (endWork s k) := by
  unfold endWork
  try dsimp only
  repeat' (first | with_reducible assumption | (simp +contextual [h]; done) | split)

@[simp ↓] theorem keeps_setItt {s0 s : State} (h : Keeps s0 s) (k : ItemKey) (f : IttEntry → IttEntry) : Keeps s0 (setItt s k f) := by
  unfold setItt
  try dsimp only
  repeat' (first | with_reducible assumption | (simp +contextual [h]; done) | split)

@[simp ↓] theorem keeps_sendResult {s0 s : State} (h : Keeps s0 s) (e : IttEntry) (addr : Nat) (payload : List Byte) : Keeps s0 (sendResult s e addr payload) := by
  unfold sendResult
  try dsimp only
  repeat' (first | with_reducible assumption | (simp +contextual [h]; done) | split)

@[simp ↓] theorem keeps_endItem {s0 s : State} (h : Keeps s0 s) (k : ItemKey) (st : ItemState) (code detail : Nat) : Keeps s0 (endItem s k st code detail) := by
  unfold endItem
  try dsimp only
  repeat' (first
    | with_reducible assumption
    | (with_reducible intro _)
    | with_reducible apply keeps_sendResult
    | with_reducible apply keeps_setItt
    | with_reducible apply keeps_endWork
    | with_reducible apply keeps_ite
    | with_reducible apply keeps_some
    | with_reducible exact keeps_none
    | simp only [↓Keeps.upd_iff]
    | (refine keeps_of_some ?_ (by assumption))
    | (refine keeps_of_snd ?_ (by assumption))
    | (refine keeps_of_fst ?_ (by assumption))
    | split
    | dsimp only)

@[simp ↓] theorem keeps_failItem {s0 s : State} (h : Keeps s0 s) (k : ItemKey) (code detail : Nat) : Keeps s0 (failItem s k code detail) := by
  unfold failItem
  try dsimp only
  repeat' (first | with_reducible assumption | (simp +contextual [h]; done) | split)

@[simp ↓] theorem keeps_descFail {s0 s : State} (h : Keeps s0 s) (k : ItemKey) (source low : Nat) : Keeps s0 (descFail s k source low) := by
  unfold descFail
  try dsimp only
  repeat' (first | with_reducible assumption | (simp +contextual [h]; done) | split)

@[simp ↓] theorem keeps_addRecent {s0 s : State} (h : Keeps s0 s) (k : ItemKey) : Keeps s0 (addRecent s k) := by
  unfold addRecent
  try dsimp only
  repeat' (first | with_reducible assumption | (simp +contextual [h]; done) | split)

@[simp ↓] theorem keeps_leaveItt {s0 s : State} (h : Keeps s0 s) (k : ItemKey) : Keeps s0 (leaveItt s k) := by
  unfold leaveItt
  try dsimp only
  repeat' (first | with_reducible assumption | (simp +contextual [h]; done) | split)

@[simp ↓] theorem keeps_addFlags {s0 s : State} (h : Keeps s0 s) (k : ItemKey) (fl : Nat) : Keeps s0 (addFlags s k fl) := by
  unfold addFlags
  try dsimp only
  repeat' (first | with_reducible assumption | (simp +contextual [h]; done) | split)

@[simp ↓] theorem keeps_trigFail {s0 s : State} (h : Keeps s0 s) (k : ItemKey) (tag : Nat) : Keeps s0 (trigFail s k tag) := by
  unfold trigFail
  try dsimp only
  repeat' (first | with_reducible assumption | (simp +contextual [h]; done) | split)

@[simp ↓] theorem keeps_setTrig {s0 s : State} (h : Keeps s0 s) (k : ItemKey) (tag : Nat) (f : TrigEntry → TrigEntry) : Keeps s0 (setTrig s k tag f) := by
  unfold setTrig
  try dsimp only
  repeat' (first | with_reducible assumption | (simp +contextual [h]; done) | split)

@[simp ↓] theorem keeps_countTag {s0 s : State} (h : Keeps s0 s) (k : ItemKey) (tag : Nat) : Keeps s0 (countTag s k tag) := by
  unfold countTag
  try dsimp only
  repeat' (first | with_reducible assumption | (simp +contextual [h]; done) | split)

@[simp ↓] theorem keeps_armTag {s0 s : State} (h : Keeps s0 s) (k : ItemKey) (tag expect : Nat) : Keeps s0 (armTag s k tag expect) := by
  unfold armTag
  try dsimp only
  repeat' (first | with_reducible assumption | (simp +contextual [h]; done) | split)

@[simp ↓] theorem keeps_setFarPort {s0 s : State} (h : Keeps s0 s) (p : Nat) (x : FarPort) : Keeps s0 (setFarPort s p x) := by
  unfold setFarPort
  try dsimp only
  repeat' (first | with_reducible assumption | (simp +contextual [h]; done) | split)

@[simp ↓] theorem keeps_setFarModule {s0 s : State} (h : Keeps s0 s) (p : Nat) (x : Fm576) : Keeps s0 (setFarModule s p x) := by
  unfold setFarModule
  try dsimp only
  repeat' (first | with_reducible assumption | (simp +contextual [h]; done) | split)

@[simp ↓] theorem keeps_storeRegHw {s0 s : State} (h : Keeps s0 s) (off : Nat) (v hw : Word) : Keeps s0 (storeRegHw s off v hw) := by
  unfold storeRegHw
  try dsimp only
  repeat' (first | with_reducible assumption | (simp +contextual [h]; done) | split)

@[simp ↓] theorem keeps_storeReg {s0 s : State} (h : Keeps s0 s) (off : Nat) (v : Word) : Keeps s0 (storeReg s off v) := by
  unfold storeReg
  try dsimp only
  repeat' (first | with_reducible assumption | (simp +contextual [h]; done) | split)

@[simp ↓] theorem keeps_whenLive {s0 s : State} (h : Keeps s0 s) (off : Nat) (f : State → State) (hf : ∀ x0, Keeps s0 x0 → Keeps s0 (f x0)) : Keeps s0 (whenLive s off f) := by
  unfold whenLive
  try dsimp only
  repeat' (first | with_reducible assumption | (simp +contextual [h, hf]; done) | split)

@[simp ↓] theorem keeps_recomputeTint {s0 s : State} (h : Keeps s0 s) (r : Nat) : Keeps s0 (recomputeTint s r) := by
  unfold recomputeTint
  try dsimp only
  repeat' (first
    | with_reducible assumption
    | (with_reducible intro _)
    | with_reducible apply keeps_setRegFld
    | with_reducible apply keeps_setRegBit
    | with_reducible apply keeps_ite
    | with_reducible apply keeps_foldl
    | simp only [↓Keeps.upd_iff]
    | split
    | dsimp only)

@[simp ↓] theorem keeps_recomputeTints {s0 s : State} (h : Keeps s0 s) : Keeps s0 (recomputeTints s) := by
  unfold recomputeTints
  try dsimp only
  repeat' (first | with_reducible assumption | (simp +contextual [h]; done) | split)

@[simp ↓] theorem keeps_chargeBucket {s0 s : State} (h : Keeps s0 s) (m t n r : Nat) : Keeps s0 (chargeBucket s m t n r) := by
  unfold chargeBucket
  try dsimp only
  repeat' (first | with_reducible assumption | (simp +contextual [h]; done) | split)

@[simp ↓] theorem keeps_chargeFme {s0 s : State} (h : Keeps s0 s) (n : Nat) : Keeps s0 (chargeFme s n) := by
  unfold chargeFme
  try dsimp only
  repeat' (first | with_reducible assumption | (simp +contextual [h]; done) | split)

@[simp ↓] theorem keeps_endEpoch {s0 s : State} (h : Keeps s0 s) : Keeps s0 (endEpoch s) := by
  unfold endEpoch
  try dsimp only
  repeat' (first | with_reducible assumption | (simp +contextual [h]; done) | split)

@[simp ↓] theorem keeps_writeTintLim {s0 s : State} (h : Keeps s0 s) (t r : Nat) (v : Word) : Keeps s0 (writeTintLim s t r v) := by
  unfold writeTintLim
  try dsimp only
  repeat' (first
    | with_reducible assumption
    | (with_reducible intro _)
    | with_reducible apply keeps_setRegWord
    | with_reducible apply keeps_recomputeTint
    | with_reducible apply keeps_setRegBit
    | with_reducible apply keeps_ite
    | split)

@[simp ↓] theorem keeps_execTintLimWrite {s0 s : State} (h : Keeps s0 s) (t : Fin 8) (r : Fin 4) (v : Word) : OutKeeps s0 (execTintLimWrite t r v s) := by
  unfold execTintLimWrite
  try dsimp only
  repeat' (first
    | with_reducible assumption
    | (with_reducible intro _)
    | with_reducible apply keeps_whenLive
    | with_reducible apply keeps_writeTintLim
    | with_reducible apply keeps_next
    | with_reducible apply keeps_fault
    | with_reducible apply keeps_outIte
    | dsimp only)

@[simp ↓] theorem keeps_setPhys {s0 s : State} (h : Keeps s0 s) (p x : Nat) (f : PhysRec → PhysRec) : Keeps s0 (setPhys s p x f) := by
  unfold setPhys
  try dsimp only
  repeat' (first | with_reducible assumption | (simp +contextual [h]; done) | split)

@[simp ↓] theorem keeps_checkPool {s0 s : State} (h : Keeps s0 s) (p : Nat) : Keeps s0 (checkPool s p) := by
  unfold checkPool
  try dsimp only
  repeat' (first
    | with_reducible assumption
    | (with_reducible intro _)
    | with_reducible apply keeps_logEvent
    | with_reducible apply keeps_setRegBit
    | with_reducible apply keeps_setFarModule
    | with_reducible apply keeps_setRegFld
    | with_reducible apply keeps_ite
    | simp only [↓Keeps.upd_iff]
    | split)

@[simp ↓] theorem keeps_commitInto {s0 s : State} (h : Keeps s0 s) (p g x : Nat) (defective : Bool) : Keeps s0 (commitInto s p g x defective) := by
  unfold commitInto
  try dsimp only
  repeat' (first
    | with_reducible assumption
    | (with_reducible intro _)
    | with_reducible apply keeps_setPhys
    | with_reducible apply keeps_checkPool
    | with_reducible apply keeps_setFarPort
    | with_reducible apply keeps_some
    | with_reducible exact keeps_none
    | simp only [↓Keeps.upd_iff]
    | (refine keeps_of_some ?_ (by assumption))
    | (refine keeps_of_snd ?_ (by assumption))
    | (refine keeps_of_fst ?_ (by assumption))
    | split
    | dsimp only)

@[simp ↓] theorem keeps_startCommit {s0 s : State} (h : Keeps s0 s) (p g : Nat) (defective : Bool) : Keeps s0 (startCommit s p g defective) := by
  unfold startCommit
  try dsimp only
  repeat' (first | with_reducible assumption | (simp +contextual [h]; done) | split)

@[simp ↓] theorem keeps_startRefresh {s0 s : State} (h : Keeps s0 s) (p g : Nat) : Keeps s0 (startRefresh s p g) := by
  unfold startRefresh
  try dsimp only
  repeat' (first | with_reducible assumption | (simp +contextual [h]; done) | split)

@[simp ↓] theorem keeps_levelWear {s0 s : State} (h : Keeps s0 s) (p : Nat) : Keeps s0 (levelWear s p) := by
  unfold levelWear
  try dsimp only
  repeat' (first
    | with_reducible assumption
    | (with_reducible intro _)
    | with_reducible apply keeps_some
    | with_reducible apply keeps_chargeFme
    | with_reducible apply keeps_commitInto
    | with_reducible apply keeps_setFarPort
    | with_reducible apply keeps_ite
    | with_reducible apply keeps_getD
    | with_reducible apply keeps_iteSnd
    | with_reducible apply keeps_iteFst
    | with_reducible apply keeps_outIte
    | with_reducible apply keeps_issueIte
    | with_reducible apply keeps_foldl
    | with_reducible apply keeps_some
    | with_reducible exact keeps_none
    | with_reducible apply keeps_next
    | with_reducible apply keeps_fault
    | simp only [↓Keeps.upd_iff]
    | with_reducible apply Keeps.updFresh
    | (refine keeps_of_some ?_ (by assumption))
    | (refine keeps_of_snd ?_ (by assumption))
    | (refine keeps_of_fst ?_ (by assumption))
    | split
    | dsimp only)

@[simp ↓] theorem keeps_appendJournal {s0 s : State} (h : Keeps s0 s) (p typ g x : Nat) : Keeps s0 (appendJournal s p typ g x) := by
  unfold appendJournal
  try dsimp only
  repeat' (first
    | with_reducible assumption
    | (with_reducible intro _)
    | with_reducible apply keeps_setFarPort
    | with_reducible apply keeps_chargeFme
    | with_reducible apply keeps_setFarModule
    | with_reducible apply keeps_ite
    | with_reducible apply keeps_getD
    | with_reducible apply keeps_iteSnd
    | with_reducible apply keeps_iteFst
    | with_reducible apply keeps_outIte
    | with_reducible apply keeps_issueIte
    | with_reducible apply keeps_foldl
    | with_reducible apply keeps_some
    | with_reducible exact keeps_none
    | with_reducible apply keeps_next
    | with_reducible apply keeps_fault
    | simp only [↓Keeps.upd_iff]
    | with_reducible apply Keeps.updFresh
    | (refine keeps_of_some ?_ (by assumption))
    | (refine keeps_of_snd ?_ (by assumption))
    | (refine keeps_of_fst ?_ (by assumption))
    | split
    | dsimp only)

@[simp ↓] theorem keeps_checkpoint {s0 s : State} (h : Keeps s0 s) (p : Nat) : Keeps s0 (checkpoint s p) := by
  unfold checkpoint
  try dsimp only
  repeat' (first | with_reducible assumption | (simp +contextual [h]; done) | split)

@[simp ↓] theorem keeps_releaseGranule {s0 s : State} (h : Keeps s0 s) (p g old : Nat) (defective : Bool) : Keeps s0 (releaseGranule s p g old defective) := by
  unfold releaseGranule
  try dsimp only
  repeat' (first | with_reducible assumption | (simp +contextual [h]; done) | split)

@[simp ↓] theorem keeps_granuleOk {s0 s : State} (h : Keeps s0 s) (p g : Nat) : Keeps s0 (granuleOk s p g) := by
  unfold granuleOk
  try dsimp only
  repeat' (first
    | with_reducible assumption
    | (with_reducible intro _)
    | with_reducible apply keeps_none
    | with_reducible apply keeps_some
    | with_reducible apply keeps_setFarModule
    | with_reducible apply keeps_setPhys
    | with_reducible apply keeps_setFarPort
    | with_reducible apply keeps_ite
    | with_reducible apply keeps_getD
    | with_reducible apply keeps_iteSnd
    | with_reducible apply keeps_iteFst
    | with_reducible apply keeps_outIte
    | with_reducible apply keeps_issueIte
    | with_reducible apply keeps_foldl
    | with_reducible apply keeps_some
    | with_reducible exact keeps_none
    | with_reducible apply keeps_next
    | with_reducible apply keeps_fault
    | simp only [↓Keeps.upd_iff]
    | with_reducible apply Keeps.updFresh
    | (refine keeps_of_some ?_ (by assumption))
    | (refine keeps_of_snd ?_ (by assumption))
    | (refine keeps_of_fst ?_ (by assumption))
    | split
    | dsimp only)

@[simp ↓] theorem keeps_journalDone {s0 s : State} (h : Keeps s0 s) (p g : Nat) : Keeps s0 (journalDone s p g) := by
  unfold journalDone
  try dsimp only
  repeat' (first
    | with_reducible assumption
    | (with_reducible intro _)
    | with_reducible apply keeps_none
    | with_reducible apply keeps_some
    | with_reducible apply keeps_appendJournal
    | with_reducible apply keeps_setFarPort
    | with_reducible apply keeps_releaseGranule
    | with_reducible apply keeps_levelWear
    | with_reducible apply keeps_checkPool
    | with_reducible apply keeps_checkpoint
    | with_reducible apply keeps_ite
    | with_reducible apply keeps_getD
    | with_reducible apply keeps_iteSnd
    | with_reducible apply keeps_iteFst
    | with_reducible apply keeps_outIte
    | with_reducible apply keeps_issueIte
    | with_reducible apply keeps_foldl
    | with_reducible apply keeps_some
    | with_reducible exact keeps_none
    | with_reducible apply keeps_next
    | with_reducible apply keeps_fault
    | simp only [↓Keeps.upd_iff]
    | with_reducible apply Keeps.updFresh
    | (refine keeps_of_some ?_ (by assumption))
    | (refine keeps_of_snd ?_ (by assumption))
    | (refine keeps_of_fst ?_ (by assumption))
    | split
    | dsimp only)

@[simp ↓] theorem keeps_settleGranule {s0 s : State} (h : Keeps s0 s) (p g : Nat) : Keeps s0 (settleGranule s p g) := by
  unfold settleGranule
  try dsimp only
  repeat' (first
    | with_reducible assumption
    | (with_reducible intro _)
    | with_reducible apply keeps_journalDone
    | with_reducible apply keeps_granuleOk
    | with_reducible apply keeps_startCommit
    | with_reducible apply keeps_ite
    | with_reducible apply keeps_getD
    | with_reducible apply keeps_iteSnd
    | with_reducible apply keeps_iteFst
    | with_reducible apply keeps_outIte
    | with_reducible apply keeps_issueIte
    | with_reducible apply keeps_foldl
    | with_reducible apply keeps_some
    | with_reducible exact keeps_none
    | with_reducible apply keeps_next
    | with_reducible apply keeps_fault
    | simp only [↓Keeps.upd_iff]
    | with_reducible apply Keeps.updFresh
    | (refine keeps_of_some ?_ (by assumption))
    | (refine keeps_of_snd ?_ (by assumption))
    | (refine keeps_of_fst ?_ (by assumption))
    | split
    | dsimp only)

@[simp ↓] theorem keeps_roomForBuffer {s0 s : State} (h : Keeps s0 s) (p g : Nat) : Keeps s0 (roomForBuffer s p g) := by
  unfold roomForBuffer
  try dsimp only
  repeat' (first | with_reducible assumption | (simp +contextual [h]; done) | split)

@[simp ↓] theorem keeps_stageLine {s0 s : State} (h : Keeps s0 s) (p g l : Nat) (x : FarLine) : Keeps s0 (stageLine s p g l x) := by
  unfold stageLine
  try dsimp only
  repeat' (first | with_reducible assumption | (simp +contextual [h]; done) | split)

@[simp ↓] theorem keeps_storeNear {s0 s : State} (h : Keeps s0 s) (a : Nat) (x : ScLine) : Keeps s0 (storeNear s a x) := by
  unfold storeNear
  dsimp only
  have hf : ∀ (m : List Host.Cell) (i : Nat), Memory.wf m = true →
      Memory.wf (if bit x.dirty i then setMemByte m (a + i) (lineByte x.data i) else m) = true := by
    intro m i hm
    split
    · exact Memory.wf_setMemByte hm _ _
    · exact hm
  repeat' (first
    | with_reducible assumption
    | with_reducible apply keeps_setPoison
    | with_reducible apply Keeps.updBytes
    | with_reducible apply Keeps.updCells
    | with_reducible apply keeps_ite)

@[simp ↓] theorem keeps_writeBack {s0 s : State} (h : Keeps s0 s) (ln : Nat) (x : ScLine) : Keeps s0 (writeBack s ln x) := by
  unfold writeBack
  try dsimp only
  repeat' (first | with_reducible assumption | (simp +contextual [h]; done) | split)

@[simp ↓] theorem keeps_cleanLine {s0 s : State} (h : Keeps s0 s) (ln : Nat) (x : ScLine) : Keeps s0 (cleanLine s ln x) := by
  unfold cleanLine
  try dsimp only
  repeat' (first | with_reducible assumption | (simp +contextual [h]; done) | split)

@[simp ↓] theorem keeps_dropLine {s0 s : State} (h : Keeps s0 s) (ln : Nat) : Keeps s0 (dropLine s ln) := by
  unfold dropLine
  try dsimp only
  repeat' (first | with_reducible assumption | (simp +contextual [h]; done) | split)

@[simp ↓] theorem keeps_markTree {s0 s : State} (h : Keeps s0 s) (ln way : Nat) (victim : Bool) : Keeps s0 (markTree s ln way victim) := by
  unfold markTree
  try dsimp only
  repeat' (first | with_reducible assumption | (simp +contextual [h]; done) | split)

@[simp ↓] theorem keeps_freeWay {s0 s : State} (h : Keeps s0 s) (ln : Nat) : Keeps s0 (freeWay s ln).2 := by
  unfold freeWay
  try dsimp only
  repeat' (first | with_reducible assumption | (simp +contextual [h]; done) | split)

@[simp ↓] theorem keeps_ensureLine {s0 s : State} (h : Keeps s0 s) (ln : Nat) (streaming : Bool) : Keeps s0 (ensureLine s ln streaming) := by
  unfold ensureLine
  try dsimp only
  repeat' (first
    | with_reducible assumption
    | (with_reducible intro _)
    | with_reducible apply keeps_markTree
    | with_reducible apply keeps_freeWay
    | with_reducible apply keeps_some
    | with_reducible exact keeps_none
    | simp only [↓Keeps.upd_iff]
    | (refine keeps_of_some ?_ (by assumption))
    | (refine keeps_of_snd ?_ (by assumption))
    | (refine keeps_of_fst ?_ (by assumption))
    | split
    | dsimp only)

@[simp ↓] theorem keeps_scWrite {s0 s : State} (h : Keeps s0 s) (ln lo : Nat) (bs : List Byte) (poison streaming : Bool) : Keeps s0 (scWrite s ln lo bs poison streaming) := by
  unfold scWrite
  try dsimp only
  repeat' (first | with_reducible assumption | (simp +contextual [h]; done) | split)

@[simp ↓] theorem keeps_writeUnit {s0 s : State} (h : Keeps s0 s) (u lo : Nat) (bs : List Byte) (poison streaming : Bool) : Keeps s0 (writeUnit s u lo bs poison streaming) := by
  unfold writeUnit
  try dsimp only
  repeat' (first | with_reducible assumption | (simp +contextual [h]; done) | split)

@[simp ↓] theorem keeps_writeBytesHint {s0 s : State} (h : Keeps s0 s) (a : Nat) (bs : List Byte) (poison streaming : Bool) : Keeps s0 (writeBytesHint s a bs poison streaming) := by
  unfold writeBytesHint
  try dsimp only
  repeat' (first | with_reducible assumption | (simp +contextual [h]; done) | split)

@[simp ↓] theorem keeps_writeBytes {s0 s : State} (h : Keeps s0 s) (a : Nat) (bs : List Byte) (poison : Bool) : Keeps s0 (writeBytes s a bs poison) := by
  unfold writeBytes
  try dsimp only
  repeat' (first | with_reducible assumption | (simp +contextual [h]; done) | split)

@[simp ↓] theorem keeps_noteFar {s0 s : State} (h : Keeps s0 s) (k : ItemKey) (a : Nat) : Keeps s0 (noteFar s k a) := by
  unfold noteFar
  try dsimp only
  repeat' (first | with_reducible assumption | (simp +contextual [h]; done) | split)

@[simp ↓] theorem keeps_failUsers {s0 s : State} (h : Keeps s0 s) (p : Nat) : Keeps s0 (failUsers s p) := by
  unfold failUsers
  try dsimp only
  repeat' (first | with_reducible assumption | (simp +contextual [h]; done) | split)

@[simp ↓] theorem keeps_stopPort {s0 s : State} (h : Keeps s0 s) (p st width : Nat) : Keeps s0 (stopPort s p st width) := by
  unfold stopPort
  try dsimp only
  repeat' (first
    | with_reducible assumption
    | (with_reducible intro _)
    | with_reducible apply keeps_setRegBit
    | with_reducible apply keeps_setRegFld
    | with_reducible apply keeps_setFarPort
    | with_reducible apply keeps_recomputeTint
    | with_reducible apply keeps_failUsers
    | with_reducible apply keeps_ite
    | simp only [↓Keeps.upd_iff]
    | split
    | dsimp only)

@[simp ↓] theorem keeps_granuleDone {s0 s : State} (h : Keeps s0 s) (p g : Nat) (ok : Bool) : Keeps s0 (granuleDone s p g ok) := by
  unfold granuleDone
  try dsimp only
  repeat' (first
    | with_reducible assumption
    | (with_reducible intro _)
    | with_reducible apply keeps_none
    | with_reducible apply keeps_some
    | with_reducible apply keeps_granuleOk
    | with_reducible apply keeps_appendJournal
    | with_reducible apply keeps_setPhys
    | with_reducible apply keeps_stopPort
    | with_reducible apply keeps_checkPool
    | with_reducible apply keeps_setFarPort
    | with_reducible apply keeps_ite
    | with_reducible apply keeps_getD
    | with_reducible apply keeps_iteSnd
    | with_reducible apply keeps_iteFst
    | with_reducible apply keeps_outIte
    | with_reducible apply keeps_issueIte
    | with_reducible apply keeps_foldl
    | with_reducible apply keeps_some
    | with_reducible exact keeps_none
    | with_reducible apply keeps_next
    | with_reducible apply keeps_fault
    | simp only [↓Keeps.upd_iff]
    | with_reducible apply Keeps.updFresh
    | (refine keeps_of_some ?_ (by assumption))
    | (refine keeps_of_snd ?_ (by assumption))
    | (refine keeps_of_fst ?_ (by assumption))
    | split
    | dsimp only)

@[simp ↓] theorem keeps_flushFar {s0 s : State} (h : Keeps s0 s) : Keeps s0 (flushFar s) := by
  unfold flushFar
  try dsimp only
  repeat' (first
    | with_reducible assumption
    | (with_reducible intro _)
    | with_reducible apply keeps_cleanLine
    | with_reducible apply keeps_ite
    | with_reducible apply keeps_foldl
    | split
    | dsimp only)

@[simp ↓] theorem keeps_startPersist {s0 s : State} (h : Keeps s0 s) : Keeps s0 (startPersist s) := by
  unfold startPersist
  try dsimp only
  repeat' (first
    | with_reducible assumption
    | (with_reducible intro _)
    | with_reducible apply keeps_flushFar
    | with_reducible apply keeps_setRegFld
    | simp only [↓Keeps.upd_iff])

@[simp ↓] theorem keeps_endPersist {s0 s : State} (h : Keeps s0 s) : Keeps s0 (endPersist s) := by
  unfold endPersist
  try dsimp only
  repeat' (first
    | with_reducible assumption
    | (with_reducible intro _)
    | with_reducible apply keeps_setRegFld
    | with_reducible apply keeps_setRegBit
    | with_reducible apply keeps_withCause
    | with_reducible apply keeps_ite
    | simp only [↓Keeps.upd_iff]
    | (refine keeps_of_some ?_ (by assumption))
    | (refine keeps_of_snd ?_ (by assumption))
    | (refine keeps_of_fst ?_ (by assumption))
    | split
    | dsimp only)

@[simp ↓] theorem keeps_syncFar {s0 s : State} (h : Keeps s0 s) : Keeps s0 (syncFar s) := by
  unfold syncFar
  try dsimp only
  repeat' (first
    | with_reducible assumption
    | (with_reducible intro _)
    | with_reducible apply keeps_startPersist
    | with_reducible apply keeps_settleGranule
    | with_reducible apply keeps_endPersist
    | with_reducible apply keeps_foldl
    | dsimp only)

@[simp ↓] theorem keeps_mountPort {s0 s : State} (h : Keeps s0 s) (p width : Nat) : Keeps s0 (mountPort s p width) := by
  unfold mountPort
  try dsimp only
  repeat' (first
    | with_reducible assumption
    | (with_reducible intro _)
    | with_reducible apply keeps_setRegFld
    | with_reducible apply keeps_setFarPort
    | with_reducible apply keeps_recomputeTint
    | with_reducible apply keeps_levelWear
    | with_reducible apply keeps_checkPool
    | with_reducible apply keeps_ite
    | with_reducible apply keeps_getD
    | with_reducible apply keeps_iteSnd
    | with_reducible apply keeps_iteFst
    | with_reducible apply keeps_outIte
    | with_reducible apply keeps_issueIte
    | with_reducible apply keeps_foldl
    | with_reducible apply keeps_some
    | with_reducible exact keeps_none
    | with_reducible apply keeps_next
    | with_reducible apply keeps_fault
    | simp only [↓Keeps.upd_iff]
    | with_reducible apply Keeps.updFresh
    | (refine keeps_of_some ?_ (by assumption))
    | (refine keeps_of_snd ?_ (by assumption))
    | (refine keeps_of_fst ?_ (by assumption))
    | split
    | dsimp only)

@[simp ↓] theorem keeps_trainPort {s0 s : State} (h : Keeps s0 s) (p : Nat) (x : FarFound) : Keeps s0 (trainPort s p x) := by
  unfold trainPort
  try dsimp only
  repeat' (first | with_reducible assumption | (simp +contextual [h]; done) | split)

@[simp ↓] theorem keeps_dropFarLines {s0 s : State} (h : Keeps s0 s) (p : Nat) : Keeps s0 (dropFarLines s p) := by
  unfold dropFarLines
  try dsimp only
  repeat' (first | with_reducible assumption | (simp +contextual [h]; done) | split)

@[simp ↓] theorem keeps_showMisses {s0 s : State} (h : Keeps s0 s) (l : Nat) : Keeps s0 (showMisses s l) := by
  unfold showMisses
  try dsimp only
  repeat' (first | with_reducible assumption | (simp +contextual [h]; done) | split)

@[simp ↓] theorem keeps_countHit {s0 s : State} (h : Keeps s0 s) (l : Nat) : Keeps s0 (countHit s l) := by
  unfold countHit
  try dsimp only
  repeat' (first | with_reducible assumption | (simp +contextual [h]; done) | split)

@[simp ↓] theorem keeps_countMiss {s0 s : State} (h : Keeps s0 s) (l : Nat) : Keeps s0 (countMiss s l) := by
  unfold countMiss
  try dsimp only
  repeat' (first | with_reducible assumption | (simp +contextual [h]; done) | split)

@[simp ↓] theorem keeps_joinMiss {s0 s : State} (h : Keeps s0 s) (l : Nat) (q : ScReq) : Keeps s0 (joinMiss s l q) := by
  unfold joinMiss
  try dsimp only
  repeat' (first
    | with_reducible assumption
    | (with_reducible intro _)
    | with_reducible apply keeps_showMisses
    | with_reducible apply keeps_countMiss
    | simp only [↓Keeps.upd_iff])

@[simp ↓] theorem keeps_holdMiss {s0 s : State} (h : Keeps s0 s) (l : Nat) : Keeps s0 (holdMiss s l) := by
  unfold holdMiss
  try dsimp only
  repeat' (first
    | with_reducible assumption
    | (with_reducible intro _)
    | with_reducible apply keeps_freeWord
    | with_reducible apply keeps_addCounter
    | with_reducible apply keeps_setRegBit
    | with_reducible apply keeps_ite
    | with_reducible apply keeps_getD
    | with_reducible apply keeps_iteSnd
    | with_reducible apply keeps_iteFst
    | with_reducible apply keeps_outIte
    | with_reducible apply keeps_issueIte
    | with_reducible apply keeps_foldl
    | with_reducible apply keeps_some
    | with_reducible exact keeps_none
    | with_reducible apply keeps_next
    | with_reducible apply keeps_fault
    | simp only [↓Keeps.upd_iff]
    | with_reducible apply Keeps.updFresh
    | (refine keeps_of_some ?_ (by assumption))
    | (refine keeps_of_snd ?_ (by assumption))
    | (refine keeps_of_fst ?_ (by assumption))
    | split
    | dsimp only)

@[simp ↓] theorem keeps_answerSc {s0 s : State} (h : Keeps s0 s) (q : ScReq) (bs : List Byte) (p : Bool) : Keeps s0 (answerSc s q bs p) := by
  unfold answerSc
  try dsimp only
  repeat' (first | with_reducible assumption | (simp +contextual [h]; done) | split)

@[simp ↓] theorem keeps_serveSc {s0 s : State} (h : Keeps s0 s) (q : ScReq) : Keeps s0 (serveSc s q) := by
  unfold serveSc
  try dsimp only
  repeat' (first | with_reducible assumption | (simp +contextual [h]; done) | split)

@[simp ↓] theorem keeps_chargeSc {s0 s : State} (h : Keeps s0 s) (q : ScReq) : Keeps s0 (chargeSc s q) := by
  unfold chargeSc
  try dsimp only
  repeat' (first | with_reducible assumption | (simp +contextual [h]; done) | split)

@[simp ↓] theorem keeps_scIssue {s0 s : State} (h : Keeps s0 s) (q : ScReq) : Keeps s0 (scIssue s q) := by
  unfold scIssue
  try dsimp only
  repeat' (first
    | with_reducible assumption
    | (with_reducible intro _)
    | with_reducible apply keeps_chargeSc
    | with_reducible apply keeps_serveSc
    | with_reducible apply keeps_countHit
    | with_reducible apply keeps_none
    | with_reducible apply keeps_joinMiss
    | with_reducible apply keeps_some
    | with_reducible apply keeps_markTree
    | with_reducible apply keeps_ite
    | with_reducible apply keeps_getD
    | with_reducible apply keeps_iteSnd
    | with_reducible apply keeps_iteFst
    | with_reducible apply keeps_outIte
    | with_reducible apply keeps_issueIte
    | with_reducible apply keeps_foldl
    | with_reducible apply keeps_some
    | with_reducible exact keeps_none
    | with_reducible apply keeps_next
    | with_reducible apply keeps_fault
    | simp only [↓Keeps.upd_iff]
    | with_reducible apply Keeps.updFresh
    | (refine keeps_of_some ?_ (by assumption))
    | (refine keeps_of_snd ?_ (by assumption))
    | (refine keeps_of_fst ?_ (by assumption))
    | split
    | dsimp only)

@[simp ↓] theorem keeps_serveHeld {s0 s : State} (h : Keeps s0 s) (n : Nat) : Keeps s0 (serveHeld n s) := by
  induction n generalizing s with
  | zero => exact h
  | succ n ih =>
    unfold serveHeld
    split
    · exact h
    · exact ih (keeps_scIssue (by simp only [↓Keeps.upd_iff]; exact h) _)

@[simp ↓] theorem keeps_movePoisoned {s0 s : State} (h : Keeps s0 s) (l : Nat) : Keeps s0 (movePoisoned s l) := by
  unfold movePoisoned
  try dsimp only
  repeat' (first | with_reducible assumption | (simp +contextual [h]; done) | split)

@[simp ↓] theorem keeps_fetchLine {s0 s : State} (h : Keeps s0 s) (l : Nat) (streaming : Bool) : Keeps s0 (fetchLine s l streaming) := by
  unfold fetchLine
  try dsimp only
  repeat' (first
    | with_reducible assumption
    | (with_reducible intro _)
    | with_reducible apply keeps_ensureLine
    | with_reducible apply keeps_movePoisoned
    | with_reducible apply keeps_none
    | with_reducible apply keeps_some
    | with_reducible apply keeps_ite
    | with_reducible apply keeps_getD
    | with_reducible apply keeps_iteSnd
    | with_reducible apply keeps_iteFst
    | with_reducible apply keeps_outIte
    | with_reducible apply keeps_issueIte
    | with_reducible apply keeps_foldl
    | with_reducible apply keeps_some
    | with_reducible exact keeps_none
    | with_reducible apply keeps_next
    | with_reducible apply keeps_fault
    | simp only [↓Keeps.upd_iff]
    | with_reducible apply Keeps.updFresh
    | (refine keeps_of_some ?_ (by assumption))
    | (refine keeps_of_snd ?_ (by assumption))
    | (refine keeps_of_fst ?_ (by assumption))
    | split
    | dsimp only)

@[simp ↓] theorem keeps_openMiss {s0 s : State} (h : Keeps s0 s) (l : Nat) : Keeps s0 (openMiss s l) := by
  unfold openMiss
  try dsimp only
  repeat' (first
    | with_reducible assumption
    | (with_reducible intro _)
    | with_reducible apply keeps_showMisses
    | with_reducible apply keeps_countMiss
    | with_reducible apply keeps_ite
    | with_reducible apply keeps_getD
    | with_reducible apply keeps_iteSnd
    | with_reducible apply keeps_iteFst
    | with_reducible apply keeps_outIte
    | with_reducible apply keeps_issueIte
    | with_reducible apply keeps_foldl
    | with_reducible apply keeps_some
    | with_reducible exact keeps_none
    | with_reducible apply keeps_next
    | with_reducible apply keeps_fault
    | simp only [↓Keeps.upd_iff]
    | with_reducible apply Keeps.updFresh
    | (refine keeps_of_some ?_ (by assumption))
    | (refine keeps_of_snd ?_ (by assumption))
    | (refine keeps_of_fst ?_ (by assumption))
    | split
    | dsimp only)

@[simp ↓] theorem keeps_fetchMiss {s0 s : State} (h : Keeps s0 s) (l : Nat) (streaming : Bool) : Keeps s0 (fetchMiss s l streaming) := by
  unfold fetchMiss
  try dsimp only
  repeat' (first
    | with_reducible assumption
    | (with_reducible intro _)
    | with_reducible apply keeps_some
    | with_reducible apply keeps_showMisses
    | with_reducible apply keeps_movePoisoned
    | with_reducible apply keeps_fetchLine
    | with_reducible apply keeps_ite
    | with_reducible apply keeps_getD
    | with_reducible apply keeps_iteSnd
    | with_reducible apply keeps_iteFst
    | with_reducible apply keeps_outIte
    | with_reducible apply keeps_issueIte
    | with_reducible apply keeps_foldl
    | with_reducible apply keeps_some
    | with_reducible exact keeps_none
    | with_reducible apply keeps_next
    | with_reducible apply keeps_fault
    | simp only [↓Keeps.upd_iff]
    | with_reducible apply Keeps.updFresh
    | (refine keeps_of_some ?_ (by assumption))
    | (refine keeps_of_snd ?_ (by assumption))
    | (refine keeps_of_fst ?_ (by assumption))
    | split
    | dsimp only)

@[simp ↓] theorem keeps_fillMiss {s0 s : State} (h : Keeps s0 s) (l : Nat) : Keeps s0 (fillMiss s l) := by
  unfold fillMiss
  try dsimp only
  repeat' (first
    | with_reducible assumption
    | (with_reducible intro _)
    | with_reducible apply keeps_none
    | with_reducible apply keeps_some
    | with_reducible apply keeps_showMisses
    | with_reducible apply keeps_movePoisoned
    | with_reducible apply keeps_serveSc
    | with_reducible apply keeps_fetchLine
    | with_reducible apply keeps_ite
    | with_reducible apply keeps_getD
    | with_reducible apply keeps_iteSnd
    | with_reducible apply keeps_iteFst
    | with_reducible apply keeps_outIte
    | with_reducible apply keeps_issueIte
    | with_reducible apply keeps_foldl
    | with_reducible apply keeps_some
    | with_reducible exact keeps_none
    | with_reducible apply keeps_next
    | with_reducible apply keeps_fault
    | simp only [↓Keeps.upd_iff]
    | with_reducible apply Keeps.updFresh
    | (refine keeps_of_some ?_ (by assumption))
    | (refine keeps_of_snd ?_ (by assumption))
    | (refine keeps_of_fst ?_ (by assumption))
    | split
    | dsimp only)

@[simp ↓] theorem keeps_flushAll {s0 s : State} (h : Keeps s0 s) : Keeps s0 (flushAll s) := by
  unfold flushAll
  try dsimp only
  repeat' (first | with_reducible assumption | (simp +contextual [h]; done) | split)

@[simp ↓] theorem keeps_flushInvalidate {s0 s : State} (h : Keeps s0 s) : Keeps s0 (flushInvalidate s) := by
  unfold flushInvalidate
  try dsimp only
  repeat' (first | with_reducible assumption | (simp +contextual [h]; done) | split)

@[simp ↓] theorem keeps_writeFlush {s0 s : State} (h : Keeps s0 s) (v : Word) : Keeps s0 (writeFlush s v) := by
  unfold writeFlush
  try dsimp only
  repeat' (first | with_reducible assumption | (simp +contextual [h]; done) | split)

@[simp ↓] theorem keeps_execFlushReq {s0 s : State} (h : Keeps s0 s) (v : Word) : OutKeeps s0 (execFlushReq v s) := by
  unfold execFlushReq
  try dsimp only
  repeat' (first
    | with_reducible assumption
    | (with_reducible intro _)
    | with_reducible apply keeps_whenLive
    | with_reducible apply keeps_writeFlush
    | with_reducible apply keeps_next
    | with_reducible apply keeps_fault
    | with_reducible apply keeps_outIte
    | dsimp only)

@[simp ↓] theorem keeps_execFlushInval {s0 s : State} (h : Keeps s0 s) (v : Word) : OutKeeps s0 (execFlushInval v s) := by
  unfold execFlushInval
  try dsimp only
  repeat' (first
    | with_reducible assumption
    | (with_reducible intro _)
    | with_reducible apply keeps_whenLive
    | with_reducible apply keeps_writeFlush
    | with_reducible apply keeps_next
    | with_reducible apply keeps_fault
    | with_reducible apply keeps_outIte
    | dsimp only)

@[simp ↓] theorem keeps_execFlushDone {s0 s : State} (h : Keeps s0 s) : OutKeeps s0 (execFlushDone s) := by
  unfold execFlushDone
  try dsimp only
  repeat' (first | with_reducible assumption | (simp +contextual [h]; done) | split)

@[simp ↓] theorem keeps_applyHold {s0 s : State} (h : Keeps s0 s) (h : Nat) : Keeps s0 (applyHold s h) := by
  unfold applyHold
  try dsimp only
  repeat' (first
    | with_reducible assumption
    | (with_reducible intro _)
    | with_reducible apply keeps_dropLine
    | with_reducible apply keeps_writeBack
    | with_reducible apply keeps_setRegFld
    | with_reducible apply Keeps.updFilter
    | with_reducible apply Keeps.updEmpty
    | with_reducible apply Keeps.updEmptyFresh
    | with_reducible apply Keeps.updFilterFresh
    | with_reducible apply keeps_ite
    | with_reducible apply keeps_foldl
    | simp only [↓Keeps.upd_iff]
    | split
    | dsimp only)

@[simp ↓] theorem keeps_writeHoldWays {s0 s : State} (h : Keeps s0 s) (v : Word) : Keeps s0 (writeHoldWays s v) := by
  unfold writeHoldWays
  try dsimp only
  repeat' (first | with_reducible assumption | (simp +contextual [h]; done) | split)

@[simp ↓] theorem keeps_execHoldWaysWrite {s0 s : State} (h : Keeps s0 s) (v : Word) : OutKeeps s0 (execHoldWaysWrite v s) := by
  unfold execHoldWaysWrite
  try dsimp only
  repeat' (first
    | with_reducible assumption
    | (with_reducible intro _)
    | with_reducible apply keeps_whenLive
    | with_reducible apply keeps_writeHoldWays
    | with_reducible apply keeps_next
    | with_reducible apply keeps_fault
    | with_reducible apply keeps_outIte
    | dsimp only)

@[simp ↓] theorem keeps_execHoldChangeComplete {s0 s : State} (h : Keeps s0 s) : OutKeeps s0 (execHoldChangeComplete s) := by
  unfold execHoldChangeComplete
  try dsimp only
  repeat' (first
    | with_reducible assumption
    | (with_reducible intro _)
    | with_reducible apply keeps_clrRegBit
    | with_reducible apply keeps_applyHold
    | with_reducible apply keeps_ite
    | with_reducible apply keeps_next
    | with_reducible apply keeps_fault
    | with_reducible apply keeps_outIte
    | split)

@[simp ↓] theorem keeps_writeScOcc {s0 s : State} (h : Keeps s0 s) (i : Nat) (v : Word) : Keeps s0 (writeScOcc s i v) := by
  unfold writeScOcc
  try dsimp only
  repeat' (first | with_reducible assumption | (simp +contextual [h]; done) | split)

@[simp ↓] theorem keeps_execScHighClr {s0 s : State} (h : Keeps s0 s) (sl : Fin 64) (v : Word) : OutKeeps s0 (execScHighClr sl v s) := by
  unfold execScHighClr
  try dsimp only
  repeat' (first
    | with_reducible assumption
    | (with_reducible intro _)
    | with_reducible apply keeps_whenLive
    | with_reducible apply keeps_writeScOcc
    | with_reducible apply keeps_next
    | with_reducible apply keeps_fault
    | with_reducible apply keeps_outIte
    | dsimp only)

end Sys2Proof.Machine
end

