-- ==== Sys2Proof/Laws/KeepsPart2.lean ====
section
/-! SUPPORT. What the operations and commands keep (KeepsBase), in the order of the model's files: Traffic, ArrayBase, Governor, Movers, Arrays. -/

set_option linter.unusedTactic false
set_option linter.unreachableTactic false
set_option linter.unusedSimpArgs false
set_option linter.unusedVariables false

namespace Sys2Proof.Machine

@[simp ↓] theorem keeps_chargePort {s0 s : State} (h : Keeps s0 s) (p : Port) (r : LineReq) : Keeps s0 (chargePort s p r) := by
  unfold chargePort
  try dsimp only
  repeat' (first | with_reducible assumption | (simp +contextual [h]; done) | split)

@[simp ↓] theorem keeps_touchSc {s0 s : State} (h : Keeps s0 s) (p : Port) (r : LineReq) : Keeps s0 (touchSc s p r) := by
  unfold touchSc
  try dsimp only
  repeat' (first
    | with_reducible assumption
    | (with_reducible intro _)
    | with_reducible apply keeps_countHit
    | with_reducible apply keeps_some
    | with_reducible apply keeps_markTree
    | with_reducible apply keeps_none
    | with_reducible apply keeps_fetchMiss
    | with_reducible apply keeps_openMiss
    | with_reducible apply keeps_ite
    | with_reducible apply keeps_getD
    | with_reducible apply keeps_iteSnd
    | with_reducible apply keeps_iteFst
    | with_reducible apply keeps_outIte
    | with_reducible apply keeps_issueIte
    | with_reducible apply keeps_foldl
    | with_reducible apply keeps_some
    | with_reducible exact keeps_none
    | with_reducible apply keeps_next
    | with_reducible apply keeps_fault
    | simp only [↓Keeps.upd_iff]
    | with_reducible apply Keeps.updFresh
    | (refine keeps_of_some ?_ (by assumption))
    | (refine keeps_of_snd ?_ (by assumption))
    | (refine keeps_of_fst ?_ (by assumption))
    | split
    | dsimp only)

@[simp ↓] theorem keeps_stallTint {s0 s : State} (h : Keeps s0 s) (t : Nat) : Keeps s0 (stallTint s t) := by
  unfold stallTint
  try dsimp only
  repeat' (first | with_reducible assumption | (simp +contextual [h]; done) | split)

@[simp ↓] theorem keeps_issueReq {s0 s : State} (h : Keeps s0 s) (p : Port) (r : LineReq) : Keeps s0 (issueReq s p r).2 := by
  unfold issueReq
  try dsimp only
  repeat' (first | with_reducible assumption | (simp +contextual [h]; done) | split)

@[simp ↓] theorem keeps_issueReqs {s0 s : State} (h : Keeps s0 s) (p : Port) (l : List LineReq) : Keeps s0 (issueReqs s p l).2 := by
  induction l generalizing s with
  | nil => exact h
  | cons r t ih =>
    have k := keeps_issueReq h p r
    unfold issueReqs
    split
    · exact keeps_of_snd k (by assumption)
    · exact ih (keeps_of_snd k (by assumption))

@[simp ↓] theorem keeps_issueAll {s0 s : State} (h : Keeps s0 s) (p : Port) (rs : List LineReq) : Keeps s0 (issueAll s p rs).2 := by
  unfold issueAll
  try dsimp only
  repeat' (first | with_reducible assumption | (simp +contextual [h]; done) | split)

@[simp ↓] theorem keeps_endBar2 {s0 s : State} (h : Keeps s0 s) (x : Bar2Req) : Keeps s0 (endBar2 s x) := by
  unfold endBar2
  try dsimp only
  repeat' (first | with_reducible assumption | (simp +contextual [h]; done) | split)

@[simp ↓] theorem keeps_serveHost {s0 s : State} (h : Keeps s0 s) (n : Nat) : Keeps s0 (serveHost n s) := by
  induction n generalizing s with
  | zero => exact h
  | succ n ih =>
    unfold serveHost
    split
    · have k := keeps_issueReqs h
      dsimp only
      split
      · exact ih (keeps_endBar2 (by simp only [↓Keeps.upd_iff]; exact k _ _) _)
      · simp only [↓Keeps.upd_iff]
        exact k _ _
    · exact h

@[simp ↓] theorem keeps_servePorts {s0 s : State} (h : Keeps s0 s) : Keeps s0 (servePorts s) := by
  unfold servePorts
  try dsimp only
  repeat' (first | with_reducible assumption | (simp +contextual [h]; done) | split)

@[simp ↓] theorem keeps_countHold {s0 s : State} (h : Keeps s0 s) (q : ScReq) : Keeps s0 (countHold s q) := by
  unfold countHold
  try dsimp only
  repeat' (first | with_reducible assumption | (simp +contextual [h]; done) | split)

@[simp ↓] theorem keeps_checkSc {s0 s : State} (h : Keeps s0 s) (q : ScReq) (c : ReadCheck) : Keeps s0 (checkSc s q c) := by
  cases c <;> unfold checkSc <;> dsimp only <;> repeat' (first
    | with_reducible assumption
    | with_reducible apply keeps_correctedError
    | with_reducible apply keeps_setPoison
    | with_reducible apply keeps_dropLine
    | with_reducible apply keeps_uncorrectable
    | simp only [↓Keeps.upd_iff]
    | split)

@[simp ↓] theorem keeps_spoilLine {s0 s : State} (h : Keeps s0 s) (a : Nat) (bad : List (Fin 132)) : Keeps s0 (spoilLine s a bad) := by
  unfold spoilLine
  dsimp only
  split
  · have k := h.updCells (fun m i => if (bad.any fun b => decide (b.val = i)) = true then setMemByte m (a + i) (Config.freeByte (s.fresh + i)) else m)
      (List.range 128) (fun m x hm => by
        split
        · exact Memory.wf_setMemByte hm _ _
        · exact hm) s.arrays s.engines s.sc s.vc s.tint s.near s.far s.movers s.items s.host s.fab s.power s.thermal s.boot s.pins s.aclkMhz
      s.repair s.pend s.lastErr
    exact ⟨k.pending, k.mem, k.regs, k.poison, k.log, k.seq, k.outbox, Nat.le_trans k.fresh (Nat.le_add_right _ _)⟩
  · exact h

@[simp ↓] theorem keeps_checkNear {s0 s : State} (h : Keeps s0 s) (l : Nat) (bad : List (Fin 132)) : Keeps s0 (checkNear s l bad) := by
  unfold checkNear
  try dsimp only
  repeat' (first
    | with_reducible assumption
    | (with_reducible intro _)
    | with_reducible apply keeps_correctedError
    | with_reducible apply keeps_freeBool
    | with_reducible apply keeps_uncorrectable
    | with_reducible apply keeps_setPoison
    | with_reducible apply keeps_spoilLine
    | with_reducible apply keeps_ite
    | with_reducible apply keeps_getD
    | with_reducible apply keeps_iteSnd
    | with_reducible apply keeps_iteFst
    | with_reducible apply keeps_outIte
    | with_reducible apply keeps_issueIte
    | with_reducible apply keeps_foldl
    | with_reducible apply keeps_some
    | with_reducible exact keeps_none
    | with_reducible apply keeps_next
    | with_reducible apply keeps_fault
    | simp only [↓Keeps.upd_iff]
    | with_reducible apply Keeps.updFresh
    | (refine keeps_of_some ?_ (by assumption))
    | (refine keeps_of_snd ?_ (by assumption))
    | (refine keeps_of_fst ?_ (by assumption))
    | split
    | dsimp only)

@[simp ↓] theorem keeps_refuseHead {s0 s : State} (h : Keeps s0 s) (n : Nat) (e : QEntry) : Keeps s0 (refuseHead s n e) := by
  unfold refuseHead
  try dsimp only
  repeat' (first
    | with_reducible assumption
    | (with_reducible intro _)
    | with_reducible apply keeps_setArr
    | with_reducible apply keeps_setRing
    | with_reducible apply keeps_descFail
    | with_reducible apply keeps_ite
    | simp only [↓Keeps.upd_iff]
    | split
    | dsimp only)

@[simp ↓] theorem keeps_settleHead {s0 s : State} (h : Keeps s0 s) (n k : Nat) : Keeps s0 (settleHead s n k) := by
  induction k generalizing s with
  | zero => exact h
  | succ k ih =>
    unfold settleHead
    dsimp only
    repeat' (first
      | with_reducible assumption
      | with_reducible apply keeps_setArr
      | (refine ih ?_)
      | with_reducible apply keeps_refuseHead
      | split)

@[simp ↓] theorem keeps_settle {s0 s : State} (h : Keeps s0 s) (n : Nat) : Keeps s0 (settle s n) := by
  unfold settle
  try dsimp only
  repeat' (first | with_reducible assumption | (simp +contextual [h]; done) | split)

@[simp ↓] theorem keeps_noteHigh {s0 s : State} (h : Keeps s0 s) (n : Nat) : Keeps s0 (noteHigh s n) := by
  unfold noteHigh
  try dsimp only
  repeat' (first | with_reducible assumption | (simp +contextual [h]; done) | split)

@[simp ↓] theorem keeps_enqueue {s0 s : State} (h : Keeps s0 s) (n : Nat) (d : Desc) (who : Issuer) : Keeps s0 (enqueue s n d who) := by
  unfold enqueue
  try dsimp only
  repeat' (first
    | with_reducible assumption
    | (with_reducible intro _)
    | with_reducible apply keeps_settle
    | with_reducible apply keeps_noteHigh
    | with_reducible apply keeps_setArr
    | with_reducible apply keeps_ite
    | with_reducible apply keeps_getD
    | with_reducible apply keeps_iteSnd
    | with_reducible apply keeps_iteFst
    | with_reducible apply keeps_outIte
    | with_reducible apply keeps_issueIte
    | with_reducible apply keeps_foldl
    | with_reducible apply keeps_some
    | with_reducible exact keeps_none
    | with_reducible apply keeps_next
    | with_reducible apply keeps_fault
    | simp only [↓Keeps.upd_iff]
    | with_reducible apply Keeps.updFresh
    | (refine keeps_of_some ?_ (by assumption))
    | (refine keeps_of_snd ?_ (by assumption))
    | (refine keeps_of_fst ?_ (by assumption))
    | split
    | dsimp only)

@[simp ↓] theorem keeps_fullStall {s0 s : State} (h : Keeps s0 s) (n : Nat) : Keeps s0 (fullStall s n) := by
  unfold fullStall
  try dsimp only
  repeat' (first | with_reducible assumption | (simp +contextual [h]; done) | split)

@[simp ↓] theorem keeps_admitResumed {s0 s : State} (h : Keeps s0 s) (n : Nat) : Keeps s0 (admitResumed s n) := by
  unfold admitResumed
  try dsimp only
  repeat' (first | with_reducible assumption | (simp +contextual [h]; done) | split)

@[simp ↓] theorem keeps_reissue {s0 s : State} (h : Keeps s0 s) (n : Nat) (x : SavedPass) : Keeps s0 (reissue s n x) := by
  unfold reissue
  try dsimp only
  repeat' (first
    | with_reducible assumption
    | (with_reducible intro _)
    | with_reducible apply keeps_setArr
    | with_reducible apply keeps_some
    | with_reducible apply keeps_descFail
    | with_reducible apply keeps_none
    | with_reducible apply keeps_fullStall
    | with_reducible apply keeps_settle
    | with_reducible apply keeps_noteHigh
    | with_reducible apply keeps_ite
    | with_reducible apply keeps_getD
    | with_reducible apply keeps_iteSnd
    | with_reducible apply keeps_iteFst
    | with_reducible apply keeps_outIte
    | with_reducible apply keeps_issueIte
    | with_reducible apply keeps_foldl
    | with_reducible apply keeps_some
    | with_reducible exact keeps_none
    | with_reducible apply keeps_next
    | with_reducible apply keeps_fault
    | simp only [↓Keeps.upd_iff]
    | with_reducible apply Keeps.updFresh
    | (refine keeps_of_some ?_ (by assumption))
    | (refine keeps_of_snd ?_ (by assumption))
    | (refine keeps_of_fst ?_ (by assumption))
    | split
    | dsimp only)

@[simp ↓] theorem keeps_issueDesc {s0 s : State} (h : Keeps s0 s) (n : Nat) (d : Desc) (who : Issuer) : Keeps s0 (issueDesc s n d who).2 := by
  unfold issueDesc
  try dsimp only
  repeat' (first | with_reducible assumption | (simp +contextual [h]; done) | split)

@[simp ↓] theorem keeps_feedTo {s0 s : State} (h : Keeps s0 s) (n : Nat) (d : Desc) (j1 : Nat) : Keeps s0 (feedTo s n d j1).2 := by
  unfold feedTo
  try dsimp only
  repeat' (first | with_reducible assumption | (simp +contextual [h]; done) | split)

@[simp ↓] theorem keeps_loadThrough {s0 s : State} (h : Keeps s0 s) (n : Nat) (d : Desc) (all : List LineReq) : Keeps s0 (loadThrough s n d all).2 := by
  unfold loadThrough
  try dsimp only
  repeat' (first | with_reducible assumption | (simp +contextual [h]; done) | split)

@[simp ↓] theorem keeps_accumulate {s0 s : State} (h : Keeps s0 s) (n : Nat) (d : Desc) (j0 j1 : Nat) : Keeps s0 (accumulate s n d j0 j1) := by
  unfold accumulate
  try dsimp only
  repeat' (first | with_reducible assumption | (simp +contextual [h]; done) | split)

@[simp ↓] theorem keeps_countArray {s0 s : State} (h : Keeps s0 s) (n off k : Nat) : Keeps s0 (countArray s n off k) := by
  unfold countArray
  try dsimp only
  repeat' (first | with_reducible assumption | (simp +contextual [h]; done) | split)

@[simp ↓] theorem keeps_issueColumns {s0 s : State} (h : Keeps s0 s) (n : Nat) (d : Desc) (k : Nat) : Keeps s0 (issueColumns s n d k) := by
  unfold issueColumns
  try dsimp only
  repeat' (first
    | with_reducible assumption
    | (with_reducible intro _)
    | with_reducible apply keeps_countArray
    | with_reducible apply keeps_setArr
    | with_reducible apply keeps_ite
    | simp only [↓Keeps.upd_iff]
    | (refine keeps_of_some ?_ (by assumption))
    | (refine keeps_of_snd ?_ (by assumption))
    | (refine keeps_of_fst ?_ (by assumption))
    | split
    | dsimp only)

@[simp ↓] theorem keeps_takePause {s0 s : State} (h : Keeps s0 s) (n : Nat) : Keeps s0 (takePause s n) := by
  unfold takePause
  try dsimp only
  repeat' (first
    | with_reducible assumption
    | (with_reducible intro _)
    | with_reducible apply keeps_setArr
    | with_reducible apply keeps_logConflict
    | with_reducible apply keeps_raiseThm
    | with_reducible apply keeps_setRegBit
    | with_reducible apply keeps_ite
    | simp only [↓Keeps.upd_iff]
    | split)

@[simp ↓] theorem keeps_pauseMoved {s0 s : State} (h : Keeps s0 s) (p w : Nat) : Keeps s0 (pauseMoved s p w) := by
  unfold pauseMoved
  try dsimp only
  repeat' (first
    | with_reducible assumption
    | (with_reducible intro _)
    | with_reducible apply keeps_foldl
    | with_reducible apply keeps_takePause
    | with_reducible apply keeps_ite
    | with_reducible apply keeps_getD
    | with_reducible apply keeps_iteSnd
    | with_reducible apply keeps_iteFst
    | with_reducible apply keeps_outIte
    | with_reducible apply keeps_issueIte
    | with_reducible apply keeps_foldl
    | with_reducible apply keeps_some
    | with_reducible exact keeps_none
    | with_reducible apply keeps_next
    | with_reducible apply keeps_fault
    | simp only [↓Keeps.upd_iff]
    | with_reducible apply Keeps.updFresh
    | (refine keeps_of_some ?_ (by assumption))
    | (refine keeps_of_snd ?_ (by assumption))
    | (refine keeps_of_fst ?_ (by assumption))
    | split
    | dsimp only)

@[simp ↓] theorem keeps_movePause {s0 s : State} (h : Keeps s0 s) (p : Nat) (f : State → State) (hf : ∀ x0, Keeps s0 x0 → Keeps s0 (f x0)) :
    Keeps s0 (movePause s p f) := keeps_pauseMoved (hf _ h) _ _

@[simp ↓] theorem keeps_cutRamp {s0 s : State} (h : Keeps s0 s) (n : Nat) : Keeps s0 (cutRamp s n) := by
  unfold cutRamp
  try dsimp only
  repeat' (first
    | with_reducible assumption
    | (with_reducible intro _)
    | with_reducible apply keeps_freeWord
    | with_reducible apply keeps_countArray
    | with_reducible apply keeps_setArr
    | with_reducible apply keeps_none
    | with_reducible apply keeps_ite
    | with_reducible apply keeps_getD
    | with_reducible apply keeps_iteSnd
    | with_reducible apply keeps_iteFst
    | with_reducible apply keeps_outIte
    | with_reducible apply keeps_issueIte
    | with_reducible apply keeps_foldl
    | with_reducible apply keeps_some
    | with_reducible exact keeps_none
    | with_reducible apply keeps_next
    | with_reducible apply keeps_fault
    | simp only [↓Keeps.upd_iff]
    | with_reducible apply Keeps.updFresh
    | (refine keeps_of_some ?_ (by assumption))
    | (refine keeps_of_snd ?_ (by assumption))
    | (refine keeps_of_fst ?_ (by assumption))
    | split
    | dsimp only)

@[simp ↓] theorem keeps_rampDown {s0 s : State} (h : Keeps s0 s) (n : Nat) (d : Desc) : Keeps s0 (rampDown s n d) := by
  unfold rampDown
  try dsimp only
  repeat' (first | with_reducible assumption | (simp +contextual [h]; done) | split)

@[simp ↓] theorem keeps_poisonItem {s0 s : State} (h : Keeps s0 s) (n : Nat) (k : ItemKey) : Keeps s0 (poisonItem s n k) := by
  unfold poisonItem
  try dsimp only
  repeat' (first | with_reducible assumption | (simp +contextual [h]; done) | split)

@[simp ↓] theorem keeps_passFault {s0 s : State} (h : Keeps s0 s) (n : Nat) (k : ItemKey) : Keeps s0 (passFault s n k) := by
  unfold passFault
  try dsimp only
  repeat' (first
    | with_reducible assumption
    | (with_reducible intro _)
    | with_reducible apply keeps_poisonItem
    | with_reducible apply keeps_none
    | with_reducible apply keeps_settle
    | with_reducible apply keeps_failItem
    | with_reducible apply keeps_setArr
    | with_reducible apply keeps_ite
    | with_reducible apply keeps_getD
    | with_reducible apply keeps_iteSnd
    | with_reducible apply keeps_iteFst
    | with_reducible apply keeps_outIte
    | with_reducible apply keeps_issueIte
    | with_reducible apply keeps_foldl
    | with_reducible apply keeps_some
    | with_reducible exact keeps_none
    | with_reducible apply keeps_next
    | with_reducible apply keeps_fault
    | simp only [↓Keeps.upd_iff]
    | with_reducible apply Keeps.updFresh
    | (refine keeps_of_some ?_ (by assumption))
    | (refine keeps_of_snd ?_ (by assumption))
    | (refine keeps_of_fst ?_ (by assumption))
    | split
    | dsimp only)

@[simp ↓] theorem keeps_runColumns {s0 s : State} (h : Keeps s0 s) (n : Nat) (d : Desc) (j1 : Nat) : Keeps s0 (runColumns s n d j1) := by
  unfold runColumns
  try dsimp only
  repeat' (first
    | with_reducible assumption
    | (with_reducible intro _)
    | with_reducible apply keeps_some
    | with_reducible apply keeps_passFault
    | with_reducible apply keeps_issueColumns
    | with_reducible apply keeps_accumulate
    | with_reducible apply keeps_none
    | with_reducible apply keeps_ite
    | with_reducible apply keeps_getD
    | with_reducible apply keeps_iteSnd
    | with_reducible apply keeps_iteFst
    | with_reducible apply keeps_outIte
    | with_reducible apply keeps_issueIte
    | with_reducible apply keeps_foldl
    | with_reducible apply keeps_some
    | with_reducible exact keeps_none
    | with_reducible apply keeps_next
    | with_reducible apply keeps_fault
    | simp only [↓Keeps.upd_iff]
    | with_reducible apply Keeps.updFresh
    | (refine keeps_of_some ?_ (by assumption))
    | (refine keeps_of_snd ?_ (by assumption))
    | (refine keeps_of_fst ?_ (by assumption))
    | split
    | dsimp only)

@[simp ↓] theorem keeps_reportDone {s0 s : State} (h : Keeps s0 s) (n : Nat) (e : QEntry) (flags : BitVec 16) : Keeps s0 (reportDone s n e flags) := by
  unfold reportDone
  try dsimp only
  repeat' (first | with_reducible assumption | (simp +contextual [h]; done) | split)

@[simp ↓] theorem keeps_retire {s0 s : State} (h : Keeps s0 s) (n : Nat) : Keeps s0 (retire s n).2 := by
  unfold retire
  try dsimp only
  repeat' (first
    | with_reducible assumption
    | (with_reducible intro _)
    | with_reducible apply keeps_feedTo
    | with_reducible apply keeps_runColumns
    | with_reducible apply keeps_settle
    | with_reducible apply keeps_admitResumed
    | with_reducible apply keeps_setArr
    | with_reducible apply keeps_ite
    | with_reducible apply keeps_getD
    | with_reducible apply keeps_iteSnd
    | with_reducible apply keeps_iteFst
    | with_reducible apply keeps_outIte
    | with_reducible apply keeps_issueIte
    | with_reducible apply keeps_foldl
    | with_reducible apply keeps_some
    | with_reducible exact keeps_none
    | with_reducible apply keeps_next
    | with_reducible apply keeps_fault
    | simp only [↓Keeps.upd_iff]
    | with_reducible apply Keeps.updFresh
    | (refine keeps_of_some ?_ (by assumption))
    | (refine keeps_of_snd ?_ (by assumption))
    | (refine keeps_of_fst ?_ (by assumption))
    | split
    | dsimp only)

@[simp ↓] theorem keeps_completeInflight {s0 s : State} (h : Keeps s0 s) (n : Nat) : Keeps s0 (completeInflight s n) := by
  unfold completeInflight
  try dsimp only
  repeat' (first | with_reducible assumption | (simp +contextual [h]; done) | split)

@[simp ↓] theorem keeps_completeAll {s0 s : State} (h : Keeps s0 s) (n : Nat) : Keeps s0 (completeAll s n) := by
  unfold completeAll
  try dsimp only
  repeat' (first | with_reducible assumption | (simp +contextual [h]; done) | split)

@[simp ↓] theorem keeps_finishStop {s0 s : State} (h : Keeps s0 s) (n : Nat) : Keeps s0 (finishStop s n) := by
  unfold finishStop
  try dsimp only
  repeat' (first | with_reducible assumption | (simp +contextual [h]; done) | split)

@[simp ↓] theorem keeps_resumeArray {s0 s : State} (h : Keeps s0 s) (n : Nat) : Keeps s0 (resumeArray s n) := by
  unfold resumeArray
  try dsimp only
  repeat' (first | with_reducible assumption | (simp +contextual [h]; done) | split)

@[simp ↓] theorem keeps_spillTile {s0 s : State} (h : Keeps s0 s) (base pitch : Nat) (t : Tile) : Keeps s0 (spillTile s base pitch t) := by
  unfold spillTile
  try dsimp only
  repeat' (first
    | with_reducible assumption
    | (with_reducible intro _)
    | with_reducible apply keeps_writeBytes
    | with_reducible apply keeps_ite
    | with_reducible apply keeps_foldl
    | with_reducible apply keeps_some
    | with_reducible exact keeps_none
    | simp only [↓Keeps.upd_iff]
    | (refine keeps_of_some ?_ (by assumption))
    | (refine keeps_of_snd ?_ (by assumption))
    | (refine keeps_of_fst ?_ (by assumption))
    | split
    | dsimp only)

@[simp ↓] theorem keeps_spillLake {s0 s : State} (h : Keeps s0 s) (n : Nat) : Keeps s0 (spillLake s n) := by
  unfold spillLake
  try dsimp only
  repeat' (first
    | with_reducible assumption
    | (with_reducible intro _)
    | with_reducible apply keeps_setArr
    | with_reducible apply keeps_spillTile
    | with_reducible apply keeps_ite
    | with_reducible apply keeps_some
    | with_reducible exact keeps_none
    | simp only [↓Keeps.upd_iff]
    | (refine keeps_of_some ?_ (by assumption))
    | (refine keeps_of_snd ?_ (by assumption))
    | (refine keeps_of_fst ?_ (by assumption))
    | split
    | dsimp only)

@[simp ↓] theorem keeps_saveCursor {s0 s : State} (h : Keeps s0 s) (n : Nat) : Keeps s0 (saveCursor s n).2 := by
  unfold saveCursor
  try dsimp only
  repeat' (first
    | with_reducible assumption
    | (with_reducible intro _)
    | with_reducible apply keeps_some
    | with_reducible apply keeps_feedTo
    | with_reducible apply keeps_runColumns
    | with_reducible apply keeps_setArr
    | with_reducible apply keeps_settle
    | with_reducible apply keeps_setRegWord
    | with_reducible apply keeps_ite
    | with_reducible apply keeps_getD
    | with_reducible apply keeps_iteSnd
    | with_reducible apply keeps_iteFst
    | with_reducible apply keeps_outIte
    | with_reducible apply keeps_issueIte
    | with_reducible apply keeps_foldl
    | with_reducible apply keeps_some
    | with_reducible exact keeps_none
    | with_reducible apply keeps_next
    | with_reducible apply keeps_fault
    | simp only [↓Keeps.upd_iff]
    | with_reducible apply Keeps.updFresh
    | (refine keeps_of_some ?_ (by assumption))
    | (refine keeps_of_snd ?_ (by assumption))
    | (refine keeps_of_fst ?_ (by assumption))
    | split
    | dsimp only)

@[simp ↓] theorem keeps_setVdd {s0 s : State} (h : Keeps s0 s) (mhz : Nat) : Keeps s0 (setVdd s mhz) := by
  unfold setVdd
  try dsimp only
  repeat' (first | with_reducible assumption | (simp +contextual [h]; done) | split)

@[simp ↓] theorem keeps_requestStart {s0 s : State} (h : Keeps s0 s) (w : Starter) : Keeps s0 (requestStart s w).2 := by
  unfold requestStart
  try dsimp only
  repeat' (first | with_reducible assumption | (simp +contextual [h]; done) | split)

@[simp ↓] theorem keeps_admitHeld {s0 s : State} (h : Keeps s0 s) (l : List Starter) : Keeps s0 (admitHeld s l) := by
  induction l generalizing s with
  | nil => exact h
  | cons w t ih =>
    unfold admitHeld
    dsimp only
    split
    · exact ih (by simp only [↓Keeps.upd_iff]; exact h)
    · exact h

@[simp ↓] theorem keeps_startCommand {s0 s : State} (h : Keeps s0 s) : Keeps s0 (startCommand s) := by
  unfold startCommand
  try dsimp only
  repeat' (first | with_reducible assumption | (simp +contextual [h]; done) | split)

@[simp ↓] theorem keeps_setMvQueue {s0 s : State} (h : Keeps s0 s) (m : Nat) (q : List MoverEntry) : Keeps s0 (setMvQueue s m q) := by
  unfold setMvQueue
  try dsimp only
  repeat' (first | with_reducible assumption | (simp +contextual [h]; done) | split)

@[simp ↓] theorem keeps_mvReport {s0 s : State} (h : Keeps s0 s) (m i code : Nat) : Keeps s0 (mvReport s m i code) := by
  unfold mvReport
  try dsimp only
  repeat' (first
    | with_reducible assumption
    | (with_reducible intro _)
    | with_reducible apply keeps_withCause
    | with_reducible apply keeps_setRegBit
    | with_reducible apply keeps_setRegFld
    | simp only [↓Keeps.upd_iff]
    | dsimp only)

@[simp ↓] theorem keeps_submitHost {s0 s : State} (h : Keeps s0 s) (m : Nat) : Keeps s0 (submitHost s m) := by
  unfold submitHost
  try dsimp only
  repeat' (first | with_reducible assumption | (simp +contextual [h]; done) | split)

@[simp ↓] theorem keeps_submitItem {s0 s : State} (h : Keeps s0 s) (m : Nat) (d : Desc) : Keeps s0 (submitItem s m d) := by
  unfold submitItem
  try dsimp only
  repeat' (first | with_reducible assumption | (simp +contextual [h]; done) | split)

@[simp ↓] theorem keeps_takeHeldMover {s0 s : State} (h : Keeps s0 s) (m n : Nat) : Keeps s0 (takeHeldMover m n s) := by
  induction n generalizing s with
  | zero => exact h
  | succ n ih =>
    unfold takeHeldMover
    split
    · exact h
    · split
      · exact ih (keeps_submitItem (by simp only [↓Keeps.upd_iff]; exact h) _ _)
      · exact h

@[simp ↓] theorem keeps_putPieces {s0 s : State} (h : Keeps s0 s) (d : Desc) (open_ : Bool) (ps : List Piece) : Keeps s0 (putPieces s d open_ ps) := by
  unfold putPieces
  refine keeps_foldl h (fun t x ht => ?_)
  dsimp only
  split
  · exact keeps_writeBytesHint (ht.updFresh (x.2.1.length + 1) ..) ..
  · exact keeps_writeBytesHint ht ..

@[simp ↓] theorem keeps_mvRunRows {s0 s : State} (h : Keeps s0 s) (d : Desc) (o : Bool) (n r : Nat) (p : Bool) :
    Keeps s0 (mvRunRows d o n r s p).1 := by
  induction n generalizing s r p with
  | zero => exact h
  | succ n ih =>
    unfold mvRunRows
    split
    · exact h
    · exact ih (keeps_putPieces h _ _ _) _ _

@[simp ↓] theorem keeps_mvRun {s0 s : State} (h : Keeps s0 s) (d : Desc) : Keeps s0 (mvRun s d).2 := by
  unfold mvRun
  try dsimp only
  repeat' (first | with_reducible assumption | (simp +contextual [h]; done) | split)

@[simp ↓] theorem keeps_endHostMove {s0 s : State} (h : Keeps s0 s) (m : Nat) (d : Desc) (code : Nat) : Keeps s0 (endHostMove s m d code) := by
  unfold endHostMove
  try dsimp only
  repeat' (first | with_reducible assumption | (simp +contextual [h]; done) | split)

@[simp ↓] theorem keeps_noteMove {s0 s : State} (h : Keeps s0 s) (d : Desc) : Keeps s0 (noteMove s d) := by
  unfold noteMove
  try dsimp only
  repeat' (first | with_reducible assumption | (simp +contextual [h]; done) | split)

@[simp ↓] theorem keeps_placePayload {s0 s : State} (h : Keeps s0 s) (p : Packet) : Keeps s0 (placePayload s p) := by
  unfold placePayload
  try dsimp only
  repeat' (first
    | with_reducible assumption
    | (with_reducible intro _)
    | with_reducible apply keeps_sendAck
    | with_reducible apply keeps_noteFar
    | with_reducible apply keeps_writeBytes
    | with_reducible apply keeps_countTag
    | with_reducible apply keeps_ite
    | split)

@[simp ↓] theorem keeps_stopMove {s0 s : State} (h : Keeps s0 s) (d : Desc) : Keeps s0 (stopMove s d) := by
  unfold stopMove
  try dsimp only
  repeat' (first | with_reducible assumption | (simp +contextual [h]; done) | split)

@[simp ↓] theorem keeps_completeMove {s0 s : State} (h : Keeps s0 s) (m : Nat) (e : MoverEntry) : Keeps s0 (completeMove s m e) := by
  unfold completeMove
  try dsimp only
  repeat' (first
    | with_reducible assumption
    | (with_reducible intro _)
    | with_reducible apply keeps_setMvQueue
    | with_reducible apply keeps_placePayload
    | with_reducible apply keeps_mvRun
    | with_reducible apply keeps_endHostMove
    | with_reducible apply keeps_noteMove
    | with_reducible apply keeps_failItem
    | with_reducible apply keeps_descFail
    | with_reducible apply keeps_ite
    | simp only [↓Keeps.upd_iff]
    | (refine keeps_of_some ?_ (by assumption))
    | (refine keeps_of_snd ?_ (by assumption))
    | (refine keeps_of_fst ?_ (by assumption))
    | split
    | dsimp only)

@[simp ↓] theorem keeps_finishMove {s0 s : State} (h : Keeps s0 s) (m : Nat) : Keeps s0 (finishMove s m) := by
  unfold finishMove
  try dsimp only
  repeat' (first
    | with_reducible assumption
    | (with_reducible intro _)
    | with_reducible apply keeps_stopMove
    | with_reducible apply keeps_setMvQueue
    | with_reducible apply keeps_takeHeldMover
    | with_reducible apply keeps_issueReqs
    | with_reducible apply keeps_completeMove
    | with_reducible apply keeps_ite
    | with_reducible apply keeps_getD
    | with_reducible apply keeps_iteSnd
    | with_reducible apply keeps_iteFst
    | with_reducible apply keeps_outIte
    | with_reducible apply keeps_issueIte
    | with_reducible apply keeps_foldl
    | with_reducible apply keeps_some
    | with_reducible exact keeps_none
    | with_reducible apply keeps_next
    | with_reducible apply keeps_fault
    | simp only [↓Keeps.upd_iff]
    | with_reducible apply Keeps.updFresh
    | (refine keeps_of_some ?_ (by assumption))
    | (refine keeps_of_snd ?_ (by assumption))
    | (refine keeps_of_fst ?_ (by assumption))
    | split
    | dsimp only)

@[simp ↓] theorem keeps_writeMvSubmit {s0 s : State} (h : Keeps s0 s) (m : Nat) (v : Word) : Keeps s0 (writeMvSubmit s m v) := by
  unfold writeMvSubmit
  try dsimp only
  repeat' (first | with_reducible assumption | (simp +contextual [h]; done) | split)

@[simp ↓] theorem keeps_execMoverGo {s0 s : State} (h : Keeps s0 s) (m : Fin 32) (v : Word) : OutKeeps s0 (execMoverGo m v s) := by
  unfold execMoverGo
  try dsimp only
  repeat' (first
    | with_reducible assumption
    | (with_reducible intro _)
    | with_reducible apply keeps_whenLive
    | with_reducible apply keeps_writeMvSubmit
    | with_reducible apply keeps_next
    | with_reducible apply keeps_fault
    | with_reducible apply keeps_outIte
    | dsimp only)

@[simp ↓] theorem keeps_execMoverDescriptorComplete {s0 s : State} (h : Keeps s0 s) (m : Fin 32) : OutKeeps s0 (execMoverDescriptorComplete m s) := by
  unfold execMoverDescriptorComplete
  try dsimp only
  repeat' (first | with_reducible assumption | (simp +contextual [h]; done) | split)

@[simp ↓] theorem keeps_holdDesc {s0 s : State} (h : Keeps s0 s) (n : Fin 200) (d : Desc) : Keeps s0 (holdDesc s n d) := by
  unfold holdDesc
  try dsimp only
  repeat' (first | with_reducible assumption | (simp +contextual [h]; done) | split)

@[simp ↓] theorem keeps_issuePieces {s0 s : State} (h : Keeps s0 s) (n : Fin 200) (l : List Desc) : Keeps s0 (issuePieces s n l) := by
  induction l generalizing s with
  | nil => exact h
  | cons d t ih =>
    have k := keeps_issueDesc h n d .dispatcher
    unfold issuePieces
    split
    · exact ih (keeps_holdDesc h _ _)
    · split
      · exact ih (keeps_of_snd k (by assumption))
      · exact keeps_of_snd k (by assumption)
      · exact ih (keeps_holdDesc (keeps_of_snd k (by assumption)) _ _)

@[simp ↓] theorem keeps_dispatchDesc {s0 s : State} (h : Keeps s0 s) (n : Fin 200) (desc : Desc) : Keeps s0 (dispatchDesc s n desc) := by
  unfold dispatchDesc
  try dsimp only
  repeat' (first
    | with_reducible assumption
    | (with_reducible intro _)
    | with_reducible apply keeps_resumeArray
    | with_reducible apply keeps_some
    | with_reducible apply keeps_issueDesc
    | with_reducible apply keeps_foldl
    | with_reducible apply keeps_holdDesc
    | with_reducible apply keeps_none
    | with_reducible apply keeps_issuePieces
    | with_reducible apply keeps_ite
    | with_reducible apply keeps_getD
    | with_reducible apply keeps_iteSnd
    | with_reducible apply keeps_iteFst
    | with_reducible apply keeps_outIte
    | with_reducible apply keeps_issueIte
    | with_reducible apply keeps_foldl
    | with_reducible apply keeps_some
    | with_reducible exact keeps_none
    | with_reducible apply keeps_next
    | with_reducible apply keeps_fault
    | simp only [↓Keeps.upd_iff]
    | with_reducible apply Keeps.updFresh
    | (refine keeps_of_some ?_ (by assumption))
    | (refine keeps_of_snd ?_ (by assumption))
    | (refine keeps_of_fst ?_ (by assumption))
    | split
    | dsimp only)

@[simp ↓] theorem keeps_execDescriptorQueueEntry {s0 s : State} (h : Keeps s0 s) (n : Fin 200) (desc : Desc) : OutKeeps s0 (execDescriptorQueueEntry n desc s) := by
  unfold execDescriptorQueueEntry
  try dsimp only
  repeat' (first | with_reducible assumption | (simp +contextual [h]; done) | split)

@[simp ↓] theorem keeps_beginPass {s0 s : State} (h : Keeps s0 s) (n : Nat) (e : QEntry) (t : Tile) (anchor : BitVec 10) (was : Bool) : Keeps s0 (beginPass s n e t anchor was) := by
  unfold beginPass
  try dsimp only
  repeat' (first
    | with_reducible assumption
    | (with_reducible intro _)
    | with_reducible apply keeps_none
    | with_reducible apply keeps_cutRamp
    | with_reducible apply keeps_some
    | with_reducible apply keeps_takePause
    | with_reducible apply keeps_setArr
    | with_reducible apply keeps_ite
    | with_reducible apply keeps_getD
    | with_reducible apply keeps_iteSnd
    | with_reducible apply keeps_iteFst
    | with_reducible apply keeps_outIte
    | with_reducible apply keeps_issueIte
    | with_reducible apply keeps_foldl
    | with_reducible apply keeps_some
    | with_reducible exact keeps_none
    | with_reducible apply keeps_next
    | with_reducible apply keeps_fault
    | simp only [↓Keeps.upd_iff]
    | with_reducible apply Keeps.updFresh
    | (refine keeps_of_some ?_ (by assumption))
    | (refine keeps_of_snd ?_ (by assumption))
    | (refine keeps_of_fst ?_ (by assumption))
    | split
    | dsimp only)

@[simp ↓] theorem keeps_startHead {s0 s : State} (h : Keeps s0 s) (n : Nat) (e : QEntry) (was : Bool) : OptKeeps s0 (startHead s n e was) := by
  unfold startHead
  try dsimp only
  repeat' (first
    | with_reducible assumption
    | (with_reducible intro _)
    | with_reducible apply keeps_none
    | with_reducible apply keeps_some
    | with_reducible apply keeps_settle
    | with_reducible apply keeps_refuseHead
    | with_reducible apply keeps_beginPass
    | with_reducible apply keeps_requestStart
    | with_reducible apply keeps_ite
    | with_reducible apply keeps_getD
    | with_reducible apply keeps_iteSnd
    | with_reducible apply keeps_iteFst
    | with_reducible apply keeps_outIte
    | with_reducible apply keeps_issueIte
    | with_reducible apply keeps_foldl
    | with_reducible apply keeps_some
    | with_reducible exact keeps_none
    | with_reducible apply keeps_next
    | with_reducible apply keeps_fault
    | simp only [↓Keeps.upd_iff]
    | with_reducible apply Keeps.updFresh
    | (refine keeps_of_some ?_ (by assumption))
    | (refine keeps_of_snd ?_ (by assumption))
    | (refine keeps_of_fst ?_ (by assumption))
    | split
    | dsimp only)

@[simp ↓] theorem keeps_execPassStart {s0 s : State} (h : Keeps s0 s) (n : Fin 200) : OutKeeps s0 (execPassStart n s) := by
  unfold execPassStart
  try dsimp only
  repeat' (first
    | with_reducible assumption
    | (with_reducible intro _)
    | with_reducible apply keeps_next
    | with_reducible apply keeps_retire
    | with_reducible apply keeps_startHead
    | with_reducible apply keeps_getD
    | with_reducible apply keeps_rampDown
    | with_reducible apply keeps_ite
    | with_reducible apply keeps_getD
    | with_reducible apply keeps_iteSnd
    | with_reducible apply keeps_iteFst
    | with_reducible apply keeps_outIte
    | with_reducible apply keeps_issueIte
    | with_reducible apply keeps_foldl
    | with_reducible apply keeps_some
    | with_reducible exact keeps_none
    | with_reducible apply keeps_next
    | with_reducible apply keeps_fault
    | simp only [↓Keeps.upd_iff]
    | with_reducible apply Keeps.updFresh
    | (refine keeps_of_some ?_ (by assumption))
    | (refine keeps_of_snd ?_ (by assumption))
    | (refine keeps_of_fst ?_ (by assumption))
    | split
    | dsimp only)

@[simp ↓] theorem keeps_execTileLoadComplete {s0 s : State} (h : Keeps s0 s) (n : Fin 200) : OutKeeps s0 (execTileLoadComplete n s) := by
  unfold execTileLoadComplete
  try dsimp only
  repeat' (first
    | with_reducible assumption
    | (with_reducible intro _)
    | with_reducible apply keeps_next
    | with_reducible apply keeps_some
    | with_reducible apply keeps_loadThrough
    | with_reducible apply keeps_setArr
    | with_reducible apply keeps_passFault
    | with_reducible apply keeps_none
    | with_reducible apply keeps_ite
    | with_reducible apply keeps_getD
    | with_reducible apply keeps_iteSnd
    | with_reducible apply keeps_iteFst
    | with_reducible apply keeps_outIte
    | with_reducible apply keeps_issueIte
    | with_reducible apply keeps_foldl
    | with_reducible apply keeps_some
    | with_reducible exact keeps_none
    | with_reducible apply keeps_next
    | with_reducible apply keeps_fault
    | simp only [↓Keeps.upd_iff]
    | with_reducible apply Keeps.updFresh
    | (refine keeps_of_some ?_ (by assumption))
    | (refine keeps_of_snd ?_ (by assumption))
    | (refine keeps_of_fst ?_ (by assumption))
    | split
    | dsimp only)

@[simp ↓] theorem keeps_correctedEntries {s0 s : State} (h : Keeps s0 s) (n : Fin 200) (l : List (Fin 128 × Fin 256)) : Keeps s0 (correctedEntries s n l) := by
  unfold correctedEntries
  try dsimp only
  repeat' (first | with_reducible assumption | (simp +contextual [h]; done) | split)

@[simp ↓] theorem keeps_execPassComplete {s0 s : State} (h : Keeps s0 s) (c : PassEnd) : OutKeeps s0 (execPassComplete c s) := by
  unfold execPassComplete
  try dsimp only
  repeat' (first
    | with_reducible assumption
    | (with_reducible intro _)
    | with_reducible apply keeps_next
    | with_reducible apply keeps_completeInflight
    | with_reducible apply keeps_correctedEntries
    | with_reducible apply keeps_retire
    | with_reducible apply keeps_rampDown
    | with_reducible apply keeps_ite
    | with_reducible apply keeps_getD
    | with_reducible apply keeps_iteSnd
    | with_reducible apply keeps_iteFst
    | with_reducible apply keeps_outIte
    | with_reducible apply keeps_issueIte
    | with_reducible apply keeps_foldl
    | with_reducible apply keeps_some
    | with_reducible exact keeps_none
    | with_reducible apply keeps_next
    | with_reducible apply keeps_fault
    | simp only [↓Keeps.upd_iff]
    | with_reducible apply Keeps.updFresh
    | (refine keeps_of_some ?_ (by assumption))
    | (refine keeps_of_snd ?_ (by assumption))
    | (refine keeps_of_fst ?_ (by assumption))
    | split
    | dsimp only)

@[simp ↓] theorem keeps_stopIdle {s0 s : State} (h : Keeps s0 s) (n : Nat) : Keeps s0 (stopIdle s n) := by
  unfold stopIdle
  try dsimp only
  repeat' (first
    | with_reducible assumption
    | (with_reducible intro _)
    | with_reducible apply keeps_setArr
    | with_reducible apply keeps_finishStop
    | with_reducible apply keeps_spillLake
    | with_reducible apply keeps_ite
    | with_reducible apply keeps_some
    | with_reducible exact keeps_none
    | simp only [↓Keeps.upd_iff]
    | (refine keeps_of_some ?_ (by assumption))
    | (refine keeps_of_snd ?_ (by assumption))
    | (refine keeps_of_fst ?_ (by assumption))
    | split
    | dsimp only)

@[simp ↓] theorem keeps_stopLast {s0 s : State} (h : Keeps s0 s) (n : Nat) (e : QEntry) : Keeps s0 (stopLast s n e) := by
  unfold stopLast
  try dsimp only
  repeat' (first
    | with_reducible assumption
    | (with_reducible intro _)
    | with_reducible apply keeps_retire
    | with_reducible apply keeps_setArr
    | with_reducible apply keeps_rampDown
    | with_reducible apply keeps_ite
    | with_reducible apply keeps_getD
    | with_reducible apply keeps_iteSnd
    | with_reducible apply keeps_iteFst
    | with_reducible apply keeps_outIte
    | with_reducible apply keeps_issueIte
    | with_reducible apply keeps_foldl
    | with_reducible apply keeps_some
    | with_reducible exact keeps_none
    | with_reducible apply keeps_next
    | with_reducible apply keeps_fault
    | simp only [↓Keeps.upd_iff]
    | with_reducible apply Keeps.updFresh
    | (refine keeps_of_some ?_ (by assumption))
    | (refine keeps_of_snd ?_ (by assumption))
    | (refine keeps_of_fst ?_ (by assumption))
    | split
    | dsimp only)

@[simp ↓] theorem keeps_stopArray {s0 s : State} (h : Keeps s0 s) (n c : Nat) : Keeps s0 (stopArray s n c) := by
  unfold stopArray
  try dsimp only
  repeat' (first | with_reducible assumption | (simp +contextual [h]; done) | split)

@[simp ↓] theorem keeps_markPaused {s0 s : State} (h : Keeps s0 s) (n : Nat) : Keeps s0 (markPaused s n) := by
  unfold markPaused
  try dsimp only
  repeat' (first | with_reducible assumption | (simp +contextual [h]; done) | split)

@[simp ↓] theorem keeps_execStopRequest {s0 s : State} (h : Keeps s0 s) (n : Fin 200) (slot : BitVec 9) : OutKeeps s0 (execStopRequest n slot s) := by
  unfold execStopRequest
  try dsimp only
  repeat' (first
    | with_reducible assumption
    | (with_reducible intro _)
    | with_reducible apply keeps_next
    | with_reducible apply keeps_stopArray
    | with_reducible apply keeps_markPaused
    | with_reducible apply keeps_ite
    | with_reducible apply keeps_getD
    | with_reducible apply keeps_iteSnd
    | with_reducible apply keeps_iteFst
    | with_reducible apply keeps_outIte
    | with_reducible apply keeps_issueIte
    | with_reducible apply keeps_foldl
    | with_reducible apply keeps_some
    | with_reducible exact keeps_none
    | with_reducible apply keeps_next
    | with_reducible apply keeps_fault
    | simp only [↓Keeps.upd_iff]
    | with_reducible apply Keeps.updFresh
    | (refine keeps_of_some ?_ (by assumption))
    | (refine keeps_of_snd ?_ (by assumption))
    | (refine keeps_of_fst ?_ (by assumption))
    | split
    | dsimp only)

@[simp ↓] theorem keeps_endStream {s0 s : State} (h : Keeps s0 s) (n : Nat) : Keeps s0 (endStream s n).2 := by
  unfold endStream
  try dsimp only
  repeat' (first | with_reducible assumption | (simp +contextual [h]; done) | split)

@[simp ↓] theorem keeps_execStopDone {s0 s : State} (h : Keeps s0 s) (n : Fin 200) : OutKeeps s0 (execStopDone n s) := by
  unfold execStopDone
  try dsimp only
  repeat' (first
    | with_reducible assumption
    | (with_reducible intro _)
    | with_reducible apply keeps_next
    | with_reducible apply keeps_endStream
    | with_reducible apply keeps_completeAll
    | with_reducible apply keeps_setArr
    | with_reducible apply keeps_none
    | with_reducible apply keeps_finishStop
    | with_reducible apply keeps_spillLake
    | with_reducible apply keeps_resumeArray
    | with_reducible apply keeps_ite
    | with_reducible apply keeps_getD
    | with_reducible apply keeps_iteSnd
    | with_reducible apply keeps_iteFst
    | with_reducible apply keeps_outIte
    | with_reducible apply keeps_issueIte
    | with_reducible apply keeps_foldl
    | with_reducible apply keeps_some
    | with_reducible exact keeps_none
    | with_reducible apply keeps_next
    | with_reducible apply keeps_fault
    | simp only [↓Keeps.upd_iff]
    | with_reducible apply Keeps.updFresh
    | (refine keeps_of_some ?_ (by assumption))
    | (refine keeps_of_snd ?_ (by assumption))
    | (refine keeps_of_fst ?_ (by assumption))
    | split
    | dsimp only)

@[simp ↓] theorem keeps_execPassFault {s0 s : State} (h : Keeps s0 s) (n : Fin 200) (f : PassFaultAt) : OutKeeps s0 (execPassFault n f s) := by
  unfold execPassFault
  try dsimp only
  repeat' (first
    | with_reducible assumption
    | (with_reducible intro _)
    | with_reducible apply keeps_next
    | with_reducible apply keeps_uncorrectable
    | with_reducible apply keeps_passFault
    | with_reducible apply keeps_issueColumns
    | with_reducible apply keeps_ite
    | with_reducible apply keeps_getD
    | with_reducible apply keeps_iteSnd
    | with_reducible apply keeps_iteFst
    | with_reducible apply keeps_outIte
    | with_reducible apply keeps_issueIte
    | with_reducible apply keeps_foldl
    | with_reducible apply keeps_some
    | with_reducible exact keeps_none
    | with_reducible apply keeps_next
    | with_reducible apply keeps_fault
    | simp only [↓Keeps.upd_iff]
    | with_reducible apply Keeps.updFresh
    | (refine keeps_of_some ?_ (by assumption))
    | (refine keeps_of_snd ?_ (by assumption))
    | (refine keeps_of_fst ?_ (by assumption))
    | split
    | dsimp only)

@[simp ↓] theorem keeps_execRampDownEnd {s0 s : State} (h : Keeps s0 s) (n : Fin 200) : OutKeeps s0 (execRampDownEnd n s) := by
  unfold execRampDownEnd
  try dsimp only
  repeat' (first
    | with_reducible assumption
    | (with_reducible intro _)
    | with_reducible apply keeps_countArray
    | with_reducible apply keeps_setArr
    | with_reducible apply keeps_next
    | with_reducible apply keeps_fault
    | with_reducible apply keeps_outIte
    | simp only [↓Keeps.upd_iff]
    | (refine keeps_of_some ?_ (by assumption))
    | (refine keeps_of_snd ?_ (by assumption))
    | (refine keeps_of_fst ?_ (by assumption))
    | split
    | dsimp only)

@[simp ↓] theorem keeps_headBehind {s0 s : State} (h : Keeps s0 s) (n : Nat) : Keeps s0 (headBehind s n).2 := by
  unfold headBehind
  try dsimp only
  repeat' (first
    | with_reducible assumption
    | (with_reducible intro _)
    | with_reducible apply keeps_none
    | with_reducible apply keeps_retire
    | with_reducible apply keeps_some
    | with_reducible apply keeps_rampDown
    | with_reducible apply keeps_ite
    | with_reducible apply keeps_getD
    | with_reducible apply keeps_iteSnd
    | with_reducible apply keeps_iteFst
    | with_reducible apply keeps_outIte
    | with_reducible apply keeps_issueIte
    | with_reducible apply keeps_foldl
    | with_reducible apply keeps_some
    | with_reducible exact keeps_none
    | with_reducible apply keeps_next
    | with_reducible apply keeps_fault
    | simp only [↓Keeps.upd_iff]
    | with_reducible apply Keeps.updFresh
    | (refine keeps_of_some ?_ (by assumption))
    | (refine keeps_of_snd ?_ (by assumption))
    | (refine keeps_of_fst ?_ (by assumption))
    | split
    | dsimp only)

@[simp ↓] theorem keeps_leaveQueue {s0 s : State} (h : Keeps s0 s) (n : Nat) (e : QEntry) (f : ArraySt → ArraySt) :
    Keeps s0 (leaveQueue s n e f) := keeps_settle (keeps_admitResumed (keeps_setArr h _ _) _) _

@[simp ↓] theorem keeps_runPreload {s0 s : State} (h : Keeps s0 s) (n : Nat) (e : QEntry) (anchor : BitVec 10) (f : Fmt) : Keeps s0 (runPreload s n e anchor f) := by
  unfold runPreload
  try dsimp only
  repeat' (first | with_reducible assumption | (simp +contextual [h]; done) | split)

@[simp ↓] theorem keeps_execPreloadStart {s0 s : State} (h : Keeps s0 s) (n : Fin 200) : OutKeeps s0 (execPreloadStart n s) := by
  unfold execPreloadStart
  try dsimp only
  repeat' (first
    | with_reducible assumption
    | (with_reducible intro _)
    | with_reducible apply keeps_next
    | with_reducible apply keeps_headBehind
    | with_reducible apply keeps_none
    | with_reducible apply keeps_some
    | with_reducible apply keeps_settle
    | with_reducible apply keeps_refuseHead
    | with_reducible apply keeps_loadThrough
    | with_reducible apply keeps_runPreload
    | with_reducible apply keeps_ite
    | with_reducible apply keeps_getD
    | with_reducible apply keeps_iteSnd
    | with_reducible apply keeps_iteFst
    | with_reducible apply keeps_outIte
    | with_reducible apply keeps_issueIte
    | with_reducible apply keeps_foldl
    | with_reducible apply keeps_some
    | with_reducible exact keeps_none
    | with_reducible apply keeps_next
    | with_reducible apply keeps_fault
    | simp only [↓Keeps.upd_iff]
    | with_reducible apply Keeps.updFresh
    | (refine keeps_of_some ?_ (by assumption))
    | (refine keeps_of_snd ?_ (by assumption))
    | (refine keeps_of_fst ?_ (by assumption))
    | split
    | dsimp only)

@[simp ↓] theorem keeps_execPreloadComplete {s0 s : State} (h : Keeps s0 s) (n : Fin 200) : OutKeeps s0 (execPreloadComplete n s) := by
  unfold execPreloadComplete
  try dsimp only
  repeat' (first
    | with_reducible assumption
    | (with_reducible intro _)
    | with_reducible apply keeps_reportDone
    | with_reducible apply keeps_setArr
    | with_reducible apply keeps_next
    | with_reducible apply keeps_fault
    | with_reducible apply keeps_outIte
    | with_reducible apply keeps_some
    | with_reducible exact keeps_none
    | simp only [↓Keeps.upd_iff]
    | (refine keeps_of_some ?_ (by assumption))
    | (refine keeps_of_snd ?_ (by assumption))
    | (refine keeps_of_fst ?_ (by assumption))
    | split
    | dsimp only)

@[simp ↓] theorem keeps_execDrainEnter {s0 s : State} (h : Keeps s0 s) (n : Fin 200) : OutKeeps s0 (execDrainEnter n s) := by
  unfold execDrainEnter
  try dsimp only
  repeat' (first
    | with_reducible assumption
    | (with_reducible intro _)
    | with_reducible apply keeps_next
    | with_reducible apply keeps_headBehind
    | with_reducible apply keeps_none
    | with_reducible apply keeps_some
    | with_reducible apply keeps_settle
    | with_reducible apply keeps_refuseHead
    | with_reducible apply keeps_leaveQueue
    | with_reducible apply keeps_ite
    | with_reducible apply keeps_getD
    | with_reducible apply keeps_iteSnd
    | with_reducible apply keeps_iteFst
    | with_reducible apply keeps_outIte
    | with_reducible apply keeps_issueIte
    | with_reducible apply keeps_foldl
    | with_reducible apply keeps_some
    | with_reducible exact keeps_none
    | with_reducible apply keeps_next
    | with_reducible apply keeps_fault
    | simp only [↓Keeps.upd_iff]
    | with_reducible apply Keeps.updFresh
    | (refine keeps_of_some ?_ (by assumption))
    | (refine keeps_of_snd ?_ (by assumption))
    | (refine keeps_of_fst ?_ (by assumption))
    | split
    | dsimp only)

@[simp ↓] theorem keeps_setDrain {s0 s : State} (h : Keeps s0 s) (n : Nat) (r : DrainRec) : Keeps s0 (setDrain s n r) := by
  unfold setDrain
  try dsimp only
  repeat' (first | with_reducible assumption | (simp +contextual [h]; done) | split)

@[simp ↓] theorem keeps_deliverColumn {s0 s : State} (h : Keeps s0 s) (n : Nat) (d : Desc) (f : Fmt) (j : Nat) (vals : List Nat) : Keeps s0 (deliverColumn s n d f j vals) := by
  unfold deliverColumn
  try dsimp only
  repeat' (first
    | with_reducible assumption
    | (with_reducible intro _)
    | with_reducible apply keeps_setRing
    | with_reducible apply keeps_foldl
    | with_reducible apply keeps_noteFar
    | with_reducible apply keeps_writeBytes
    | with_reducible apply keeps_ite
    | with_reducible apply keeps_getD
    | with_reducible apply keeps_iteSnd
    | with_reducible apply keeps_iteFst
    | with_reducible apply keeps_outIte
    | with_reducible apply keeps_issueIte
    | with_reducible apply keeps_foldl
    | with_reducible apply keeps_some
    | with_reducible exact keeps_none
    | with_reducible apply keeps_next
    | with_reducible apply keeps_fault
    | simp only [↓Keeps.upd_iff]
    | with_reducible apply Keeps.updFresh
    | (refine keeps_of_some ?_ (by assumption))
    | (refine keeps_of_snd ?_ (by assumption))
    | (refine keeps_of_fst ?_ (by assumption))
    | split
    | dsimp only)

@[simp ↓] theorem keeps_poisonDrain {s0 s : State} (h : Keeps s0 s) (n : Nat) (r : DrainRec) : Keeps s0 (poisonDrain s n r) := by
  unfold poisonDrain
  try dsimp only
  repeat' (first
    | with_reducible assumption
    | (with_reducible intro _)
    | with_reducible apply keeps_failItem
    | with_reducible apply keeps_poisonItem
    | with_reducible apply keeps_setDrain
    | with_reducible apply keeps_ite
    | with_reducible apply keeps_getD
    | with_reducible apply keeps_iteSnd
    | with_reducible apply keeps_iteFst
    | with_reducible apply keeps_outIte
    | with_reducible apply keeps_issueIte
    | with_reducible apply keeps_foldl
    | with_reducible apply keeps_some
    | with_reducible exact keeps_none
    | with_reducible apply keeps_next
    | with_reducible apply keeps_fault
    | simp only [↓Keeps.upd_iff]
    | with_reducible apply Keeps.updFresh
    | (refine keeps_of_some ?_ (by assumption))
    | (refine keeps_of_snd ?_ (by assumption))
    | (refine keeps_of_fst ?_ (by assumption))
    | split
    | dsimp only)

@[simp ↓] theorem keeps_drainColumn {s0 s : State} (h : Keeps s0 s) (n : Nat) (r : DrainRec) (f : Fmt) (m : RMode) : Keeps s0 (drainColumn s n r f m) := by
  unfold drainColumn
  try dsimp only
  repeat' (first
    | with_reducible assumption
    | (with_reducible intro _)
    | with_reducible apply keeps_deliverColumn
    | with_reducible apply keeps_setDrain
    | with_reducible apply keeps_next
    | with_reducible apply keeps_setArr
    | with_reducible apply keeps_ite
    | with_reducible apply keeps_getD
    | with_reducible apply keeps_iteSnd
    | with_reducible apply keeps_iteFst
    | with_reducible apply keeps_outIte
    | with_reducible apply keeps_issueIte
    | with_reducible apply keeps_foldl
    | with_reducible apply keeps_some
    | with_reducible exact keeps_none
    | with_reducible apply keeps_next
    | with_reducible apply keeps_fault
    | simp only [↓Keeps.upd_iff]
    | with_reducible apply Keeps.updFresh
    | (refine keeps_of_some ?_ (by assumption))
    | (refine keeps_of_snd ?_ (by assumption))
    | (refine keeps_of_fst ?_ (by assumption))
    | split
    | dsimp only)

@[simp ↓] theorem keeps_execDrainColumnRead {s0 s : State} (h : Keeps s0 s) (x : DrainRead) : OutKeeps s0 (execDrainColumnRead x s) := by
  unfold execDrainColumnRead
  try dsimp only
  repeat' (first
    | with_reducible assumption
    | (with_reducible intro _)
    | with_reducible apply keeps_next
    | with_reducible apply keeps_some
    | with_reducible apply keeps_setDrain
    | with_reducible apply keeps_uncorrectable
    | with_reducible apply keeps_poisonDrain
    | with_reducible apply keeps_issueAll
    | with_reducible apply keeps_correctedEntries
    | with_reducible apply keeps_drainColumn
    | with_reducible apply keeps_ite
    | with_reducible apply keeps_getD
    | with_reducible apply keeps_iteSnd
    | with_reducible apply keeps_iteFst
    | with_reducible apply keeps_outIte
    | with_reducible apply keeps_issueIte
    | with_reducible apply keeps_foldl
    | with_reducible apply keeps_some
    | with_reducible exact keeps_none
    | with_reducible apply keeps_next
    | with_reducible apply keeps_fault
    | simp only [↓Keeps.upd_iff]
    | with_reducible apply Keeps.updFresh
    | (refine keeps_of_some ?_ (by assumption))
    | (refine keeps_of_snd ?_ (by assumption))
    | (refine keeps_of_fst ?_ (by assumption))
    | split
    | dsimp only)

@[simp ↓] theorem keeps_signalDrain {s0 s : State} (h : Keeps s0 s) (e : QEntry) : Keeps s0 (signalDrain s e) := by
  unfold signalDrain
  try dsimp only
  repeat' (first | with_reducible assumption | (simp +contextual [h]; done) | split)

@[simp ↓] theorem keeps_execDrainComplete {s0 s : State} (h : Keeps s0 s) (n : Fin 200) : OutKeeps s0 (execDrainComplete n s) := by
  unfold execDrainComplete
  try dsimp only
  repeat' (first
    | with_reducible assumption
    | (with_reducible intro _)
    | with_reducible apply keeps_setArr
    | with_reducible apply keeps_setRegWord
    | with_reducible apply keeps_setRing
    | with_reducible apply keeps_reportDone
    | with_reducible apply keeps_signalDrain
    | with_reducible apply keeps_addFlags
    | with_reducible apply keeps_ite
    | with_reducible apply keeps_next
    | with_reducible apply keeps_fault
    | with_reducible apply keeps_outIte
    | simp only [↓Keeps.upd_iff]
    | (refine keeps_of_some ?_ (by assumption))
    | (refine keeps_of_snd ?_ (by assumption))
    | (refine keeps_of_fst ?_ (by assumption))
    | split
    | dsimp only)

@[simp ↓] theorem keeps_execLakeWriteComplete {s0 s : State} (h : Keeps s0 s) (n : Fin 200) : OutKeeps s0 (execLakeWriteComplete n s) := by
  unfold execLakeWriteComplete
  try dsimp only
  repeat' (first | with_reducible assumption | (simp +contextual [h]; done) | split)

end Sys2Proof.Machine
end

