-- ==== Sys2Proof/Laws/KeepsPart3.lean ====
section
/-! SUPPORT. What the operations and commands keep (KeepsBase), in the order of the model's files: ArrayRegs, BootBase, Repair, Link, Origin, Fabric. -/

set_option linter.unusedTactic false
set_option linter.unreachableTactic false
set_option linter.unusedSimpArgs false
set_option linter.unusedVariables false

namespace Sys2Proof.Machine

@[simp ↓] theorem keeps_writeTaCtrl {s0 s : State} (h : Keeps s0 s) (n : Nat) (v : Word) : Keeps s0 (writeTaCtrl s n v) := by
  unfold writeTaCtrl
  try dsimp only
  repeat' (first | with_reducible assumption | (simp +contextual [h]; done) | split)

@[simp ↓] theorem keeps_execTaCntClear {s0 s : State} (h : Keeps s0 s) (n : Fin 200) (v : Word) : OutKeeps s0 (execTaCntClear n v s) := by
  unfold execTaCntClear
  try dsimp only
  repeat' (first
    | with_reducible assumption
    | (with_reducible intro _)
    | with_reducible apply keeps_whenLive
    | with_reducible apply keeps_writeTaCtrl
    | with_reducible apply keeps_next
    | with_reducible apply keeps_fault
    | with_reducible apply keeps_outIte
    | dsimp only)

@[simp ↓] theorem keeps_writeTaQstat {s0 s : State} (h : Keeps s0 s) (n : Nat) (v : Word) : Keeps s0 (writeTaQstat s n v) := by
  unfold writeTaQstat
  try dsimp only
  repeat' (first
    | with_reducible assumption
    | (with_reducible intro _)
    | with_reducible apply keeps_storeReg
    | with_reducible apply keeps_noteHigh
    | with_reducible apply keeps_setRegFld
    | with_reducible apply keeps_ite
    | split)

@[simp ↓] theorem keeps_execTaHighClr {s0 s : State} (h : Keeps s0 s) (n : Fin 200) (v : Word) : OutKeeps s0 (execTaHighClr n v s) := by
  unfold execTaHighClr
  try dsimp only
  repeat' (first
    | with_reducible assumption
    | (with_reducible intro _)
    | with_reducible apply keeps_whenLive
    | with_reducible apply keeps_writeTaQstat
    | with_reducible apply keeps_next
    | with_reducible apply keeps_fault
    | with_reducible apply keeps_outIte
    | dsimp only)

@[simp ↓] theorem keeps_writeTaStop {s0 s : State} (h : Keeps s0 s) (n : Nat) (v : Word) (slot : Nat) : Keeps s0 (writeTaStop s n v slot) := by
  unfold writeTaStop
  try dsimp only
  repeat' (first | with_reducible assumption | (simp +contextual [h]; done) | split)

@[simp ↓] theorem keeps_execTaStopReq {s0 s : State} (h : Keeps s0 s) (n : Fin 200) (v : Word) (slot : BitVec 9) : OutKeeps s0 (execTaStopReq n v slot s) := by
  unfold execTaStopReq
  try dsimp only
  repeat' (first
    | with_reducible assumption
    | (with_reducible intro _)
    | with_reducible apply keeps_whenLive
    | with_reducible apply keeps_writeTaStop
    | with_reducible apply keeps_next
    | with_reducible apply keeps_fault
    | with_reducible apply keeps_outIte
    | dsimp only)

@[simp ↓] theorem keeps_execTaStopResume {s0 s : State} (h : Keeps s0 s) (n : Fin 200) (v : Word) : OutKeeps s0 (execTaStopResume n v s) := by
  unfold execTaStopResume
  try dsimp only
  repeat' (first
    | with_reducible assumption
    | (with_reducible intro _)
    | with_reducible apply keeps_whenLive
    | with_reducible apply keeps_writeTaStop
    | with_reducible apply keeps_next
    | with_reducible apply keeps_fault
    | with_reducible apply keeps_outIte
    | dsimp only)

@[simp ↓] theorem keeps_writeAccvCtrl {s0 s : State} (h : Keeps s0 s) (n : Nat) (v : Word) : Keeps s0 (writeAccvCtrl s n v) := by
  unfold writeAccvCtrl
  try dsimp only
  repeat' (first
    | with_reducible assumption
    | (with_reducible intro _)
    | with_reducible apply keeps_storeReg
    | with_reducible apply keeps_logConflict
    | with_reducible apply keeps_setArr
    | with_reducible apply keeps_setRegFld
    | with_reducible apply keeps_ite
    | simp only [↓Keeps.upd_iff]
    | split)

@[simp ↓] theorem keeps_execAccvEnWrite {s0 s : State} (h : Keeps s0 s) (n : Fin 200) (v : Word) : OutKeeps s0 (execAccvEnWrite n v s) := by
  unfold execAccvEnWrite
  try dsimp only
  repeat' (first
    | with_reducible assumption
    | (with_reducible intro _)
    | with_reducible apply keeps_whenLive
    | with_reducible apply keeps_writeAccvCtrl
    | with_reducible apply keeps_next
    | with_reducible apply keeps_fault
    | with_reducible apply keeps_outIte
    | dsimp only)

@[simp ↓] theorem keeps_writeAccvSel {s0 s : State} (h : Keeps s0 s) (n : Nat) (v : Word) : Keeps s0 (writeAccvSel s n v) := by
  unfold writeAccvSel
  try dsimp only
  repeat' (first
    | with_reducible assumption
    | (with_reducible intro _)
    | with_reducible apply keeps_storeReg
    | with_reducible apply keeps_setArr
    | with_reducible apply keeps_clrRegBit
    | with_reducible apply keeps_ite
    | simp only [↓Keeps.upd_iff]
    | split)

@[simp ↓] theorem keeps_execAccvSelWrite {s0 s : State} (h : Keeps s0 s) (n : Fin 200) (v : Word) : OutKeeps s0 (execAccvSelWrite n v s) := by
  unfold execAccvSelWrite
  try dsimp only
  repeat' (first
    | with_reducible assumption
    | (with_reducible intro _)
    | with_reducible apply keeps_whenLive
    | with_reducible apply keeps_writeAccvSel
    | with_reducible apply keeps_next
    | with_reducible apply keeps_fault
    | with_reducible apply keeps_outIte
    | dsimp only)

@[simp ↓] theorem keeps_storedCheck {s0 s : State} (h : Keeps s0 s) (e : AccEntry) (wrong : Bool) : Keeps s0 (storedCheck s e wrong).2 := by
  unfold storedCheck
  try dsimp only
  repeat' (first | with_reducible assumption | (simp +contextual [h]; done) | split)

@[simp ↓] theorem keeps_execAccvReadComplete {s0 s : State} (h : Keeps s0 s) (n : Fin 200) (corrected uncorr : Bool) : OutKeeps s0 (execAccvReadComplete n corrected uncorr s) := by
  unfold execAccvReadComplete
  try dsimp only
  repeat' (first
    | with_reducible assumption
    | (with_reducible intro _)
    | with_reducible apply keeps_next
    | with_reducible apply keeps_setArr
    | with_reducible apply keeps_foldl
    | with_reducible apply keeps_setRegWord
    | with_reducible apply keeps_storedCheck
    | with_reducible apply keeps_setRegBit
    | with_reducible apply keeps_ite
    | with_reducible apply keeps_getD
    | with_reducible apply keeps_iteSnd
    | with_reducible apply keeps_iteFst
    | with_reducible apply keeps_outIte
    | with_reducible apply keeps_issueIte
    | with_reducible apply keeps_foldl
    | with_reducible apply keeps_some
    | with_reducible exact keeps_none
    | with_reducible apply keeps_next
    | with_reducible apply keeps_fault
    | simp only [↓Keeps.upd_iff]
    | with_reducible apply Keeps.updFresh
    | (refine keeps_of_some ?_ (by assumption))
    | (refine keeps_of_snd ?_ (by assumption))
    | (refine keeps_of_fst ?_ (by assumption))
    | split
    | dsimp only)

@[simp ↓] theorem keeps_writeDringCfg {s0 s : State} (h : Keeps s0 s) (e a : Nat) (v : Word) : Keeps s0 (writeDringCfg s e a v) := by
  unfold writeDringCfg
  try dsimp only
  repeat' (first | with_reducible assumption | (simp +contextual [h]; done) | split)

@[simp ↓] theorem keeps_execDringCfgWrite {s0 s : State} (h : Keeps s0 s) (e : Fin 50) (a : Fin 4) (v : Word) : OutKeeps s0 (execDringCfgWrite e a v s) := by
  unfold execDringCfgWrite
  try dsimp only
  repeat' (first
    | with_reducible assumption
    | (with_reducible intro _)
    | with_reducible apply keeps_whenLive
    | with_reducible apply keeps_writeDringCfg
    | with_reducible apply keeps_next
    | with_reducible apply keeps_fault
    | with_reducible apply keeps_outIte
    | dsimp only)

@[simp ↓] theorem keeps_showStep {s0 s : State} (h : Keeps s0 s) (k st : Nat) : Keeps s0 (showStep s k st) := by
  unfold showStep
  try dsimp only
  repeat' (first | with_reducible assumption | (simp +contextual [h]; done) | split)

@[simp ↓] theorem keeps_beginStep {s0 s : State} (h : Keeps s0 s) (k : Nat) : Keeps s0 (beginStep s k) := by
  unfold beginStep
  try dsimp only
  repeat' (first | with_reducible assumption | (simp +contextual [h]; done) | split)

@[simp ↓] theorem keeps_settleStep {s0 s : State} (h : Keeps s0 s) (k n : Nat) : Keeps s0 (settleStep s k n) := by
  unfold settleStep
  try dsimp only
  repeat' (first | with_reducible assumption | (simp +contextual [h]; done) | split)

@[simp ↓] theorem keeps_completeStep {s0 s : State} (h : Keeps s0 s) (k : Nat) : Keeps s0 (completeStep s k) := by
  unfold completeStep
  try dsimp only
  repeat' (first
    | with_reducible assumption
    | (with_reducible intro _)
    | with_reducible apply keeps_raiseBoot
    | with_reducible apply keeps_showStep
    | with_reducible apply keeps_setRegBit
    | with_reducible apply keeps_settleStep
    | with_reducible apply keeps_ite
    | simp only [↓Keeps.upd_iff]
    | split)

@[simp ↓] theorem keeps_failStep {s0 s : State} (h : Keeps s0 s) (k code detail : Nat) : Keeps s0 (failStep s k code detail) := by
  unfold failStep
  try dsimp only
  repeat' (first
    | with_reducible assumption
    | (with_reducible intro _)
    | with_reducible apply keeps_showStep
    | with_reducible apply keeps_setRegFld
    | with_reducible apply keeps_setRegWord
    | with_reducible apply keeps_raiseBoot
    | with_reducible apply keeps_logEvent)

@[simp ↓] theorem keeps_writeBootCmd {s0 s : State} (h : Keeps s0 s) (v : Word) : Keeps s0 (writeBootCmd s v) := by
  unfold writeBootCmd
  try dsimp only
  repeat' (first | with_reducible assumption | (simp +contextual [h]; done) | split)

@[simp ↓] theorem keeps_appendRep {s0 s : State} (h : Keeps s0 s) (x : RepRec) : Keeps s0 (appendRep s x) := by
  unfold appendRep
  try dsimp only
  repeat' (first | with_reducible assumption | (simp +contextual [h]; done) | split)

@[simp ↓] theorem keeps_logRepair {s0 s : State} (h : Keeps s0 s) (what : Word) (cause : Nat) (wseq : Word) : Keeps s0 (logRepair s what cause wseq) := by
  unfold logRepair
  try dsimp only
  repeat' (first | with_reducible assumption | (simp +contextual [h]; done) | split)

@[simp ↓] theorem keeps_noteRepair {s0 s : State} (h : Keeps s0 s) (what : Word) (cause : Nat) : Keeps s0 (noteRepair s what cause) := by
  unfold noteRepair
  try dsimp only
  repeat' (first | with_reducible assumption | (simp +contextual [h]; done) | split)

@[simp ↓] theorem keeps_confirmOne {s0 s : State} (h : Keeps s0 s) (i : Nat) : Keeps s0 (confirmOne s i) := by
  unfold confirmOne
  try dsimp only
  repeat' (first | with_reducible assumption | (simp +contextual [h]; done) | split)

@[simp ↓] theorem keeps_confirmEvery {s0 s : State} (h : Keeps s0 s) : Keeps s0 (confirmEvery s) := by
  unfold confirmEvery
  try dsimp only
  repeat' (first | with_reducible assumption | (simp +contextual [h]; done) | split)

@[simp ↓] theorem keeps_withdrawRec {s0 s : State} (h : Keeps s0 s) : Keeps s0 (withdrawRec s) := by
  unfold withdrawRec
  try dsimp only
  repeat' (first | with_reducible assumption | (simp +contextual [h]; done) | split)

@[simp ↓] theorem keeps_writeRepCmd {s0 s : State} (h : Keeps s0 s) (v : Word) : Keeps s0 (writeRepCmd s v) := by
  unfold writeRepCmd
  try dsimp only
  repeat' (first
    | with_reducible assumption
    | (with_reducible intro _)
    | with_reducible apply keeps_confirmOne
    | with_reducible apply keeps_confirmEvery
    | with_reducible apply keeps_withdrawRec
    | with_reducible apply keeps_ite
    | simp only [↓Keeps.upd_iff]
    | split)

@[simp ↓] theorem keeps_endCompaction {s0 s : State} (h : Keeps s0 s) (ok : Bool) : Keeps s0 (endCompaction s ok) := by
  unfold endCompaction
  try dsimp only
  repeat' (first
    | with_reducible assumption
    | (with_reducible intro _)
    | with_reducible apply keeps_clrRegBit
    | with_reducible apply keeps_raiseErr
    | with_reducible apply keeps_setRegBit
    | with_reducible apply keeps_appendRep
    | with_reducible apply keeps_ite
    | with_reducible apply keeps_foldl
    | simp only [↓Keeps.upd_iff]
    | split)

@[simp ↓] theorem keeps_clearStrikes {s0 s : State} (h : Keeps s0 s) (ch : Nat) : Keeps s0 (clearStrikes s ch) := by
  unfold clearStrikes
  try dsimp only
  repeat' (first | with_reducible assumption | (simp +contextual [h]; done) | split)

@[simp ↓] theorem keeps_settleStrikes {s0 s : State} (h : Keeps s0 s) (ch : Nat) : Keeps s0 (settleStrikes s ch) := by
  unfold settleStrikes
  try dsimp only
  repeat' (first | with_reducible assumption | (simp +contextual [h]; done) | split)

@[simp ↓] theorem keeps_execConfirm {s0 s : State} (h : Keeps s0 s) (v : Word) : OutKeeps s0 (execConfirm v s) := by
  unfold execConfirm
  try dsimp only
  repeat' (first
    | with_reducible assumption
    | (with_reducible intro _)
    | with_reducible apply keeps_whenLive
    | with_reducible apply keeps_writeRepCmd
    | with_reducible apply keeps_next
    | with_reducible apply keeps_fault
    | with_reducible apply keeps_outIte
    | dsimp only)

@[simp ↓] theorem keeps_execConfirmAll {s0 s : State} (h : Keeps s0 s) (v : Word) : OutKeeps s0 (execConfirmAll v s) := by
  unfold execConfirmAll
  try dsimp only
  repeat' (first
    | with_reducible assumption
    | (with_reducible intro _)
    | with_reducible apply keeps_whenLive
    | with_reducible apply keeps_writeRepCmd
    | with_reducible apply keeps_next
    | with_reducible apply keeps_fault
    | with_reducible apply keeps_outIte
    | dsimp only)

@[simp ↓] theorem keeps_execWithdraw {s0 s : State} (h : Keeps s0 s) (v : Word) : OutKeeps s0 (execWithdraw v s) := by
  unfold execWithdraw
  try dsimp only
  repeat' (first
    | with_reducible assumption
    | (with_reducible intro _)
    | with_reducible apply keeps_whenLive
    | with_reducible apply keeps_writeRepCmd
    | with_reducible apply keeps_next
    | with_reducible apply keeps_fault
    | with_reducible apply keeps_outIte
    | dsimp only)

@[simp ↓] theorem keeps_execLogCompaction {s0 s : State} (h : Keeps s0 s) (ok : Bool) : OutKeeps s0 (execLogCompaction ok s) := by
  unfold execLogCompaction
  try dsimp only
  repeat' (first | with_reducible assumption | (simp +contextual [h]; done) | split)

@[simp ↓] theorem keeps_execBucketLeak {s0 s : State} (h : Keeps s0 s) (i : Fin 515) : OutKeeps s0 (execBucketLeak i s) := by
  unfold execBucketLeak
  try dsimp only
  repeat' (first
    | with_reducible assumption
    | (with_reducible intro _)
    | with_reducible apply keeps_leakBucket
    | with_reducible apply keeps_settleStrikes
    | with_reducible apply keeps_ite
    | with_reducible apply keeps_next
    | with_reducible apply keeps_fault
    | with_reducible apply keeps_outIte
    | split)

@[simp ↓] theorem keeps_setFport {s0 s : State} (h : Keeps s0 s) (q : Nat) (p : FabPort) : Keeps s0 (setFport s q p) := by
  unfold setFport
  try dsimp only
  repeat' (first | with_reducible assumption | (simp +contextual [h]; done) | split)

@[simp ↓] theorem keeps_sendControl {s0 s : State} (h : Keeps s0 s) (dst : Nat) (path : List (Fin 16)) (msg gen : Nat) (words : List Word) : Keeps s0 (sendControl s dst path msg gen words) := by
  unfold sendControl
  try dsimp only
  repeat' (first | with_reducible assumption | (simp +contextual [h]; done) | split)

@[simp ↓] theorem keeps_sendHello {s0 s : State} (h : Keeps s0 s) (q : Nat) : Keeps s0 (sendHello s q) := by
  unfold sendHello
  try dsimp only
  repeat' (first | with_reducible assumption | (simp +contextual [h]; done) | split)

@[simp ↓] theorem keeps_sendLinkEvent {s0 s : State} (h : Keeps s0 s) (q : Nat) : Keeps s0 (sendLinkEvent s q) := by
  unfold sendLinkEvent
  try dsimp only
  repeat' (first | with_reducible assumption | (simp +contextual [h]; done) | split)

@[simp ↓] theorem keeps_traceFrame {s0 s : State} (h : Keeps s0 s) (q : Nat) (tx : Bool) (f : Frame) : Keeps s0 (traceFrame s q tx f) := by
  unfold traceFrame
  try dsimp only
  repeat' (first
    | with_reducible assumption
    | (with_reducible intro _)
    | with_reducible apply keeps_setRegWord
    | with_reducible apply keeps_freeWord
    | with_reducible apply keeps_setRegFld
    | with_reducible apply keeps_ite
    | with_reducible apply keeps_foldl
    | (refine keeps_of_some ?_ (by assumption))
    | (refine keeps_of_snd ?_ (by assumption))
    | (refine keeps_of_fst ?_ (by assumption))
    | split
    | dsimp only)

@[simp ↓] theorem keeps_putFrame {s0 s : State} (h : Keeps s0 s) (q : Nat) (f : Frame) : Keeps s0 (putFrame s q f) := by
  unfold putFrame
  try dsimp only
  repeat' (first | with_reducible assumption | (simp +contextual [h]; done) | split)

@[simp ↓] theorem keeps_fiDraw {s0 s : State} (h : Keeps s0 s) (q kind tint typ : Nat) : Keeps s0 (fiDraw s q kind tint typ).2 := by
  unfold fiDraw
  try dsimp only
  repeat' (first | with_reducible assumption | (simp +contextual [h]; done) | split)

@[simp ↓] theorem keeps_takePacket {s0 s : State} (h : Keeps s0 s) (q : Nat) : OptKeeps s0 (takePacket s q) := by
  unfold takePacket
  try dsimp only
  repeat' (first
    | with_reducible assumption
    | (with_reducible intro _)
    | with_reducible apply keeps_setFport
    | with_reducible apply keeps_fiDraw
    | with_reducible apply keeps_addCounter
    | with_reducible apply keeps_ite
    | with_reducible apply keeps_some
    | with_reducible exact keeps_none
    | simp only [↓Keeps.upd_iff]
    | (refine keeps_of_some ?_ (by assumption))
    | (refine keeps_of_snd ?_ (by assumption))
    | (refine keeps_of_fst ?_ (by assumption))
    | split
    | dsimp only)

@[simp ↓] theorem keeps_sendPiece {s0 s : State} (h : Keeps s0 s) (q : Nat) (x : Sending) : OptKeeps s0 (sendPiece s q x) := by
  unfold sendPiece
  try dsimp only
  repeat' (first
    | with_reducible assumption
    | (with_reducible intro _)
    | with_reducible apply keeps_addCounter
    | with_reducible apply keeps_setFport
    | with_reducible apply keeps_fiDraw
    | with_reducible apply keeps_putFrame
    | with_reducible apply keeps_ite
    | with_reducible apply keeps_some
    | with_reducible exact keeps_none
    | simp only [↓Keeps.upd_iff]
    | (refine keeps_of_some ?_ (by assumption))
    | (refine keeps_of_snd ?_ (by assumption))
    | (refine keeps_of_fst ?_ (by assumption))
    | split
    | dsimp only)

@[simp ↓] theorem keeps_pumpN {s0 s : State} (h : Keeps s0 s) (q n : Nat) : Keeps s0 (pumpN s q n) := by
  induction n generalizing s with
  | zero => exact h
  | succ n ih =>
    unfold pumpN
    repeat' (first
      | with_reducible assumption
      | with_reducible apply ih
      | with_reducible apply keeps_sendPiece
      | with_reducible apply keeps_takePacket
      | (refine keeps_of_some ?_ (by assumption))
      | split)

@[simp ↓] theorem keeps_pump {s0 s : State} (h : Keeps s0 s) (q : Nat) : Keeps s0 (pump s q) := by
  unfold pump
  try dsimp only
  repeat' (first | with_reducible assumption | (simp +contextual [h]; done) | split)

@[simp ↓] theorem keeps_enqueuePacket {s0 s : State} (h : Keeps s0 s) (q : Nat) (r : Routed) : Keeps s0 (enqueuePacket s q r) := by
  unfold enqueuePacket
  try dsimp only
  repeat' (first | with_reducible assumption | (simp +contextual [h]; done) | split)

@[simp ↓] theorem keeps_releaseUnits {s0 s : State} (h : Keeps s0 s) (q : Nat) : Keeps s0 (releaseUnits s q) := by
  unfold releaseUnits
  try dsimp only
  repeat' (first | with_reducible assumption | (simp +contextual [h]; done) | split)

@[simp ↓] theorem keeps_showPort {s0 s : State} (h : Keeps s0 s) (q st txw rxw stx srx : Nat) : Keeps s0 (showPort s q st txw rxw stx srx) := by
  unfold showPort
  try dsimp only
  repeat' (first | with_reducible assumption | (simp +contextual [h]; done) | split)

@[simp ↓] theorem keeps_leaveLink {s0 s : State} (h : Keeps s0 s) (q st : Nat) : Keeps s0 (leaveLink s q st) := by
  unfold leaveLink
  try dsimp only
  repeat' (first
    | with_reducible assumption
    | (with_reducible intro _)
    | with_reducible apply keeps_raisePort
    | with_reducible apply keeps_releaseUnits
    | with_reducible apply keeps_setFport
    | with_reducible apply keeps_showPort
    | with_reducible apply keeps_sendLinkEvent
    | with_reducible apply keeps_ite
    | simp only [↓Keeps.upd_iff]
    | split)

@[simp ↓] theorem keeps_downPort {s0 s : State} (h : Keeps s0 s) (q : Nat) : Keeps s0 (downPort s q) := by
  unfold downPort
  try dsimp only
  repeat' (first | with_reducible assumption | (simp +contextual [h]; done) | split)

@[simp ↓] theorem keeps_startTraining {s0 s : State} (h : Keeps s0 s) (q : Nat) : Keeps s0 (startTraining s q) := by
  unfold startTraining
  try dsimp only
  repeat' (first
    | with_reducible assumption
    | (with_reducible intro _)
    | with_reducible apply keeps_downPort
    | with_reducible apply keeps_setFport
    | with_reducible apply keeps_raisePort
    | with_reducible apply keeps_logConflict
    | with_reducible apply keeps_releaseUnits
    | with_reducible apply keeps_showPort
    | with_reducible apply keeps_sendLinkEvent
    | with_reducible apply keeps_ite
    | simp only [↓Keeps.upd_iff]
    | split)

@[simp ↓] theorem keeps_noteSpareLane {s0 s : State} (h : Keeps s0 s) (q stx srx : Nat) (inService : Bool) : Keeps s0 (noteSpareLane s q stx srx inService) := by
  unfold noteSpareLane
  try dsimp only
  repeat' (first | with_reducible assumption | (simp +contextual [h]; done) | split)

@[simp ↓] theorem keeps_settlePort {s0 s : State} (h : Keeps s0 s) (q tw rw stx srx : Nat) : Keeps s0 (settlePort s q tw rw stx srx) := by
  unfold settlePort
  try dsimp only
  repeat' (first
    | with_reducible assumption
    | (with_reducible intro _)
    | with_reducible apply keeps_showPort
    | with_reducible apply keeps_raisePort
    | with_reducible apply keeps_sendLinkEvent
    | with_reducible apply keeps_sendHello
    | with_reducible apply keeps_pump
    | with_reducible apply keeps_ite
    | split)

@[simp ↓] theorem keeps_trained {s0 s : State} (h : Keeps s0 s) (q : Nat) (tx rx : BitVec 9) (inService : Bool) : Keeps s0 (trained s q tx rx inService) := by
  unfold trained
  try dsimp only
  repeat' (first
    | with_reducible assumption
    | (with_reducible intro _)
    | with_reducible apply keeps_downPort
    | with_reducible apply keeps_setFport
    | with_reducible apply keeps_noteSpareLane
    | with_reducible apply keeps_raisePort
    | with_reducible apply keeps_settlePort
    | with_reducible apply keeps_ite
    | with_reducible apply keeps_getD
    | with_reducible apply keeps_iteSnd
    | with_reducible apply keeps_iteFst
    | with_reducible apply keeps_outIte
    | with_reducible apply keeps_issueIte
    | with_reducible apply keeps_foldl
    | with_reducible apply keeps_some
    | with_reducible exact keeps_none
    | with_reducible apply keeps_next
    | with_reducible apply keeps_fault
    | simp only [↓Keeps.upd_iff]
    | with_reducible apply Keeps.updFresh
    | (refine keeps_of_some ?_ (by assumption))
    | (refine keeps_of_snd ?_ (by assumption))
    | (refine keeps_of_fst ?_ (by assumption))
    | split
    | dsimp only)

@[simp ↓] theorem keeps_saveTraining {s0 s : State} (h : Keeps s0 s) (q : Nat) (x : TrainResult) : Keeps s0 (saveTraining s q x) := by
  unfold saveTraining
  try dsimp only
  repeat' (first | with_reducible assumption | (simp +contextual [h]; done) | split)

@[simp ↓] theorem keeps_startRetrain {s0 s : State} (h : Keeps s0 s) (q : Nat) : Keeps s0 (startRetrain s q) := by
  unfold startRetrain
  try dsimp only
  repeat' (first | with_reducible assumption | (simp +contextual [h]; done) | split)

@[simp ↓] theorem keeps_replayFrames {s0 s : State} (h : Keeps s0 s) (q : Nat) : Keeps s0 (replayFrames s q) := by
  unfold replayFrames
  try dsimp only
  repeat' (first
    | with_reducible assumption
    | (with_reducible intro _)
    | with_reducible apply keeps_addCounter
    | with_reducible apply keeps_setFport
    | with_reducible apply keeps_putFrame
    | with_reducible apply keeps_startRetrain
    | with_reducible apply keeps_ite
    | with_reducible apply keeps_foldl
    | simp only [↓Keeps.upd_iff]
    | split
    | dsimp only)

@[simp ↓] theorem keeps_takeFields {s0 s : State} (h : Keeps s0 s) (q : Nat) (f : Frame) : Keeps s0 (takeFields s q f) := by
  unfold takeFields
  try dsimp only
  repeat' (first
    | with_reducible assumption
    | (with_reducible intro _)
    | with_reducible apply keeps_setFport
    | with_reducible apply keeps_replayFrames
    | with_reducible apply keeps_pump
    | with_reducible apply keeps_ite
    | split)

@[simp ↓] theorem keeps_packetArrived {s0 s : State} (h : Keeps s0 s) (q : Nat) (r : Receiving) : Keeps s0 (packetArrived s q r) := by
  unfold packetArrived
  try dsimp only
  repeat' (first | with_reducible assumption | (simp +contextual [h]; done) | split)

@[simp ↓] theorem keeps_acceptFrame {s0 s : State} (h : Keeps s0 s) (q : Nat) (f : Frame) : Keeps s0 (acceptFrame s q f) := by
  unfold acceptFrame
  try dsimp only
  repeat' (first
    | with_reducible assumption
    | (with_reducible intro _)
    | with_reducible apply keeps_addCounter
    | with_reducible apply keeps_setFport
    | with_reducible apply keeps_packetArrived
    | with_reducible apply keeps_ite
    | with_reducible apply keeps_some
    | with_reducible exact keeps_none
    | simp only [↓Keeps.upd_iff]
    | (refine keeps_of_some ?_ (by assumption))
    | (refine keeps_of_snd ?_ (by assumption))
    | (refine keeps_of_fst ?_ (by assumption))
    | split
    | dsimp only)

@[simp ↓] theorem keeps_execTrainingComplete {s0 s : State} (h : Keeps s0 s) (q : Fin 16) (res : TrainResult) : OutKeeps s0 (execTrainingComplete q res s) := by
  unfold execTrainingComplete
  try dsimp only
  repeat' (first
    | with_reducible assumption
    | (with_reducible intro _)
    | with_reducible apply keeps_saveTraining
    | with_reducible apply keeps_trained
    | with_reducible apply keeps_ite
    | with_reducible apply keeps_next
    | with_reducible apply keeps_fault
    | with_reducible apply keeps_outIte
    | split)

@[simp ↓] theorem keeps_execTrainingRetry {s0 s : State} (h : Keeps s0 s) (q : Fin 16) : OutKeeps s0 (execTrainingRetry q s) := by
  unfold execTrainingRetry
  try dsimp only
  repeat' (first | with_reducible assumption | (simp +contextual [h]; done) | split)

@[simp ↓] theorem keeps_writeFabPortCtrl {s0 s : State} (h : Keeps s0 s) (q : Nat) (v : Word) : Keeps s0 (writeFabPortCtrl s q v) := by
  unfold writeFabPortCtrl
  try dsimp only
  repeat' (first
    | with_reducible assumption
    | (with_reducible intro _)
    | with_reducible apply keeps_storeReg
    | with_reducible apply keeps_setFport
    | with_reducible apply keeps_leaveLink
    | with_reducible apply keeps_startTraining
    | with_reducible apply keeps_ite
    | with_reducible apply keeps_getD
    | with_reducible apply keeps_iteSnd
    | with_reducible apply keeps_iteFst
    | with_reducible apply keeps_outIte
    | with_reducible apply keeps_issueIte
    | with_reducible apply keeps_foldl
    | with_reducible apply keeps_some
    | with_reducible exact keeps_none
    | with_reducible apply keeps_next
    | with_reducible apply keeps_fault
    | simp only [↓Keeps.upd_iff]
    | with_reducible apply Keeps.updFresh
    | (refine keeps_of_some ?_ (by assumption))
    | (refine keeps_of_snd ?_ (by assumption))
    | (refine keeps_of_fst ?_ (by assumption))
    | split
    | dsimp only)

@[simp ↓] theorem keeps_execRetrain {s0 s : State} (h : Keeps s0 s) (q : Fin 16) (v : Word) : OutKeeps s0 (execRetrain q v s) := by
  unfold execRetrain
  try dsimp only
  repeat' (first
    | with_reducible assumption
    | (with_reducible intro _)
    | with_reducible apply keeps_whenLive
    | with_reducible apply keeps_writeFabPortCtrl
    | with_reducible apply keeps_next
    | with_reducible apply keeps_fault
    | with_reducible apply keeps_outIte
    | dsimp only)

@[simp ↓] theorem keeps_execLaneFail {s0 s : State} (h : Keeps s0 s) (q : Fin 16) (tx : Bool) (lane : Fin 9) : OutKeeps s0 (execLaneFail q tx lane s) := by
  unfold execLaneFail
  try dsimp only
  repeat' (first
    | with_reducible assumption
    | (with_reducible intro _)
    | with_reducible apply keeps_startRetrain
    | with_reducible apply keeps_setFport
    | with_reducible apply keeps_ite
    | with_reducible apply keeps_next
    | with_reducible apply keeps_fault
    | with_reducible apply keeps_outIte
    | simp only [↓Keeps.upd_iff]
    | split)

@[simp ↓] theorem keeps_execInServiceRetrainComplete {s0 s : State} (h : Keeps s0 s) (q : Fin 16) (ok : Bool) : OutKeeps s0 (execInServiceRetrainComplete q ok s) := by
  unfold execInServiceRetrainComplete
  try dsimp only
  repeat' (first | with_reducible assumption | (simp +contextual [h]; done) | split)

@[simp ↓] theorem keeps_execDataFrame {s0 s : State} (h : Keeps s0 s) (q : Fin 16) (f : Frame) : OutKeeps s0 (execDataFrame q f s) := by
  unfold execDataFrame
  try dsimp only
  repeat' (first
    | with_reducible assumption
    | (with_reducible intro _)
    | with_reducible apply keeps_traceFrame
    | with_reducible apply keeps_setFport
    | with_reducible apply keeps_addCounter
    | with_reducible apply keeps_acceptFrame
    | with_reducible apply keeps_takeFields
    | with_reducible apply keeps_ite
    | with_reducible apply keeps_next
    | with_reducible apply keeps_fault
    | with_reducible apply keeps_outIte
    | split)

@[simp ↓] theorem keeps_execLinkControlFrame {s0 s : State} (h : Keeps s0 s) (q : Fin 16) (f : Frame) : OutKeeps s0 (execLinkControlFrame q f s) := by
  unfold execLinkControlFrame
  try dsimp only
  repeat' (first
    | with_reducible assumption
    | (with_reducible intro _)
    | with_reducible apply keeps_traceFrame
    | with_reducible apply keeps_takeFields
    | with_reducible apply keeps_ite
    | with_reducible apply keeps_next
    | with_reducible apply keeps_fault
    | with_reducible apply keeps_outIte
    | split)

@[simp ↓] theorem keeps_execIdleFrame {s0 s : State} (h : Keeps s0 s) (q : Fin 16) (f : Frame) : OutKeeps s0 (execIdleFrame q f s) := by
  unfold execIdleFrame
  try dsimp only
  repeat' (first
    | with_reducible assumption
    | (with_reducible intro _)
    | with_reducible apply keeps_traceFrame
    | with_reducible apply keeps_takeFields
    | with_reducible apply keeps_ite
    | with_reducible apply keeps_next
    | with_reducible apply keeps_fault
    | with_reducible apply keeps_outIte
    | split)

@[simp ↓] theorem keeps_execReplayTimeout {s0 s : State} (h : Keeps s0 s) (q : Fin 16) : OutKeeps s0 (execReplayTimeout q s) := by
  unfold execReplayTimeout
  try dsimp only
  repeat' (first | with_reducible assumption | (simp +contextual [h]; done) | split)

@[simp ↓] theorem keeps_execLinkControlSend {s0 s : State} (h : Keeps s0 s) (q : Fin 16) : OutKeeps s0 (execLinkControlSend q s) := by
  unfold execLinkControlSend
  try dsimp only
  repeat' (first
    | with_reducible assumption
    | (with_reducible intro _)
    | with_reducible apply keeps_putFrame
    | with_reducible apply keeps_setFport
    | with_reducible apply keeps_ite
    | with_reducible apply keeps_next
    | with_reducible apply keeps_fault
    | with_reducible apply keeps_outIte
    | (refine keeps_of_some ?_ (by assumption))
    | (refine keeps_of_snd ?_ (by assumption))
    | (refine keeps_of_fst ?_ (by assumption))
    | split)

@[simp ↓] theorem keeps_loseLink {s0 s : State} (h : Keeps s0 s) (q : Nat) : Keeps s0 (loseLink s q) := by
  unfold loseLink
  try dsimp only
  repeat' (first | with_reducible assumption | (simp +contextual [h]; done) | split)

@[simp ↓] theorem keeps_execPortDown {s0 s : State} (h : Keeps s0 s) (q : Fin 16) : OutKeeps s0 (execPortDown q s) := by
  unfold execPortDown
  try dsimp only
  repeat' (first | with_reducible assumption | (simp +contextual [h]; done) | split)

@[simp ↓] theorem keeps_execReorderTimeout {s0 s : State} (h : Keeps s0 s) (q : Fin 16) : OutKeeps s0 (execReorderTimeout q s) := by
  unfold execReorderTimeout
  try dsimp only
  repeat' (first
    | with_reducible assumption
    | (with_reducible intro _)
    | with_reducible apply keeps_pump
    | with_reducible apply keeps_setFport
    | with_reducible apply keeps_next
    | with_reducible apply keeps_fault
    | with_reducible apply keeps_outIte
    | with_reducible apply keeps_some
    | with_reducible exact keeps_none
    | simp only [↓Keeps.upd_iff]
    | (refine keeps_of_some ?_ (by assumption))
    | (refine keeps_of_snd ?_ (by assumption))
    | (refine keeps_of_fst ?_ (by assumption))
    | split
    | dsimp only)

@[simp ↓] theorem keeps_writeFiCtrl {s0 s : State} (h : Keeps s0 s) (q : Nat) (v : Word) : Keeps s0 (writeFiCtrl s q v) := by
  unfold writeFiCtrl
  try dsimp only
  repeat' (first
    | with_reducible assumption
    | (with_reducible intro _)
    | with_reducible apply keeps_setRegFld
    | with_reducible apply keeps_storeReg
    | with_reducible apply keeps_startTraining
    | with_reducible apply keeps_logConflict
    | with_reducible apply keeps_setFport
    | with_reducible apply keeps_ite
    | simp only [↓Keeps.upd_iff]
    | split)

@[simp ↓] theorem keeps_execFiEnWrite {s0 s : State} (h : Keeps s0 s) (q : Fin 16) (v : Word) : OutKeeps s0 (execFiEnWrite q v s) := by
  unfold execFiEnWrite
  try dsimp only
  repeat' (first
    | with_reducible assumption
    | (with_reducible intro _)
    | with_reducible apply keeps_whenLive
    | with_reducible apply keeps_writeFiCtrl
    | with_reducible apply keeps_next
    | with_reducible apply keeps_fault
    | with_reducible apply keeps_outIte
    | dsimp only)

@[simp ↓] theorem keeps_writeTraceCtrl {s0 s : State} (h : Keeps s0 s) (q : Nat) (v : Word) : Keeps s0 (writeTraceCtrl s q v) := by
  unfold writeTraceCtrl
  try dsimp only
  repeat' (first
    | with_reducible assumption
    | (with_reducible intro _)
    | with_reducible apply keeps_setRegFld
    | with_reducible apply keeps_storeReg
    | with_reducible apply keeps_logConflict
    | with_reducible apply keeps_ite
    | split)

@[simp ↓] theorem keeps_execTraceEnWrite {s0 s : State} (h : Keeps s0 s) (q : Fin 16) (v : Word) : OutKeeps s0 (execTraceEnWrite q v s) :=
  keeps_next (keeps_whenLive h _ _ (fun _ hx => keeps_writeTraceCtrl hx _ _))

@[simp ↓] theorem keeps_dueEntry {s0 s : State} (h : Keeps s0 s) (ring : Fin 64) (q : CqSpec) (final : Option (BitVec 13)) : Keeps s0 (dueEntry s ring q final) := by
  unfold dueEntry
  try dsimp only
  repeat' (first | with_reducible assumption | (simp +contextual [h]; done) | split)

@[simp ↓] theorem keeps_writeEntry {s0 s : State} (h : Keeps s0 s) (ring : Fin 64) : Keeps s0 (writeEntry s ring) := by
  unfold writeEntry
  split
  · exact h
  · split
    · exact h
    · extract_lets _ _ _ _ s1 _ s2 _ _ _ _ s3 s4
      have h2 : Keeps s0 s2 := keeps_setRegFld (keeps_emit h _) ..
      have h3 : Keeps s0 s3 := (Keeps.upd_iff ..).2 h2
      have h4 : Keeps s0 s4 := by
        unfold s4
        split
        · exact keeps_addCounter h3 _ _
        · exact h3
      clear_value s4
      repeat' (first
        | with_reducible assumption
        | with_reducible apply keeps_triggerVector
        | with_reducible apply keeps_ite
        | simp only [↓Keeps.upd_iff]
        | split)

@[simp ↓] theorem keeps_writeEntries {s0 s : State} (h : Keeps s0 s) : Keeps s0 (writeEntries s) := by
  unfold writeEntries
  try dsimp only
  repeat' (first | with_reducible assumption | (simp +contextual [h]; done) | split)

@[simp ↓] theorem keeps_setOrig {s0 s : State} (h : Keeps s0 s) (i : BitVec 13) (o : OrigEntry) : Keeps s0 (setOrig s i o) := by
  unfold setOrig
  try dsimp only
  repeat' (first | with_reducible assumption | (simp +contextual [h]; done) | split)

@[simp ↓] theorem keeps_decideItem {s0 s : State} (h : Keeps s0 s) (i : BitVec 13) (o : OrigEntry) (st : ItemState) (code detail lot exec flags : Nat) : Keeps s0 (decideItem s i o st code detail lot exec flags) := by
  unfold decideItem
  try dsimp only
  repeat' (first | with_reducible assumption | (simp +contextual [h]; done) | split)

@[simp ↓] theorem keeps_reportFault {s0 s : State} (h : Keeps s0 s) (cause : Nat) : Keeps s0 (reportFault s cause) := by
  unfold reportFault
  try dsimp only
  repeat' (first
    | with_reducible assumption
    | (with_reducible intro _)
    | with_reducible apply keeps_emit
    | with_reducible apply keeps_failItem
    | with_reducible apply keeps_writeEntries
    | with_reducible apply keeps_decideItem
    | with_reducible apply keeps_ite
    | with_reducible apply keeps_foldl
    | split
    | dsimp only)

@[simp ↓] theorem keeps_loseCore {s0 s : State} (h : Keeps s0 s) : Keeps s0 (loseCore s) := by
  unfold loseCore
  try dsimp only
  repeat' (first | with_reducible assumption | (simp +contextual [h]; done) | split)

@[simp ↓] theorem keeps_dropRails {s0 s : State} (h : Keeps s0 s) : Keeps s0 (dropRails s) := by
  unfold dropRails
  try dsimp only
  repeat' (first | with_reducible assumption | (simp +contextual [h]; done) | split)

@[simp ↓] theorem keeps_deviceFault {s0 s : State} (h : Keeps s0 s) (cause : Nat) : Keeps s0 (deviceFault s cause) := by
  unfold deviceFault
  try dsimp only
  repeat' (first
    | with_reducible assumption
    | (with_reducible intro _)
    | with_reducible apply keeps_dropRails
    | with_reducible apply keeps_reportFault
    | with_reducible apply keeps_logEvent)

@[simp ↓] theorem keeps_takeArrived {s0 s : State} (h : Keeps s0 s) (q : Nat) (pkt : Packet) : Keeps s0 (takeArrived s q pkt) := by
  unfold takeArrived
  try dsimp only
  repeat' (first | with_reducible assumption | (simp +contextual [h]; done) | split)

@[simp ↓] theorem keeps_takeFrom {s0 s : State} (h : Keeps s0 s) (from_ : Fin 17) (pkt : Packet) : Keeps s0 (takeFrom s from_ pkt) := by
  unfold takeFrom
  try dsimp only
  repeat' (first | with_reducible assumption | (simp +contextual [h]; done) | split)

@[simp ↓] theorem keeps_noRoute {s0 s : State} (h : Keeps s0 s) : Keeps s0 (noRoute s) := by
  unfold noRoute
  try dsimp only
  repeat' (first | with_reducible assumption | (simp +contextual [h]; done) | split)

@[simp ↓] theorem keeps_forwardPath {s0 s : State} (h : Keeps s0 s) (from_ : Fin 17) (pkt : Packet) (ttl : Nat) : Keeps s0 (forwardPath s from_ pkt ttl) := by
  unfold forwardPath
  try dsimp only
  repeat' (first | with_reducible assumption | (simp +contextual [h]; done) | split)

@[simp ↓] theorem keeps_checkRoute {s0 s : State} (h : Keeps s0 s) (pkt : Packet) (c : ReadCheck) : Keeps s0 (checkRoute s pkt c) := by
  cases c <;> unfold checkRoute <;> dsimp only <;> repeat' (first
    | with_reducible assumption
    | with_reducible apply keeps_correctedError
    | with_reducible apply keeps_uncorrectable
    | simp only [↓Keeps.upd_iff]
    | split)

@[simp ↓] theorem keeps_forwardPacket {s0 s : State} (h : Keeps s0 s) (from_ : Fin 17) (pkt : Packet) (ttl : Nat) : Keeps s0 (forwardPacket s from_ pkt ttl) := by
  unfold forwardPacket
  try dsimp only
  repeat' (first | with_reducible assumption | (simp +contextual [h]; done) | split)

@[simp ↓] theorem keeps_execPacketForward {s0 s : State} (h : Keeps s0 s) (from_ : Fin 17) (pkt : Packet) (hop : Hop) : OutKeeps s0 (execPacketForward from_ pkt hop s) := by
  unfold execPacketForward
  try dsimp only
  repeat' (first
    | with_reducible assumption
    | (with_reducible intro _)
    | with_reducible apply keeps_next
    | with_reducible apply keeps_forwardPacket
    | with_reducible apply keeps_checkRoute
    | with_reducible apply keeps_ite
    | with_reducible apply keeps_getD
    | with_reducible apply keeps_iteSnd
    | with_reducible apply keeps_iteFst
    | with_reducible apply keeps_outIte
    | with_reducible apply keeps_issueIte
    | with_reducible apply keeps_foldl
    | with_reducible apply keeps_some
    | with_reducible exact keeps_none
    | with_reducible apply keeps_next
    | with_reducible apply keeps_fault
    | simp only [↓Keeps.upd_iff]
    | with_reducible apply Keeps.updFresh
    | (refine keeps_of_some ?_ (by assumption))
    | (refine keeps_of_snd ?_ (by assumption))
    | (refine keeps_of_fst ?_ (by assumption))
    | split
    | dsimp only)

@[simp ↓] theorem keeps_endSilently {s0 s : State} (h : Keeps s0 s) (k : ItemKey) : Keeps s0 (endSilently s k) := by
  unfold endSilently
  try dsimp only
  repeat' (first
    | with_reducible assumption
    | (with_reducible intro _)
    | with_reducible apply keeps_leaveItt
    | with_reducible apply keeps_endWork
    | with_reducible apply keeps_some
    | with_reducible exact keeps_none
    | simp only [↓Keeps.upd_iff]
    | dsimp only)

@[simp ↓] theorem keeps_originatorsLeft {s0 s : State} (h : Keeps s0 s) (p : BitVec 16 → Bool) : Keeps s0 (originatorsLeft s p) := by
  unfold originatorsLeft
  try dsimp only
  repeat' (first
    | with_reducible assumption
    | (with_reducible intro _)
    | with_reducible apply keeps_endSilently
    | with_reducible apply keeps_foldl
    | simp only [↓Keeps.upd_iff]
    | dsimp only)

@[simp ↓] theorem keeps_voidIdentity {s0 s : State} (h : Keeps s0 s) : Keeps s0 (voidIdentity s) := by
  unfold voidIdentity
  try dsimp only
  repeat' (first
    | with_reducible assumption
    | (with_reducible intro _)
    | with_reducible apply keeps_endSilently
    | with_reducible apply keeps_decideItem
    | with_reducible apply keeps_ite
    | with_reducible apply keeps_foldl
    | simp only [↓Keeps.upd_iff]
    | split
    | dsimp only)

@[simp ↓] theorem keeps_resettlePort {s0 s : State} (h : Keeps s0 s) (q : Nat) : Keeps s0 (resettlePort s q) := by
  unfold resettlePort
  try dsimp only
  repeat' (first | with_reducible assumption | (simp +contextual [h]; done) | split)

@[simp ↓] theorem keeps_announce {s0 s : State} (h : Keeps s0 s) : Keeps s0 (announce s) := by
  unfold announce
  try dsimp only
  repeat' (first
    | with_reducible assumption
    | (with_reducible intro _)
    | with_reducible apply keeps_resettlePort
    | with_reducible apply keeps_sendHello
    | with_reducible apply keeps_ite
    | with_reducible apply keeps_foldl
    | split
    | dsimp only)

@[simp ↓] theorem keeps_takeIdentity {s0 s : State} (h : Keeps s0 s) (id : Nat) (mgr : BitVec 64) : Keeps s0 (takeIdentity s id mgr) := by
  unfold takeIdentity
  try dsimp only
  repeat' (first
    | with_reducible assumption
    | (with_reducible intro _)
    | with_reducible apply keeps_setRegBit
    | with_reducible apply keeps_setRegFld
    | with_reducible apply keeps_announce
    | with_reducible apply keeps_ite
    | with_reducible apply keeps_some
    | with_reducible exact keeps_none
    | simp only [↓Keeps.upd_iff]
    | split)

@[simp ↓] theorem keeps_dropIdentity {s0 s : State} (h : Keeps s0 s) : Keeps s0 (dropIdentity s) := by
  unfold dropIdentity
  try dsimp only
  repeat' (first
    | with_reducible assumption
    | (with_reducible intro _)
    | with_reducible apply keeps_clrRegBit
    | with_reducible apply keeps_announce
    | simp only [↓Keeps.upd_iff])

@[simp ↓] theorem keeps_completeJoin {s0 s : State} (h : Keeps s0 s) : Keeps s0 (completeJoin s) := by
  unfold completeJoin
  try dsimp only
  repeat' (first | with_reducible assumption | (simp +contextual [h]; done) | split)

@[simp ↓] theorem keeps_checkWorkerJoin {s0 s : State} (h : Keeps s0 s) : Keeps s0 (checkWorkerJoin s) := by
  unfold checkWorkerJoin
  try dsimp only
  repeat' (first | with_reducible assumption | (simp +contextual [h]; done) | split)

@[simp ↓] theorem keeps_execProbe {s0 s : State} (h : Keeps s0 s) (q : Fin 16) (_mgrSerial : BitVec 64) (rpath : List (Fin 16)) : OutKeeps s0 (execProbe q _mgrSerial rpath s) := by
  unfold execProbe
  try dsimp only
  repeat' (first | with_reducible assumption | (simp +contextual [h]; done) | split)

@[simp ↓] theorem keeps_execAssign {s0 s : State} (h : Keeps s0 s) (q : Fin 16) (m : AssignMsg) : OutKeeps s0 (execAssign q m s) := by
  unfold execAssign
  try dsimp only
  repeat' (first
    | with_reducible assumption
    | (with_reducible intro _)
    | with_reducible apply keeps_next
    | with_reducible apply keeps_some
    | with_reducible apply keeps_none
    | with_reducible apply keeps_sendControl
    | with_reducible apply keeps_setRegFld
    | with_reducible apply keeps_voidIdentity
    | with_reducible apply keeps_checkWorkerJoin
    | with_reducible apply keeps_takeIdentity
    | with_reducible apply keeps_ite
    | with_reducible apply keeps_getD
    | with_reducible apply keeps_iteSnd
    | with_reducible apply keeps_iteFst
    | with_reducible apply keeps_outIte
    | with_reducible apply keeps_issueIte
    | with_reducible apply keeps_foldl
    | with_reducible apply keeps_some
    | with_reducible exact keeps_none
    | with_reducible apply keeps_next
    | with_reducible apply keeps_fault
    | simp only [↓Keeps.upd_iff]
    | with_reducible apply Keeps.updFresh
    | (refine keeps_of_some ?_ (by assumption))
    | (refine keeps_of_snd ?_ (by assumption))
    | (refine keeps_of_fst ?_ (by assumption))
    | split
    | dsimp only)

@[simp ↓] theorem keeps_installRoutes {s0 s : State} (h : Keeps s0 s) (first : Nat) (entries : List Word) : Keeps s0 (installRoutes s first entries) := by
  unfold installRoutes
  try dsimp only
  repeat' (first
    | with_reducible assumption
    | (with_reducible intro _)
    | with_reducible apply keeps_setRegWord
    | with_reducible apply keeps_ite
    | with_reducible apply keeps_getD
    | with_reducible apply keeps_iteSnd
    | with_reducible apply keeps_iteFst
    | with_reducible apply keeps_outIte
    | with_reducible apply keeps_issueIte
    | with_reducible apply keeps_foldl
    | with_reducible apply keeps_some
    | with_reducible exact keeps_none
    | with_reducible apply keeps_next
    | with_reducible apply keeps_fault
    | simp only [↓Keeps.upd_iff]
    | with_reducible apply Keeps.updFresh
    | (refine keeps_of_some ?_ (by assumption))
    | (refine keeps_of_snd ?_ (by assumption))
    | (refine keeps_of_fst ?_ (by assumption))
    | split
    | dsimp only)

@[simp ↓] theorem keeps_execRouteSet {s0 s : State} (h : Keeps s0 s) (m : RouteSetMsg) : OutKeeps s0 (execRouteSet m s) := by
  unfold execRouteSet
  try dsimp only
  repeat' (first
    | with_reducible assumption
    | (with_reducible intro _)
    | with_reducible apply keeps_setRegWord
    | with_reducible apply keeps_installRoutes
    | with_reducible apply keeps_sendControl
    | with_reducible apply keeps_checkWorkerJoin
    | with_reducible apply keeps_ite
    | with_reducible apply keeps_next
    | with_reducible apply keeps_fault
    | with_reducible apply keeps_outIte
    | simp only [↓Keeps.upd_iff]
    | split)

@[simp ↓] theorem keeps_execHeartbeat {s0 s : State} (h : Keeps s0 s) (mgrSerial : BitVec 64) : OutKeeps s0 (execHeartbeat mgrSerial s) := by
  unfold execHeartbeat
  try dsimp only
  repeat' (first
    | with_reducible assumption
    | (with_reducible intro _)
    | with_reducible apply keeps_sendControl
    | with_reducible apply keeps_ite
    | with_reducible apply keeps_next
    | with_reducible apply keeps_fault
    | with_reducible apply keeps_outIte
    | with_reducible apply keeps_some
    | with_reducible exact keeps_none
    | simp only [↓Keeps.upd_iff]
    | split)

@[simp ↓] theorem keeps_execManagerLoss {s0 s : State} (h : Keeps s0 s) : OutKeeps s0 (execManagerLoss s) := by
  unfold execManagerLoss
  try dsimp only
  repeat' (first
    | with_reducible assumption
    | (with_reducible intro _)
    | with_reducible apply keeps_withCause
    | with_reducible apply keeps_setRegBit
    | with_reducible apply keeps_ite
    | with_reducible apply keeps_next
    | with_reducible apply keeps_fault
    | with_reducible apply keeps_outIte
    | simp only [↓Keeps.upd_iff]
    | split
    | dsimp only)

@[simp ↓] theorem keeps_execJoinWaitTimeout {s0 s : State} (h : Keeps s0 s) : OutKeeps s0 (execJoinWaitTimeout s) := by
  unfold execJoinWaitTimeout
  try dsimp only
  repeat' (first
    | with_reducible assumption
    | (with_reducible intro _)
    | with_reducible apply keeps_withCause
    | with_reducible apply keeps_setRegBit
    | with_reducible apply keeps_ite
    | with_reducible apply keeps_next
    | with_reducible apply keeps_fault
    | with_reducible apply keeps_outIte
    | simp only [↓Keeps.upd_iff]
    | split
    | dsimp only)

@[simp ↓] theorem keeps_refuseFabCmd {s0 s : State} (h : Keeps s0 s) : Keeps s0 (refuseFabCmd s) := by
  unfold refuseFabCmd
  try dsimp only
  repeat' (first | with_reducible assumption | (simp +contextual [h]; done) | split)

@[simp ↓] theorem keeps_leaveDomain {s0 s : State} (h : Keeps s0 s) : Keeps s0 (leaveDomain s) := by
  unfold leaveDomain
  try dsimp only
  repeat' (first | with_reducible assumption | (simp +contextual [h]; done) | split)

end Sys2Proof.Machine
end

