-- ==== Sys2Proof/Laws/KeepsPart4.lean ====
section
/-! SUPPORT. What the operations and commands keep (KeepsBase), in the order of the model's files: Manager, Region, Vc, NearFar. -/

set_option linter.unusedTactic false
set_option linter.unreachableTactic false
set_option linter.unusedSimpArgs false
set_option linter.unusedVariables false

namespace Sys2Proof.Machine

@[simp ↓] theorem keeps_setMember {s0 s : State} (h : Keeps s0 s) (serial : BitVec 64) (f : Member → Member) : Keeps s0 (setMember s serial f) := by
  unfold setMember
  try dsimp only
  repeat' (first | with_reducible assumption | (simp +contextual [h]; done) | split)

@[simp ↓] theorem keeps_countMembers {s0 s : State} (h : Keeps s0 s) : Keeps s0 (countMembers s) := by
  unfold countMembers
  try dsimp only
  repeat' (first | with_reducible assumption | (simp +contextual [h]; done) | split)

@[simp ↓] theorem keeps_sendRouteSet {s0 s : State} (h : Keeps s0 s) (m : Member) (gen : Nat) (old new : Tbl Nat) : Keeps s0 (sendRouteSet s m gen old new) := by
  unfold sendRouteSet
  try dsimp only
  repeat' (first | with_reducible assumption | (simp +contextual [h]; done) | split)

@[simp ↓] theorem keeps_installOwn {s0 s : State} (h : Keeps s0 s) (new : Tbl Nat) : Keeps s0 (installOwn s new) := by
  unfold installOwn
  try dsimp only
  repeat' (first
    | with_reducible assumption
    | (with_reducible intro _)
    | with_reducible apply keeps_installRoutes
    | with_reducible apply keeps_foldl
    | simp only [↓Keeps.upd_iff]
    | dsimp only)

@[simp ↓] theorem keeps_checkManagerJoin {s0 s : State} (h : Keeps s0 s) : Keeps s0 (checkManagerJoin s) := by
  unfold checkManagerJoin
  try dsimp only
  repeat' (first | with_reducible assumption | (simp +contextual [h]; done) | split)

@[simp ↓] theorem keeps_describeBorder {s0 s : State} (h : Keeps s0 s) : Keeps s0 (describeBorder s) := by
  unfold describeBorder
  try dsimp only
  repeat' (first | with_reducible assumption | (simp +contextual [h]; done) | split)

@[simp ↓] theorem keeps_showFederation {s0 s : State} (h : Keeps s0 s) : Keeps s0 (showFederation s) := by
  unfold showFederation
  try dsimp only
  repeat' (first | with_reducible assumption | (simp +contextual [h]; done) | split)

@[simp ↓] theorem keeps_publish {s0 s : State} (h : Keeps s0 s) : Keeps s0 (publish s) := by
  unfold publish
  try dsimp only
  repeat' (first
    | with_reducible assumption
    | (with_reducible intro _)
    | with_reducible apply keeps_describeBorder
    | with_reducible apply keeps_showFederation
    | with_reducible apply keeps_countMembers
    | with_reducible apply keeps_installOwn
    | with_reducible apply keeps_setRegWord
    | with_reducible apply keeps_setMember
    | with_reducible apply keeps_sendRouteSet
    | with_reducible apply keeps_checkManagerJoin
    | with_reducible apply keeps_ite
    | with_reducible apply keeps_foldl
    | simp only [↓Keeps.upd_iff]
    | (refine keeps_of_some ?_ (by assumption))
    | (refine keeps_of_snd ?_ (by assumption))
    | (refine keeps_of_fst ?_ (by assumption))
    | split
    | dsimp only)

@[simp ↓] theorem keeps_sendAssign {s0 s : State} (h : Keeps s0 s) (d : ProbeReplyMsg) (index : Nat) : Keeps s0 (sendAssign s d index) := by
  unfold sendAssign
  try dsimp only
  repeat' (first | with_reducible assumption | (simp +contextual [h]; done) | split)

@[simp ↓] theorem keeps_enterMember {s0 s : State} (h : Keeps s0 s) (d : ProbeReplyMsg) (index : Nat) : Keeps s0 (enterMember s d index) := by
  unfold enterMember
  try dsimp only
  repeat' (first | with_reducible assumption | (simp +contextual [h]; done) | split)

@[simp ↓] theorem keeps_assignDevice {s0 s : State} (h : Keeps s0 s) (d : ProbeReplyMsg) : Keeps s0 (assignDevice s d) := by
  unfold assignDevice
  try dsimp only
  repeat' (first
    | with_reducible assumption
    | (with_reducible intro _)
    | with_reducible apply keeps_enterMember
    | with_reducible apply keeps_ite
    | with_reducible apply keeps_some
    | with_reducible exact keeps_none
    | simp only [↓Keeps.upd_iff]
    | (refine keeps_of_some ?_ (by assumption))
    | (refine keeps_of_snd ?_ (by assumption))
    | (refine keeps_of_fst ?_ (by assumption))
    | split
    | dsimp only)

@[simp ↓] theorem keeps_ackLeft {s0 s : State} (h : Keeps s0 s) (dst pseq : BitVec 16) : Keeps s0 (ackLeft s dst pseq) := by
  unfold ackLeft
  try dsimp only
  repeat' (first | with_reducible assumption | (simp +contextual [h]; done) | split)

@[simp ↓] theorem keeps_finishGroups {s0 s : State} (h : Keeps s0 s) : Keeps s0 (finishGroups s) := by
  unfold finishGroups
  try dsimp only
  repeat' (first
    | with_reducible assumption
    | (with_reducible intro _)
    | with_reducible apply keeps_some
    | with_reducible apply keeps_ackLeft
    | with_reducible apply keeps_none
    | with_reducible apply keeps_assignDevice
    | with_reducible apply keeps_checkManagerJoin
    | with_reducible apply keeps_ite
    | with_reducible apply keeps_getD
    | with_reducible apply keeps_iteSnd
    | with_reducible apply keeps_iteFst
    | with_reducible apply keeps_outIte
    | with_reducible apply keeps_issueIte
    | with_reducible apply keeps_foldl
    | with_reducible apply keeps_some
    | with_reducible exact keeps_none
    | with_reducible apply keeps_next
    | with_reducible apply keeps_fault
    | simp only [↓Keeps.upd_iff]
    | with_reducible apply Keeps.updFresh
    | (refine keeps_of_some ?_ (by assumption))
    | (refine keeps_of_snd ?_ (by assumption))
    | (refine keeps_of_fst ?_ (by assumption))
    | split
    | dsimp only)

@[simp ↓] theorem keeps_sendLeft {s0 s : State} (h : Keeps s0 s) (group : Nat) (ids : List (BitVec 16)) (domain : Option (BitVec 4)) (dst : Nat) : Keeps s0 (sendLeft s group ids domain dst) := by
  unfold sendLeft
  try dsimp only
  repeat' (first | with_reducible assumption | (simp +contextual [h]; done) | split)

@[simp ↓] theorem keeps_passLeft {s0 s : State} (h : Keeps s0 s) (ids : List (BitVec 16)) (domain : Option (BitVec 4)) (origin : Option (BitVec 16 × BitVec 16)) (assign : List ProbeReplyMsg) (managers : List Nat) : Keeps s0 (passLeft s ids domain origin assign managers) := by
  unfold passLeft
  try dsimp only
  repeat' (first
    | with_reducible assumption
    | (with_reducible intro _)
    | with_reducible apply keeps_finishGroups
    | with_reducible apply keeps_sendLeft
    | with_reducible apply keeps_foldl
    | simp only [↓Keeps.upd_iff]
    | dsimp only)

@[simp ↓] theorem keeps_declareLeft {s0 s : State} (h : Keeps s0 s) (ms : List Member) (assign : List ProbeReplyMsg) : Keeps s0 (declareLeft s ms assign) := by
  unfold declareLeft
  try dsimp only
  repeat' (first
    | with_reducible assumption
    | (with_reducible intro _)
    | with_reducible apply keeps_originatorsLeft
    | with_reducible apply keeps_publish
    | with_reducible apply keeps_passLeft
    | with_reducible apply keeps_ite
    | simp only [↓Keeps.upd_iff]
    | split
    | dsimp only)

@[simp ↓] theorem keeps_addProbes {s0 s : State} (h : Keeps s0 s) (path : List (Fin 16)) (ports : List PortDesc) : Keeps s0 (addProbes s path ports) := by
  unfold addProbes
  try dsimp only
  repeat' (first
    | with_reducible assumption
    | (with_reducible intro _)
    | with_reducible apply keeps_ite
    | with_reducible apply keeps_foldl
    | simp only [↓Keeps.upd_iff]
    | split
    | dsimp only)

@[simp ↓] theorem keeps_sendProbe {s0 s : State} (h : Keeps s0 s) (serial : BitVec 64) (path : List (Fin 16)) (tries : Nat) : Keeps s0 (sendProbe s serial path tries) := by
  unfold sendProbe
  try dsimp only
  repeat' (first | with_reducible assumption | (simp +contextual [h]; done) | split)

@[simp ↓] theorem keeps_nextProbe {s0 s : State} (h : Keeps s0 s) : Keeps s0 (nextProbe s) := by
  unfold nextProbe
  try dsimp only
  repeat' (first | with_reducible assumption | (simp +contextual [h]; done) | split)

@[simp ↓] theorem keeps_startRound {s0 s : State} (h : Keeps s0 s) : Keeps s0 (startRound s) := by
  unfold startRound
  try dsimp only
  repeat' (first
    | with_reducible assumption
    | (with_reducible intro _)
    | with_reducible apply keeps_nextProbe
    | with_reducible apply keeps_addProbes
    | with_reducible apply keeps_ite
    | simp only [↓Keeps.upd_iff]
    | split)

@[simp ↓] theorem keeps_startJoin {s0 s : State} (h : Keeps s0 s) : Keeps s0 (startJoin s) := by
  unfold startJoin
  try dsimp only
  repeat' (first
    | with_reducible assumption
    | (with_reducible intro _)
    | with_reducible apply keeps_setRegFld
    | with_reducible apply keeps_startRound
    | with_reducible apply keeps_takeIdentity
    | with_reducible apply keeps_setRegBit
    | with_reducible apply keeps_checkWorkerJoin
    | with_reducible apply keeps_ite
    | split)

@[simp ↓] theorem keeps_stopManaging {s0 s : State} (h : Keeps s0 s) : Keeps s0 (stopManaging s) := by
  unfold stopManaging
  try dsimp only
  repeat' (first
    | with_reducible assumption
    | (with_reducible intro _)
    | with_reducible apply keeps_setRegFld
    | with_reducible apply keeps_setRegWord
    | with_reducible apply keeps_dropIdentity
    | with_reducible apply keeps_failStep
    | with_reducible apply keeps_ite
    | simp only [↓Keeps.upd_iff]
    | split)

@[simp ↓] theorem keeps_describe {s0 s : State} (h : Keeps s0 s) (m : ProbeReplyMsg) : Keeps s0 (describe s m) := by
  unfold describe
  try dsimp only
  repeat' (first | with_reducible assumption | (simp +contextual [h]; done) | split)

@[simp ↓] theorem keeps_execProbeReply {s0 s : State} (h : Keeps s0 s) (m : ProbeReplyMsg) : OutKeeps s0 (execProbeReply m s) := by
  unfold execProbeReply
  try dsimp only
  repeat' (first
    | with_reducible assumption
    | (with_reducible intro _)
    | with_reducible apply keeps_stopManaging
    | with_reducible apply keeps_nextProbe
    | with_reducible apply keeps_addProbes
    | with_reducible apply keeps_describe
    | with_reducible apply keeps_ite
    | with_reducible apply keeps_next
    | with_reducible apply keeps_fault
    | with_reducible apply keeps_outIte
    | with_reducible apply keeps_some
    | with_reducible exact keeps_none
    | simp only [↓Keeps.upd_iff]
    | (refine keeps_of_some ?_ (by assumption))
    | (refine keeps_of_snd ?_ (by assumption))
    | (refine keeps_of_fst ?_ (by assumption))
    | split
    | dsimp only)

@[simp ↓] theorem keeps_execProbeTimeout {s0 s : State} (h : Keeps s0 s) (path : List (Fin 16)) : OutKeeps s0 (execProbeTimeout path s) := by
  unfold execProbeTimeout
  try dsimp only
  repeat' (first
    | with_reducible assumption
    | (with_reducible intro _)
    | with_reducible apply keeps_sendProbe
    | with_reducible apply keeps_nextProbe
    | with_reducible apply keeps_ite
    | with_reducible apply keeps_next
    | with_reducible apply keeps_fault
    | with_reducible apply keeps_outIte
    | with_reducible apply keeps_some
    | with_reducible exact keeps_none
    | simp only [↓Keeps.upd_iff]
    | (refine keeps_of_some ?_ (by assumption))
    | (refine keeps_of_snd ?_ (by assumption))
    | (refine keeps_of_fst ?_ (by assumption))
    | split
    | dsimp only)

@[simp ↓] theorem keeps_execAssignAck {s0 s : State} (h : Keeps s0 s) (serial : BitVec 64) (accept : Bool) (_reason : Byte) : OutKeeps s0 (execAssignAck serial accept _reason s) := by
  unfold execAssignAck
  try dsimp only
  repeat' (first
    | with_reducible assumption
    | (with_reducible intro _)
    | with_reducible apply keeps_setMember
    | with_reducible apply keeps_countMembers
    | with_reducible apply keeps_publish
    | with_reducible apply keeps_ite
    | with_reducible apply keeps_next
    | with_reducible apply keeps_fault
    | with_reducible apply keeps_outIte
    | simp only [↓Keeps.upd_iff]
    | split
    | dsimp only)

@[simp ↓] theorem keeps_execRouteAck {s0 s : State} (h : Keeps s0 s) (serial : BitVec 64) (gen : Word) : OutKeeps s0 (execRouteAck serial gen s) := by
  unfold execRouteAck
  try dsimp only
  repeat' (first
    | with_reducible assumption
    | (with_reducible intro _)
    | with_reducible apply keeps_checkManagerJoin
    | with_reducible apply keeps_setMember
    | with_reducible apply keeps_ite
    | with_reducible apply keeps_next
    | with_reducible apply keeps_fault
    | with_reducible apply keeps_outIte
    | simp only [↓Keeps.upd_iff]
    | split
    | dsimp only)

@[simp ↓] theorem keeps_execRouteSetTimeout {s0 s : State} (h : Keeps s0 s) (serial : BitVec 64) : OutKeeps s0 (execRouteSetTimeout serial s) := by
  unfold execRouteSetTimeout
  try dsimp only
  repeat' (first
    | with_reducible assumption
    | (with_reducible intro _)
    | with_reducible apply keeps_setMember
    | with_reducible apply keeps_sendRouteSet
    | with_reducible apply keeps_ite
    | with_reducible apply keeps_next
    | with_reducible apply keeps_fault
    | with_reducible apply keeps_outIte
    | with_reducible apply keeps_some
    | with_reducible exact keeps_none
    | simp only [↓Keeps.upd_iff]
    | (refine keeps_of_some ?_ (by assumption))
    | (refine keeps_of_snd ?_ (by assumption))
    | (refine keeps_of_fst ?_ (by assumption))
    | split
    | dsimp only)

@[simp ↓] theorem keeps_execLinkEvent {s0 s : State} (h : Keeps s0 s) (m : LinkEventMsg) : OutKeeps s0 (execLinkEvent m s) := by
  unfold execLinkEvent
  try dsimp only
  repeat' (first
    | with_reducible assumption
    | (with_reducible intro _)
    | with_reducible apply keeps_setMember
    | with_reducible apply keeps_publish
    | with_reducible apply keeps_startRound
    | with_reducible apply keeps_ite
    | with_reducible apply keeps_next
    | with_reducible apply keeps_fault
    | with_reducible apply keeps_outIte
    | with_reducible apply keeps_some
    | with_reducible exact keeps_none
    | simp only [↓Keeps.upd_iff]
    | (refine keeps_of_some ?_ (by assumption))
    | (refine keeps_of_snd ?_ (by assumption))
    | (refine keeps_of_fst ?_ (by assumption))
    | split
    | dsimp only)

@[simp ↓] theorem keeps_domainLeft {s0 s : State} (h : Keeps s0 s) (d : Nat) : Keeps s0 (domainLeft s d) := by
  unfold domainLeft
  try dsimp only
  repeat' (first
    | with_reducible assumption
    | (with_reducible intro _)
    | with_reducible apply keeps_originatorsLeft
    | with_reducible apply keeps_publish
    | with_reducible apply keeps_passLeft
    | with_reducible apply keeps_some
    | with_reducible exact keeps_none
    | simp only [↓Keeps.upd_iff])

@[simp ↓] theorem keeps_execHeartbeatInterval {s0 s : State} (h : Keeps s0 s) : OutKeeps s0 (execHeartbeatInterval s) := by
  unfold execHeartbeatInterval
  try dsimp only
  repeat' (first
    | with_reducible assumption
    | (with_reducible intro _)
    | with_reducible apply keeps_declareLeft
    | with_reducible apply keeps_domainLeft
    | with_reducible apply keeps_sendControl
    | with_reducible apply keeps_ite
    | with_reducible apply keeps_foldl
    | with_reducible apply keeps_next
    | with_reducible apply keeps_fault
    | with_reducible apply keeps_outIte
    | simp only [↓Keeps.upd_iff]
    | (refine keeps_of_some ?_ (by assumption))
    | (refine keeps_of_snd ?_ (by assumption))
    | (refine keeps_of_fst ?_ (by assumption))
    | split
    | dsimp only)

@[simp ↓] theorem keeps_execHeartbeatReply {s0 s : State} (h : Keeps s0 s) (serial : BitVec 64) : OutKeeps s0 (execHeartbeatReply serial s) := by
  unfold execHeartbeatReply
  try dsimp only
  repeat' (first
    | with_reducible assumption
    | (with_reducible intro _)
    | with_reducible apply keeps_setMember
    | with_reducible apply keeps_ite
    | with_reducible apply keeps_next
    | with_reducible apply keeps_fault
    | with_reducible apply keeps_outIte
    | simp only [↓Keeps.upd_iff]
    | (refine keeps_of_some ?_ (by assumption))
    | (refine keeps_of_snd ?_ (by assumption))
    | (refine keeps_of_fst ?_ (by assumption))
    | split
    | dsimp only)

@[simp ↓] theorem keeps_execLeft {s0 s : State} (h : Keeps s0 s) (m : LeftMsg) : OutKeeps s0 (execLeft m s) := by
  unfold execLeft
  try dsimp only
  repeat' (first
    | with_reducible assumption
    | (with_reducible intro _)
    | with_reducible apply keeps_next
    | with_reducible apply keeps_withCause
    | with_reducible apply keeps_setRegBit
    | with_reducible apply keeps_originatorsLeft
    | with_reducible apply keeps_passLeft
    | with_reducible apply keeps_some
    | with_reducible apply keeps_ackLeft
    | with_reducible apply keeps_dropIdentity
    | with_reducible apply keeps_ite
    | with_reducible apply keeps_getD
    | with_reducible apply keeps_iteSnd
    | with_reducible apply keeps_iteFst
    | with_reducible apply keeps_outIte
    | with_reducible apply keeps_issueIte
    | with_reducible apply keeps_foldl
    | with_reducible apply keeps_some
    | with_reducible exact keeps_none
    | with_reducible apply keeps_next
    | with_reducible apply keeps_fault
    | simp only [↓Keeps.upd_iff]
    | with_reducible apply Keeps.updFresh
    | (refine keeps_of_some ?_ (by assumption))
    | (refine keeps_of_snd ?_ (by assumption))
    | (refine keeps_of_fst ?_ (by assumption))
    | split
    | dsimp only)

@[simp ↓] theorem keeps_leftAnswered {s0 s : State} (h : Keeps s0 s) (member pseq : BitVec 16) : Keeps s0 (leftAnswered s member pseq) := by
  unfold leftAnswered
  try dsimp only
  repeat' (first | with_reducible assumption | (simp +contextual [h]; done) | split)

@[simp ↓] theorem keeps_execLeftTimeout {s0 s : State} (h : Keeps s0 s) (member : BitVec 16) (pseq : BitVec 16) : OutKeeps s0 (execLeftTimeout member pseq s) := by
  unfold execLeftTimeout
  try dsimp only
  repeat' (first
    | with_reducible assumption
    | (with_reducible intro _)
    | with_reducible apply keeps_sendControl
    | with_reducible apply keeps_finishGroups
    | with_reducible apply keeps_declareLeft
    | with_reducible apply keeps_ite
    | with_reducible apply keeps_next
    | with_reducible apply keeps_fault
    | with_reducible apply keeps_outIte
    | with_reducible apply keeps_some
    | with_reducible exact keeps_none
    | simp only [↓Keeps.upd_iff]
    | (refine keeps_of_some ?_ (by assumption))
    | (refine keeps_of_snd ?_ (by assumption))
    | (refine keeps_of_fst ?_ (by assumption))
    | split
    | dsimp only)

@[simp ↓] theorem keeps_execLeave {s0 s : State} (h : Keeps s0 s) (devId : BitVec 16) : OutKeeps s0 (execLeave devId s) := by
  unfold execLeave
  try dsimp only
  repeat' (first | with_reducible assumption | (simp +contextual [h]; done) | split)

@[simp ↓] theorem keeps_sendDomainRoutes {s0 s : State} (h : Keeps s0 s) : Keeps s0 (sendDomainRoutes s) := by
  unfold sendDomainRoutes
  try dsimp only
  repeat' (first
    | with_reducible assumption
    | (with_reducible intro _)
    | with_reducible apply keeps_sendControl
    | with_reducible apply keeps_publish
    | with_reducible apply keeps_ite
    | with_reducible apply keeps_foldl
    | simp only [↓Keeps.upd_iff]
    | (refine keeps_of_some ?_ (by assumption))
    | (refine keeps_of_snd ?_ (by assumption))
    | (refine keeps_of_fst ?_ (by assumption))
    | split
    | dsimp only)

@[simp ↓] theorem keeps_execDomainInfo {s0 s : State} (h : Keeps s0 s) (serial : BitVec 64) (domain : BitVec 4) (links : List BorderLink) : OutKeeps s0 (execDomainInfo serial domain links s) := by
  unfold execDomainInfo
  try dsimp only
  repeat' (first
    | with_reducible assumption
    | (with_reducible intro _)
    | with_reducible apply keeps_showFederation
    | with_reducible apply keeps_sendDomainRoutes
    | with_reducible apply keeps_ite
    | with_reducible apply keeps_next
    | with_reducible apply keeps_fault
    | with_reducible apply keeps_outIte
    | simp only [↓Keeps.upd_iff]
    | split)

@[simp ↓] theorem keeps_execDomainRoute {s0 s : State} (h : Keeps s0 s) (links : List (BitVec 4 × BorderLink)) : OutKeeps s0 (execDomainRoute links s) := by
  unfold execDomainRoute
  try dsimp only
  repeat' (first
    | with_reducible assumption
    | (with_reducible intro _)
    | with_reducible apply keeps_publish
    | with_reducible apply keeps_ite
    | with_reducible apply keeps_foldl
    | with_reducible apply keeps_next
    | with_reducible apply keeps_fault
    | with_reducible apply keeps_outIte
    | simp only [↓Keeps.upd_iff]
    | split
    | dsimp only)

@[simp ↓] theorem keeps_execHello {s0 s : State} (h : Keeps s0 s) (q : Fin 16) (m : HelloMsg) : OutKeeps s0 (execHello q m s) := by
  unfold execHello
  try dsimp only
  repeat' (first
    | with_reducible assumption
    | (with_reducible intro _)
    | with_reducible apply keeps_setFport
    | with_reducible apply keeps_resettlePort
    | with_reducible apply keeps_setRegWord
    | with_reducible apply keeps_startRound
    | with_reducible apply keeps_ite
    | with_reducible apply keeps_next
    | with_reducible apply keeps_fault
    | with_reducible apply keeps_outIte
    | with_reducible apply keeps_some
    | with_reducible exact keeps_none
    | simp only [↓Keeps.upd_iff]
    | (refine keeps_of_some ?_ (by assumption))
    | (refine keeps_of_snd ?_ (by assumption))
    | (refine keeps_of_fst ?_ (by assumption))
    | split
    | dsimp only)

@[simp ↓] theorem keeps_writeFabCmd {s0 s : State} (h : Keeps s0 s) (v : Word) : Keeps s0 (writeFabCmd s v) := by
  unfold writeFabCmd
  try dsimp only
  repeat' (first | with_reducible assumption | (simp +contextual [h]; done) | split)

@[simp ↓] theorem keeps_execFabCmdLeave {s0 s : State} (h : Keeps s0 s) (v : Word) : OutKeeps s0 (execFabCmdLeave v s) := by
  unfold execFabCmdLeave
  try dsimp only
  repeat' (first
    | with_reducible assumption
    | (with_reducible intro _)
    | with_reducible apply keeps_whenLive
    | with_reducible apply keeps_writeFabCmd
    | with_reducible apply keeps_next
    | with_reducible apply keeps_fault
    | with_reducible apply keeps_outIte
    | dsimp only)

@[simp ↓] theorem keeps_execRediscover {s0 s : State} (h : Keeps s0 s) (v : Word) : OutKeeps s0 (execRediscover v s) := by
  unfold execRediscover
  try dsimp only
  repeat' (first
    | with_reducible assumption
    | (with_reducible intro _)
    | with_reducible apply keeps_whenLive
    | with_reducible apply keeps_writeFabCmd
    | with_reducible apply keeps_next
    | with_reducible apply keeps_fault
    | with_reducible apply keeps_outIte
    | dsimp only)

@[simp ↓] theorem keeps_setRegionState {s0 s : State} (h : Keeps s0 s) (p st : Nat) : Keeps s0 (setRegionState s p st) := by
  unfold setRegionState
  try dsimp only
  repeat' (first | with_reducible assumption | (simp +contextual [h]; done) | split)

@[simp ↓] theorem keeps_numberRegion {s0 s : State} (h : Keeps s0 s) (p : Nat) (r : Option Nat) : Keeps s0 (numberRegion s p r) := by
  unfold numberRegion
  try dsimp only
  repeat' (first
    | with_reducible assumption
    | (with_reducible intro _)
    | with_reducible apply keeps_setRegFld
    | with_reducible apply keeps_foldl
    | with_reducible apply keeps_some
    | with_reducible exact keeps_none
    | simp only [↓Keeps.upd_iff]
    | (refine keeps_of_some ?_ (by assumption))
    | (refine keeps_of_snd ?_ (by assumption))
    | (refine keeps_of_fst ?_ (by assumption))
    | split
    | dsimp only)

@[simp ↓] theorem keeps_countSpares {s0 s : State} (h : Keeps s0 s) : Keeps s0 (countSpares s) := by
  unfold countSpares
  try dsimp only
  repeat' (first | with_reducible assumption | (simp +contextual [h]; done) | split)

@[simp ↓] theorem keeps_clearBank {s0 s : State} (h : Keeps s0 s) (r : Nat) : Keeps s0 (clearBank s r) := by
  unfold clearBank
  try dsimp only
  repeat' (first | with_reducible assumption | (simp +contextual [h]; done) | split)

@[simp ↓] theorem keeps_clearDebug {s0 s : State} (h : Keeps s0 s) (e : Nat) : Keeps s0 (clearDebug s e) := by
  unfold clearDebug
  try dsimp only
  repeat' (first | with_reducible assumption | (simp +contextual [h]; done) | split)

@[simp ↓] theorem keeps_clearRegion {s0 s : State} (h : Keeps s0 s) (p : Nat) (fenced : Bool) : Keeps s0 (clearRegion s p fenced) := by
  unfold clearRegion
  try dsimp only
  repeat' (first
    | with_reducible assumption
    | (with_reducible intro _)
    | with_reducible apply keeps_foldl
    | with_reducible apply keeps_setArr
    | with_reducible apply keeps_setEng
    | with_reducible apply keeps_clearDebug
    | with_reducible apply keeps_setRegWord
    | with_reducible apply keeps_ite
    | with_reducible apply keeps_getD
    | with_reducible apply keeps_iteSnd
    | with_reducible apply keeps_iteFst
    | with_reducible apply keeps_outIte
    | with_reducible apply keeps_issueIte
    | with_reducible apply keeps_foldl
    | with_reducible apply keeps_some
    | with_reducible exact keeps_none
    | with_reducible apply keeps_next
    | with_reducible apply keeps_fault
    | simp only [↓Keeps.upd_iff]
    | with_reducible apply Keeps.updFresh
    | (refine keeps_of_some ?_ (by assumption))
    | (refine keeps_of_snd ?_ (by assumption))
    | (refine keeps_of_fst ?_ (by assumption))
    | split
    | dsimp only)

@[simp ↓] theorem keeps_dropStarts {s0 s : State} (h : Keeps s0 s) (p : Nat) : Keeps s0 (dropStarts s p) := by
  unfold dropStarts
  try dsimp only
  repeat' (first | with_reducible assumption | (simp +contextual [h]; done) | split)

@[simp ↓] theorem keeps_dropStaging {s0 s : State} (h : Keeps s0 s) (p : Nat) : Keeps s0 (dropStaging s p) := by
  unfold dropStaging
  try dsimp only
  repeat' (first | with_reducible assumption | (simp +contextual [h]; done) | split)

@[simp ↓] theorem keeps_bringSpare {s0 s : State} (h : Keeps s0 s) (r : Nat) : Keeps s0 (bringSpare s r) := by
  unfold bringSpare
  try dsimp only
  repeat' (first
    | with_reducible assumption
    | (with_reducible intro _)
    | with_reducible apply keeps_setRegWord
    | with_reducible apply keeps_raiseErr
    | with_reducible apply keeps_countSpares
    | with_reducible apply keeps_ite
    | with_reducible apply keeps_some
    | with_reducible exact keeps_none
    | simp only [↓Keeps.upd_iff]
    | (refine keeps_of_some ?_ (by assumption))
    | (refine keeps_of_snd ?_ (by assumption))
    | (refine keeps_of_fst ?_ (by assumption))
    | split
    | dsimp only)

@[simp ↓] theorem keeps_countRegions {s0 s : State} (h : Keeps s0 s) : Keeps s0 (countRegions s) := by
  unfold countRegions
  try dsimp only
  repeat' (first
    | with_reducible assumption
    | (with_reducible intro _)
    | with_reducible apply keeps_setRegFld
    | with_reducible apply keeps_some
    | with_reducible exact keeps_none
    | simp only [↓Keeps.upd_iff]
    | (refine keeps_of_some ?_ (by assumption))
    | (refine keeps_of_snd ?_ (by assumption))
    | (refine keeps_of_fst ?_ (by assumption))
    | split
    | dsimp only)

@[simp ↓] theorem keeps_fenceRegion {s0 s : State} (h : Keeps s0 s) (p : Nat) : Keeps s0 (fenceRegion s p) := by
  unfold fenceRegion
  try dsimp only
  repeat' (first
    | with_reducible assumption
    | (with_reducible intro _)
    | with_reducible apply keeps_failItem
    | with_reducible apply keeps_dropStaging
    | with_reducible apply keeps_dropStarts
    | with_reducible apply keeps_clearRegion
    | with_reducible apply keeps_setRegionState
    | with_reducible apply keeps_setRegFld
    | with_reducible apply keeps_numberRegion
    | with_reducible apply keeps_markBad
    | with_reducible apply keeps_clearBank
    | with_reducible apply keeps_bringSpare
    | with_reducible apply keeps_noteRepair
    | with_reducible apply keeps_countSpares
    | with_reducible apply keeps_raisePwr
    | with_reducible apply keeps_countRegions
    | with_reducible apply keeps_ite
    | with_reducible apply keeps_foldl
    | with_reducible apply keeps_some
    | with_reducible exact keeps_none
    | simp only [↓Keeps.upd_iff]
    | (refine keeps_of_some ?_ (by assumption))
    | (refine keeps_of_snd ?_ (by assumption))
    | (refine keeps_of_fst ?_ (by assumption))
    | split
    | dsimp only)

@[simp ↓] theorem keeps_failLogic {s0 s : State} (h : Keeps s0 s) (p k : Nat) : Keeps s0 (failLogic s p k) := by
  unfold failLogic
  try dsimp only
  repeat' (first
    | with_reducible assumption
    | (with_reducible intro _)
    | with_reducible apply keeps_setRegBit
    | with_reducible apply keeps_noteRepair
    | with_reducible apply keeps_raisePwr)

@[simp ↓] theorem keeps_settleLogic {s0 s : State} (h : Keeps s0 s) (p : Nat) : Keeps s0 (settleLogic s p) := by
  unfold settleLogic
  try dsimp only
  repeat' (first | with_reducible assumption | (simp +contextual [h]; done) | split)

@[simp ↓] theorem keeps_failMem {s0 s : State} (h : Keeps s0 s) (p k : Nat) : Keeps s0 (failMem s p k) := by
  unfold failMem
  try dsimp only
  repeat' (first
    | with_reducible assumption
    | (with_reducible intro _)
    | with_reducible apply keeps_raisePwr
    | with_reducible apply keeps_setRegBit
    | with_reducible apply keeps_fenceRegion
    | with_reducible apply keeps_ite
    | split)

@[simp ↓] theorem keeps_oneLogic {s0 s : State} (h : Keeps s0 s) (p k : Nat) : Keeps s0 (oneLogic s p k) := by
  unfold oneLogic
  try dsimp only
  repeat' (first | with_reducible assumption | (simp +contextual [h]; done) | split)

@[simp ↓] theorem keeps_oneMem {s0 s : State} (h : Keeps s0 s) (p k : Nat) : Keeps s0 (oneMem s p k) := by
  unfold oneMem
  try dsimp only
  repeat' (first | with_reducible assumption | (simp +contextual [h]; done) | split)

@[simp ↓] theorem keeps_selfTest {s0 s : State} (h : Keeps s0 s) (p : Nat) (logic : Byte) (mem : BitVec 4) : Keeps s0 (selfTest s p logic mem) := by
  unfold selfTest
  try dsimp only
  repeat' (first
    | with_reducible assumption
    | (with_reducible intro _)
    | with_reducible apply keeps_oneLogic
    | with_reducible apply keeps_oneMem
    | with_reducible apply keeps_ite
    | with_reducible apply keeps_foldl
    | split
    | dsimp only)

@[simp ↓] theorem keeps_narrowVc {s0 s : State} (h : Keeps s0 s) (ch : Nat) (write : Bool) (g : Nat) : Keeps s0 (narrowVc s ch write g) := by
  unfold narrowVc
  try dsimp only
  repeat' (first
    | with_reducible assumption
    | (with_reducible intro _)
    | with_reducible apply keeps_recomputeTints
    | with_reducible apply keeps_setRegFld
    | with_reducible apply keeps_fenceRegion
    | with_reducible apply keeps_ite
    | split)

@[simp ↓] theorem keeps_useSpare {s0 s : State} (h : Keeps s0 s) (ch : Nat) (write : Bool) (g used : Nat) (spare : Bool) : Keeps s0 (useSpare s ch write g used spare) := by
  unfold useSpare
  try dsimp only
  repeat' (first
    | with_reducible assumption
    | (with_reducible intro _)
    | with_reducible apply keeps_setRegFld
    | with_reducible apply keeps_raiseErr
    | with_reducible apply keeps_ite
    | simp only [↓Keeps.upd_iff]
    | split)

@[simp ↓] theorem keeps_declareWire {s0 s : State} (h : Keeps s0 s) (ch : Nat) (write : Bool) (wire : Nat) : Keeps s0 (declareWire s ch write wire) := by
  unfold declareWire
  try dsimp only
  repeat' (first
    | with_reducible assumption
    | (with_reducible intro _)
    | with_reducible apply keeps_noteRepair
    | with_reducible apply keeps_raiseErr
    | with_reducible apply keeps_useSpare
    | with_reducible apply keeps_narrowVc
    | with_reducible apply keeps_ite
    | simp only [↓Keeps.upd_iff]
    | split)

@[simp ↓] theorem keeps_strikeGroup {s0 s : State} (h : Keeps s0 s) (ch : Nat) (write : Bool) (wires : List Nat) (g : Nat) : Keeps s0 (strikeGroup s ch write wires g) := by
  unfold strikeGroup
  try dsimp only
  repeat' (first | with_reducible assumption | (simp +contextual [h]; done) | split)

@[simp ↓] theorem keeps_resendWord {s0 s : State} (h : Keeps s0 s) (ch : Nat) (write : Bool) (wires : List Nat) : Keeps s0 (resendWord s ch write wires) := by
  unfold resendWord
  try dsimp only
  repeat' (first
    | with_reducible assumption
    | (with_reducible intro _)
    | with_reducible apply keeps_settleStrikes
    | with_reducible apply keeps_addBucket
    | with_reducible apply keeps_strikeGroup
    | with_reducible apply keeps_ite
    | with_reducible apply keeps_foldl
    | split
    | dsimp only)

@[simp ↓] theorem keeps_execVcWordResend {s0 s : State} (h : Keeps s0 s) (ch : Fin 114) (write : Bool) (wires : List Nat) : OutKeeps s0 (execVcWordResend ch write wires s) := by
  unfold execVcWordResend
  try dsimp only
  repeat' (first | with_reducible assumption | (simp +contextual [h]; done) | split)

@[simp ↓] theorem keeps_numberSlices {s0 s : State} (h : Keeps s0 s) (on : List Nat) : Keeps s0 (numberSlices s on) := by
  unfold numberSlices
  try dsimp only
  repeat' (first
    | with_reducible assumption
    | (with_reducible intro _)
    | with_reducible apply keeps_setRegFld
    | with_reducible apply keeps_foldl
    | dsimp only)

@[simp ↓] theorem keeps_failAll {s0 s : State} (h : Keeps s0 s) (code detail : Nat) : Keeps s0 (failAll s code detail) := by
  unfold failAll
  try dsimp only
  repeat' (first | with_reducible assumption | (simp +contextual [h]; done) | split)

@[simp ↓] theorem keeps_zeroHold {s0 s : State} (h : Keeps s0 s) : Keeps s0 (zeroHold s) := by
  unfold zeroHold
  try dsimp only
  repeat' (first | with_reducible assumption | (simp +contextual [h]; done) | split)

@[simp ↓] theorem keeps_showAllMisses {s0 s : State} (h : Keeps s0 s) : Keeps s0 (showAllMisses s) := by
  unfold showAllMisses
  try dsimp only
  repeat' (first | with_reducible assumption | (simp +contextual [h]; done) | split)

@[simp ↓] theorem keeps_retireSlice {s0 s : State} (h : Keeps s0 s) (i : Nat) (lost : Bool) (cause : Nat) : Keeps s0 (retireSlice s i lost cause) := by
  unfold retireSlice
  try dsimp only
  repeat' (first
    | with_reducible assumption
    | (with_reducible intro _)
    | with_reducible apply keeps_failAll
    | with_reducible apply keeps_writeBack
    | with_reducible apply keeps_numberSlices
    | with_reducible apply keeps_setRegFld
    | with_reducible apply keeps_showAllMisses
    | with_reducible apply keeps_clrRegBit
    | with_reducible apply keeps_applyHold
    | with_reducible apply keeps_zeroHold
    | with_reducible apply keeps_setRegBit
    | with_reducible apply keeps_recomputeTints
    | with_reducible apply keeps_noteRepair
    | with_reducible apply keeps_ite
    | with_reducible apply keeps_foldl
    | with_reducible apply keeps_some
    | with_reducible exact keeps_none
    | simp only [↓Keeps.upd_iff]
    | (refine keeps_of_some ?_ (by assumption))
    | (refine keeps_of_snd ?_ (by assumption))
    | (refine keeps_of_fst ?_ (by assumption))
    | split
    | dsimp only)

@[simp ↓] theorem keeps_execSliceRetirement {s0 s : State} (h : Keeps s0 s) (sl : Fin 64) (readLost : Bool) : OutKeeps s0 (execSliceRetirement sl readLost s) := by
  unfold execSliceRetirement
  try dsimp only
  repeat' (first | with_reducible assumption | (simp +contextual [h]; done) | split)

@[simp ↓] theorem keeps_execRecalibration {s0 s : State} (h : Keeps s0 s) (c : Fin 12) (retries : Nat) (temp : Int) : OutKeeps s0 (execRecalibration c retries temp s) := by
  unfold execRecalibration
  try dsimp only
  repeat' (first
    | with_reducible assumption
    | (with_reducible intro _)
    | with_reducible apply keeps_setRegFld
    | with_reducible apply keeps_ite
    | with_reducible apply keeps_next
    | with_reducible apply keeps_fault
    | with_reducible apply keeps_outIte
    | with_reducible apply keeps_some
    | with_reducible exact keeps_none
    | simp only [↓Keeps.upd_iff]
    | (refine keeps_of_some ?_ (by assumption))
    | (refine keeps_of_snd ?_ (by assumption))
    | (refine keeps_of_fst ?_ (by assumption))
    | split
    | dsimp only)

@[simp ↓] theorem keeps_failController {s0 s : State} (h : Keeps s0 s) (c : Nat) : Keeps s0 (failController s c) := by
  unfold failController
  try dsimp only
  repeat' (first | with_reducible assumption | (simp +contextual [h]; done) | split)

@[simp ↓] theorem keeps_numberControllers {s0 s : State} (h : Keeps s0 s) (on : List Nat) : Keeps s0 (numberControllers s on) := by
  unfold numberControllers
  try dsimp only
  repeat' (first
    | with_reducible assumption
    | (with_reducible intro _)
    | with_reducible apply keeps_setRegFld
    | with_reducible apply keeps_foldl
    | dsimp only)

@[simp ↓] theorem keeps_clearNear {s0 s : State} (h : Keeps s0 s) : Keeps s0 (clearNear s) := by
  unfold clearNear
  try dsimp only
  repeat' (first | with_reducible assumption | (simp +contextual [h]; done) | split)

@[simp ↓] theorem keeps_rebuildPort {s0 s : State} (h : Keeps s0 s) (p : Nat) : Keeps s0 (rebuildPort s p) := by
  unfold rebuildPort
  try dsimp only
  repeat' (first | with_reducible assumption | (simp +contextual [h]; done) | split)

@[simp ↓] theorem keeps_retireController {s0 s : State} (h : Keeps s0 s) (c : Nat) : Keeps s0 (retireController s c) := by
  unfold retireController
  try dsimp only
  repeat' (first
    | with_reducible assumption
    | (with_reducible intro _)
    | with_reducible apply keeps_failAll
    | with_reducible apply keeps_setRegFld
    | with_reducible apply keeps_setRegBit
    | with_reducible apply keeps_clearNear
    | with_reducible apply keeps_numberControllers
    | with_reducible apply keeps_rebuildPort
    | with_reducible apply keeps_recomputeTints
    | with_reducible apply keeps_noteRepair
    | with_reducible apply keeps_deviceFault
    | with_reducible apply keeps_ite
    | with_reducible apply keeps_foldl
    | simp only [↓Keeps.upd_iff]
    | (refine keeps_of_some ?_ (by assumption))
    | (refine keeps_of_snd ?_ (by assumption))
    | (refine keeps_of_fst ?_ (by assumption))
    | split
    | dsimp only)

@[simp ↓] theorem keeps_execControllerRetirement {s0 s : State} (h : Keeps s0 s) (c : Fin 12) : OutKeeps s0 (execControllerRetirement c s) := by
  unfold execControllerRetirement
  try dsimp only
  repeat' (first | with_reducible assumption | (simp +contextual [h]; done) | split)

@[simp ↓] theorem keeps_execCommit {s0 s : State} (h : Keeps s0 s) (p : Fin 12) (granule : BitVec 23) : OutKeeps s0 (execCommit p granule s) := by
  unfold execCommit
  try dsimp only
  repeat' (first
    | with_reducible assumption
    | (with_reducible intro _)
    | with_reducible apply keeps_levelWear
    | with_reducible apply keeps_startCommit
    | with_reducible apply keeps_ite
    | with_reducible apply keeps_next
    | with_reducible apply keeps_fault
    | with_reducible apply keeps_outIte
    | split)

@[simp ↓] theorem keeps_execCommitGranuleComplete {s0 s : State} (h : Keeps s0 s) (p : Fin 12) (granule : BitVec 23) (ok : Bool) : OutKeeps s0 (execCommitGranuleComplete p granule ok s) := by
  unfold execCommitGranuleComplete
  try dsimp only
  repeat' (first | with_reducible assumption | (simp +contextual [h]; done) | split)

@[simp ↓] theorem keeps_execJournalRecordComplete {s0 s : State} (h : Keeps s0 s) (p : Fin 12) (granule : BitVec 23) : OutKeeps s0 (execJournalRecordComplete p granule s) := by
  unfold execJournalRecordComplete
  try dsimp only
  repeat' (first | with_reducible assumption | (simp +contextual [h]; done) | split)

@[simp ↓] theorem keeps_execRefresh {s0 s : State} (h : Keeps s0 s) (p : Fin 12) (granule : BitVec 23) : OutKeeps s0 (execRefresh p granule s) := by
  unfold execRefresh
  try dsimp only
  repeat' (first
    | with_reducible assumption
    | (with_reducible intro _)
    | with_reducible apply keeps_next
    | with_reducible apply keeps_some
    | with_reducible apply keeps_startRefresh
    | with_reducible apply keeps_setFarPort
    | with_reducible apply keeps_none
    | with_reducible apply keeps_ite
    | with_reducible apply keeps_getD
    | with_reducible apply keeps_iteSnd
    | with_reducible apply keeps_iteFst
    | with_reducible apply keeps_outIte
    | with_reducible apply keeps_issueIte
    | with_reducible apply keeps_foldl
    | with_reducible apply keeps_some
    | with_reducible exact keeps_none
    | with_reducible apply keeps_next
    | with_reducible apply keeps_fault
    | simp only [↓Keeps.upd_iff]
    | with_reducible apply Keeps.updFresh
    | (refine keeps_of_some ?_ (by assumption))
    | (refine keeps_of_snd ?_ (by assumption))
    | (refine keeps_of_fst ?_ (by assumption))
    | split
    | dsimp only)

@[simp ↓] theorem keeps_execPoweredHour {s0 s : State} (h : Keeps s0 s) (p : Fin 12) : OutKeeps s0 (execPoweredHour p s) := by
  unfold execPoweredHour
  try dsimp only
  repeat' (first
    | with_reducible assumption
    | (with_reducible intro _)
    | with_reducible apply keeps_next
    | with_reducible apply keeps_setFarModule
    | with_reducible apply keeps_setFarPort
    | with_reducible apply keeps_levelWear
    | with_reducible apply keeps_chargeFme
    | with_reducible apply keeps_ite
    | with_reducible apply keeps_getD
    | with_reducible apply keeps_iteSnd
    | with_reducible apply keeps_iteFst
    | with_reducible apply keeps_outIte
    | with_reducible apply keeps_issueIte
    | with_reducible apply keeps_foldl
    | with_reducible apply keeps_some
    | with_reducible exact keeps_none
    | with_reducible apply keeps_next
    | with_reducible apply keeps_fault
    | simp only [↓Keeps.upd_iff]
    | with_reducible apply Keeps.updFresh
    | (refine keeps_of_some ?_ (by assumption))
    | (refine keeps_of_snd ?_ (by assumption))
    | (refine keeps_of_fst ?_ (by assumption))
    | split
    | dsimp only)

@[simp ↓] theorem keeps_execFm576Event {s0 s : State} (h : Keeps s0 s) (p : Fin 12) (granules : List (BitVec 23)) : OutKeeps s0 (execFm576Event p granules s) := by
  unfold execFm576Event
  try dsimp only
  repeat' (first
    | with_reducible assumption
    | (with_reducible intro _)
    | with_reducible apply keeps_next
    | with_reducible apply keeps_startRefresh
    | with_reducible apply keeps_ite
    | with_reducible apply keeps_getD
    | with_reducible apply keeps_iteSnd
    | with_reducible apply keeps_iteFst
    | with_reducible apply keeps_outIte
    | with_reducible apply keeps_issueIte
    | with_reducible apply keeps_foldl
    | with_reducible apply keeps_some
    | with_reducible exact keeps_none
    | with_reducible apply keeps_next
    | with_reducible apply keeps_fault
    | simp only [↓Keeps.upd_iff]
    | with_reducible apply Keeps.updFresh
    | (refine keeps_of_some ?_ (by assumption))
    | (refine keeps_of_snd ?_ (by assumption))
    | (refine keeps_of_fst ?_ (by assumption))
    | split
    | dsimp only)

@[simp ↓] theorem keeps_writePersist {s0 s : State} (h : Keeps s0 s) (v : Word) : Keeps s0 (writePersist s v) := by
  unfold writePersist
  try dsimp only
  repeat' (first | with_reducible assumption | (simp +contextual [h]; done) | split)

@[simp ↓] theorem keeps_execPersistReq {s0 s : State} (h : Keeps s0 s) (v : Word) : OutKeeps s0 (execPersistReq v s) := by
  unfold execPersistReq
  try dsimp only
  repeat' (first
    | with_reducible assumption
    | (with_reducible intro _)
    | with_reducible apply keeps_whenLive
    | with_reducible apply keeps_writePersist
    | with_reducible apply keeps_next
    | with_reducible apply keeps_fault
    | with_reducible apply keeps_outIte
    | dsimp only)

@[simp ↓] theorem keeps_execPersistComplete {s0 s : State} (h : Keeps s0 s) : OutKeeps s0 (execPersistComplete s) := by
  unfold execPersistComplete
  try dsimp only
  repeat' (first | with_reducible assumption | (simp +contextual [h]; done) | split)

@[simp ↓] theorem keeps_execFarPortLinkLoss {s0 s : State} (h : Keeps s0 s) (p : Fin 12) : OutKeeps s0 (execFarPortLinkLoss p s) := by
  unfold execFarPortLinkLoss
  try dsimp only
  repeat' (first | with_reducible assumption | (simp +contextual [h]; done) | split)

@[simp ↓] theorem keeps_execFarLinkReturn {s0 s : State} (h : Keeps s0 s) (p : Fin 12) (found : FarFound) : OutKeeps s0 (execFarLinkReturn p found s) := by
  unfold execFarLinkReturn
  try dsimp only
  repeat' (first | with_reducible assumption | (simp +contextual [h]; done) | split)

@[simp ↓] theorem keeps_formatPort {s0 s : State} (h : Keeps s0 s) (p : Nat) : Keeps s0 (formatPort s p) := by
  unfold formatPort
  try dsimp only
  repeat' (first
    | with_reducible assumption
    | (with_reducible intro _)
    | with_reducible apply keeps_dropFarLines
    | with_reducible apply keeps_setFarModule
    | with_reducible apply keeps_setFarPort
    | with_reducible apply keeps_setRegFld
    | with_reducible apply keeps_recomputeTint
    | with_reducible apply keeps_checkPool
    | with_reducible apply keeps_ite
    | simp only [↓Keeps.upd_iff]
    | (refine keeps_of_some ?_ (by assumption))
    | (refine keeps_of_snd ?_ (by assumption))
    | (refine keeps_of_fst ?_ (by assumption))
    | split
    | dsimp only)

@[simp ↓] theorem keeps_unmountPort {s0 s : State} (h : Keeps s0 s) (p : Nat) : Keeps s0 (unmountPort s p) := by
  unfold unmountPort
  try dsimp only
  repeat' (first
    | with_reducible assumption
    | (with_reducible intro _)
    | with_reducible apply keeps_checkpoint
    | with_reducible apply keeps_syncFar
    | with_reducible apply keeps_setRegFld
    | with_reducible apply keeps_dropFarLines
    | with_reducible apply keeps_recomputeTint
    | with_reducible apply keeps_setFarPort)

@[simp ↓] theorem keeps_writePortCmd {s0 s : State} (h : Keeps s0 s) (p : Nat) (v : Word) : Keeps s0 (writePortCmd s p v) := by
  unfold writePortCmd
  try dsimp only
  repeat' (first | with_reducible assumption | (simp +contextual [h]; done) | split)

@[simp ↓] theorem keeps_execFormat {s0 s : State} (h : Keeps s0 s) (p : Fin 12) (v : Word) : OutKeeps s0 (execFormat p v s) := by
  unfold execFormat
  try dsimp only
  repeat' (first
    | with_reducible assumption
    | (with_reducible intro _)
    | with_reducible apply keeps_whenLive
    | with_reducible apply keeps_writePortCmd
    | with_reducible apply keeps_next
    | with_reducible apply keeps_fault
    | with_reducible apply keeps_outIte
    | simp only [↓Keeps.upd_iff]
    | dsimp only)

@[simp ↓] theorem keeps_execUnmount {s0 s : State} (h : Keeps s0 s) (p : Fin 12) (v : Word) : OutKeeps s0 (execUnmount p v s) := by
  unfold execUnmount
  try dsimp only
  repeat' (first
    | with_reducible assumption
    | (with_reducible intro _)
    | with_reducible apply keeps_whenLive
    | with_reducible apply keeps_writePortCmd
    | with_reducible apply keeps_next
    | with_reducible apply keeps_fault
    | with_reducible apply keeps_outIte
    | simp only [↓Keeps.upd_iff]
    | dsimp only)

@[simp ↓] theorem keeps_execMount {s0 s : State} (h : Keeps s0 s) (p : Fin 12) (v : Word) : OutKeeps s0 (execMount p v s) := by
  unfold execMount
  try dsimp only
  repeat' (first
    | with_reducible assumption
    | (with_reducible intro _)
    | with_reducible apply keeps_whenLive
    | with_reducible apply keeps_writePortCmd
    | with_reducible apply keeps_next
    | with_reducible apply keeps_fault
    | with_reducible apply keeps_outIte
    | simp only [↓Keeps.upd_iff]
    | dsimp only)

end Sys2Proof.Machine
end

