-- ==== Sys2Proof/Laws/KeepsPart5.lean ====
section
/-! SUPPORT. What the operations and commands keep (KeepsBase), in the order of the model's files: EngineBase, Engines, Power, Items. -/

set_option linter.unusedTactic false
set_option linter.unreachableTactic false
set_option linter.unusedSimpArgs false
set_option linter.unusedVariables false

namespace Sys2Proof.Machine

@[simp ↓] theorem keeps_countEngine {s0 s : State} (h : Keeps s0 s) (e off k : Nat) : Keeps s0 (countEngine s e off k) := by
  unfold countEngine
  try dsimp only
  repeat' (first | with_reducible assumption | (simp +contextual [h]; done) | split)

@[simp ↓] theorem keeps_setBlock {s0 s : State} (h : Keeps s0 s) (e b : Nat) (x : Block) : Keeps s0 (setBlock s e b x) := by
  unfold setBlock
  try dsimp only
  repeat' (first | with_reducible assumption | (simp +contextual [h]; done) | split)

@[simp ↓] theorem keeps_modBlockGroups {s0 s : State} (h : Keeps s0 s) (e b : Nat) (f : Group → Group) : Keeps s0 (modBlockGroups s e b f) := by
  unfold modBlockGroups
  try dsimp only
  repeat' (first | with_reducible assumption | (simp +contextual [h]; done) | split)

@[simp ↓] theorem keeps_trapGroup {s0 s : State} (h : Keeps s0 s) (e sl lane code detail : Nat) (addr : Addr) : Keeps s0 (trapGroup s e sl lane code detail addr) := by
  unfold trapGroup
  try dsimp only
  repeat' (first
    | with_reducible assumption
    | (with_reducible intro _)
    | with_reducible apply keeps_none
    | with_reducible apply keeps_some
    | with_reducible apply keeps_setRegBit
    | with_reducible apply keeps_setEng
    | with_reducible apply keeps_modBlockGroups
    | with_reducible apply keeps_setBlock
    | with_reducible apply keeps_failItem
    | with_reducible apply keeps_ite
    | with_reducible apply keeps_getD
    | with_reducible apply keeps_iteSnd
    | with_reducible apply keeps_iteFst
    | with_reducible apply keeps_outIte
    | with_reducible apply keeps_issueIte
    | with_reducible apply keeps_foldl
    | with_reducible apply keeps_some
    | with_reducible exact keeps_none
    | with_reducible apply keeps_next
    | with_reducible apply keeps_fault
    | simp only [↓Keeps.upd_iff]
    | with_reducible apply Keeps.updFresh
    | (refine keeps_of_some ?_ (by assumption))
    | (refine keeps_of_snd ?_ (by assumption))
    | (refine keeps_of_fst ?_ (by assumption))
    | split
    | dsimp only)

@[simp ↓] theorem keeps_countIssue {s0 s : State} (h : Keeps s0 s) (e : Nat) (g : Group) (p : Subset) : Keeps s0 (countIssue s e g p) := by
  unfold countIssue
  try dsimp only
  repeat' (first
    | with_reducible assumption
    | (with_reducible intro _)
    | with_reducible apply keeps_countEngine
    | dsimp only)

@[simp ↓] theorem keeps_endStep {s0 s : State} (h : Keeps s0 s) (e : Nat) (stepping : Bool) : Keeps s0 (endStep s e stepping) := by
  unfold endStep
  try dsimp only
  repeat' (first | with_reducible assumption | (simp +contextual [h]; done) | split)

@[simp ↓] theorem keeps_finishIssue {s0 : State} {r : IssueRes} (h : IssueKeeps s0 r) (e sl : Nat) (g0 : Group) (p : Subset) :
    Keeps s0 (finishIssue e sl g0 p r) := by
  unfold finishIssue
  dsimp only
  have h1 := h.st
  repeat' (first
    | with_reducible assumption
    | with_reducible apply keeps_trapGroup
    | with_reducible apply h.post
    | with_reducible apply keeps_endStep
    | with_reducible apply keeps_setGrp
    | with_reducible apply keeps_countIssue
    | split)

@[simp ↓] theorem keeps_stayInIssue {s0 : State} {r : IssueRes} (h : IssueKeeps s0 r) (e sl : Nat) (g0 : Group) (p : Subset) (w : BitVec 64) :
    Keeps s0 (stayInIssue e sl g0 p w r) := by
  unfold stayInIssue
  dsimp only
  have h1 := h.st
  repeat' (first | with_reducible assumption | with_reducible apply keeps_setGrp | split)

@[simp ↓] theorem keeps_runWord {s0 s : State} (h : Keeps s0 s) (e sl : Nat) (g : Group) (p : Subset) (w : BitVec 64)
    (body : State → Group → List Nat → IssueRes) (hb : ∀ t g act, Keeps s0 t → IssueKeeps s0 (body t g act)) :
    Keeps s0 (runWord s e sl g p w body) := by
  unfold runWord
  have k := hb s g (effectLanes g p w) h
  generalize body s g (effectLanes g p w) = r at k
  dsimp only
  split
  · exact keeps_stayInIssue k ..
  · exact keeps_finishIssue (r := { r with faults := r.faults ++ regFaults g p }) ⟨k.st, k.post⟩ ..

@[simp ↓] theorem keeps_takeBreak {s0 s : State} (h : Keeps s0 s) (e sl : Nat) (p : Subset) : Keeps s0 (takeBreak s e sl p) := by
  unfold takeBreak
  try dsimp only
  repeat' (first
    | with_reducible assumption
    | (with_reducible intro _)
    | with_reducible apply keeps_trapGroup
    | with_reducible apply keeps_setRegBit
    | with_reducible apply keeps_some
    | with_reducible apply keeps_setGrp
    | with_reducible apply keeps_none
    | with_reducible apply keeps_ite
    | with_reducible apply keeps_getD
    | with_reducible apply keeps_iteSnd
    | with_reducible apply keeps_iteFst
    | with_reducible apply keeps_outIte
    | with_reducible apply keeps_issueIte
    | with_reducible apply keeps_foldl
    | with_reducible apply keeps_some
    | with_reducible exact keeps_none
    | with_reducible apply keeps_next
    | with_reducible apply keeps_fault
    | simp only [↓Keeps.upd_iff]
    | with_reducible apply Keeps.updFresh
    | (refine keeps_of_some ?_ (by assumption))
    | (refine keeps_of_snd ?_ (by assumption))
    | (refine keeps_of_fst ?_ (by assumption))
    | split
    | dsimp only)

@[simp ↓] theorem keeps_startIssue {s0 s : State} (h : Keeps s0 s) (e sl : Nat) (ok : Subset → Bool) (run : Group → Subset → State)
    (hr : ∀ g p, Keeps s0 (run g p)) : Keeps s0 (startIssue s e sl ok run) := by
  unfold startIssue
  repeat' (first | with_reducible assumption | exact hr _ _ | with_reducible apply keeps_takeBreak | split)

@[simp ↓] theorem keeps_issueWord {s0 s : State} (h : Keeps s0 s) (e sl : Nat) (w : BitVec 64) (body : State → Group → List Nat → IssueRes)
    (g : Group) (p : Subset) (hb : ∀ t g act, Keeps s0 t → IssueKeeps s0 (body t g act)) : Keeps s0 (issueWord s e sl w body g p) := by
  unfold issueWord
  dsimp only
  repeat' (first
    | with_reducible assumption
    | with_reducible apply keeps_finishIssue
    | with_reducible apply keeps_runWord
    | exact ⟨keeps_setEng h _ _, fun _ h => h⟩
    | with_reducible apply keeps_setEng
    | split)

@[simp ↓] theorem keeps_issue {s0 s : State} (h : Keeps s0 s) (e sl : Nat) (w : BitVec 64) (body : State → Group → List Nat → IssueRes)
    (hb : ∀ t g act, Keeps s0 t → IssueKeeps s0 (body t g act)) : Keeps s0 (issue s e sl w body) := by
  unfold issue
  repeat' (first
    | with_reducible assumption
    | with_reducible apply keeps_startIssue
    | with_reducible apply keeps_runWord
    | (with_reducible apply keeps_issueWord)
    | with_reducible intro _
    | split)

@[simp ↓] theorem keeps_settleBarrier {s0 s : State} (h : Keeps s0 s) (e sl : Nat) (block : Bool) (num : Fin 8) : Keeps s0 (settleBarrier s e sl block num) := by
  unfold settleBarrier
  try dsimp only
  repeat' (first | with_reducible assumption | (simp +contextual [h]; done) | split)

@[simp ↓] theorem keeps_settleAll {s0 s : State} (h : Keeps s0 s) (e sl : Nat) : Keeps s0 (settleAll s e sl) := by
  unfold settleAll
  try dsimp only
  repeat' (first
    | with_reducible assumption
    | (with_reducible intro _)
    | with_reducible apply keeps_settleBarrier
    | with_reducible apply keeps_foldl
    | dsimp only)

@[simp ↓] theorem keeps_freeGroup {s0 s : State} (h : Keeps s0 s) (e sl : Nat) : Keeps s0 (freeGroup s e sl) := by
  unfold freeGroup
  try dsimp only
  repeat' (first | with_reducible assumption | (simp +contextual [h]; done) | split)

@[simp ↓] theorem keeps_placeBlock {s0 s : State} (h : Keeps s0 s) (e : Nat) (r : LaunchRec) : Keeps s0 (placeBlock s e r) := by
  unfold placeBlock setEng
  dsimp only
  exact h.updFresh ..

@[simp ↓] theorem keeps_takeLaunch {s0 s : State} (h : Keeps s0 s) (e : Nat) (r : LaunchRec) :
    OptKeeps s0 (takeLaunch s e r).1 ∧ Keeps s0 (takeLaunch s e r).2 := by
  unfold takeLaunch
  repeat' (first
    | with_reducible assumption
    | with_reducible exact keeps_none
    | with_reducible apply And.intro
    | with_reducible apply keeps_some
    | with_reducible apply keeps_descFail
    | with_reducible apply keeps_placeBlock
    | with_reducible apply keeps_requestStart
    | (refine keeps_of_snd ?_ (by assumption))
    | split)

theorem keeps_takenSome {s0 s t t2 : State} {e : Nat} {r : LaunchRec} (h : Keeps s0 s) (ht : takeLaunch s e r = (some t, t2)) : Keeps s0 t :=
  (keeps_takeLaunch h e r).1 t (by rw [ht])

theorem keeps_takenNone {s0 s t2 : State} {o : Option State} {e : Nat} {r : LaunchRec} (h : Keeps s0 s) (ht : takeLaunch s e r = (o, t2)) :
    Keeps s0 t2 := by
  have k := (keeps_takeLaunch h e r).2
  rw [ht] at k
  exact k

@[simp ↓] theorem keeps_setLaunchQ {s0 s : State} (h : Keeps s0 s) (e : Nat) (q : List LaunchRec) : Keeps s0 (setLaunchQ s e q) := by
  unfold setLaunchQ
  try dsimp only
  repeat' (first | with_reducible assumption | (simp +contextual [h]; done) | split)

@[simp ↓] theorem keeps_takeHeld {s0 s : State} (h : Keeps s0 s) (e n : Nat) : Keeps s0 (takeHeld s e n) := by
  induction n generalizing s with
  | zero => exact h
  | succ n ih =>
    unfold takeHeld
    split
    · exact h
    · split
      · exact ih (keeps_takenSome (keeps_setLaunchQ h _ _) (by assumption))
      · exact keeps_setLaunchQ (keeps_takenNone (keeps_setLaunchQ h _ _) (by assumption)) _ _

@[simp ↓] theorem keeps_takeAllHeld {s0 s : State} (h : Keeps s0 s) : Keeps s0 (takeAllHeld s) := by
  unfold takeAllHeld
  try dsimp only
  repeat' (first
    | with_reducible assumption
    | (with_reducible intro _)
    | with_reducible apply keeps_takeHeld
    | with_reducible apply keeps_ite
    | with_reducible apply keeps_getD
    | with_reducible apply keeps_iteSnd
    | with_reducible apply keeps_iteFst
    | with_reducible apply keeps_outIte
    | with_reducible apply keeps_issueIte
    | with_reducible apply keeps_foldl
    | with_reducible apply keeps_some
    | with_reducible exact keeps_none
    | with_reducible apply keeps_next
    | with_reducible apply keeps_fault
    | simp only [↓Keeps.upd_iff]
    | with_reducible apply Keeps.updFresh
    | (refine keeps_of_some ?_ (by assumption))
    | (refine keeps_of_snd ?_ (by assumption))
    | (refine keeps_of_fst ?_ (by assumption))
    | split
    | dsimp only)

@[simp ↓] theorem keeps_dispatchLaunch {s0 s : State} (h : Keeps s0 s) (e : Nat) (rec : LaunchRec) : Keeps s0 (dispatchLaunch s e rec) := by
  unfold dispatchLaunch
  try dsimp only
  repeat' (first | with_reducible assumption | (simp +contextual [h]; done) | split)

@[simp ↓] theorem keeps_execLaunch {s0 s : State} (h : Keeps s0 s) (e : Fin 50) (rec : LaunchRec) : OutKeeps s0 (execLaunch e rec s) := by
  unfold execLaunch
  try dsimp only
  repeat' (first | with_reducible assumption | (simp +contextual [h]; done) | split)

@[simp ↓] theorem keeps_execGroupFreed {s0 s : State} (h : Keeps s0 s) (e : Fin 50) (sl : Fin 48) : OutKeeps s0 (execGroupFreed e sl s) := by
  unfold execGroupFreed
  try dsimp only
  repeat' (first
    | with_reducible assumption
    | (with_reducible intro _)
    | with_reducible apply keeps_next
    | with_reducible apply keeps_some
    | with_reducible apply keeps_takeHeld
    | with_reducible apply keeps_freeGroup
    | with_reducible apply keeps_none
    | with_reducible apply keeps_ite
    | with_reducible apply keeps_getD
    | with_reducible apply keeps_iteSnd
    | with_reducible apply keeps_iteFst
    | with_reducible apply keeps_outIte
    | with_reducible apply keeps_issueIte
    | with_reducible apply keeps_foldl
    | with_reducible apply keeps_some
    | with_reducible exact keeps_none
    | with_reducible apply keeps_next
    | with_reducible apply keeps_fault
    | simp only [↓Keeps.upd_iff]
    | with_reducible apply Keeps.updFresh
    | (refine keeps_of_some ?_ (by assumption))
    | (refine keeps_of_snd ?_ (by assumption))
    | (refine keeps_of_fst ?_ (by assumption))
    | split
    | dsimp only)

@[simp ↓] theorem keeps_execGroupPromotion {s0 s : State} (h : Keeps s0 s) (e : Fin 50) (sl : Fin 48) : OutKeeps s0 (execGroupPromotion e sl s) := by
  unfold execGroupPromotion
  try dsimp only
  repeat' (first | with_reducible assumption | (simp +contextual [h]; done) | split)

@[simp ↓] theorem keeps_execNapEnd {s0 s : State} (h : Keeps s0 s) (e : Fin 50) (sl : Fin 48) (lane : Fin 32) : OutKeeps s0 (execNapEnd e sl lane s) := by
  unfold execNapEnd
  try dsimp only
  repeat' (first | with_reducible assumption | (simp +contextual [h]; done) | split)

@[simp ↓] theorem keeps_execBarrierTimeout {s0 s : State} (h : Keeps s0 s) (e : Fin 50) (sl : Fin 48) (block : Bool) (bar : Fin 8) : OutKeeps s0 (execBarrierTimeout e sl block bar s) := by
  unfold execBarrierTimeout
  try dsimp only
  repeat' (first | with_reducible assumption | (simp +contextual [h]; done) | split)

@[simp ↓] theorem keeps_resumeGroup {s0 s : State} (h : Keeps s0 s) (e sl : Nat) : Keeps s0 (resumeGroup s e sl) := by
  unfold resumeGroup
  try dsimp only
  repeat' (first
    | with_reducible assumption
    | (with_reducible intro _)
    | with_reducible apply keeps_setGrp
    | with_reducible apply keeps_modBlockGroups
    | with_reducible apply keeps_setBlock
    | with_reducible apply keeps_failItem
    | with_reducible apply keeps_some
    | with_reducible exact keeps_none
    | simp only [↓Keeps.upd_iff]
    | (refine keeps_of_some ?_ (by assumption))
    | (refine keeps_of_snd ?_ (by assumption))
    | (refine keeps_of_fst ?_ (by assumption))
    | split
    | dsimp only)

@[simp ↓] theorem keeps_writeDbgCtrl {s0 s : State} (h : Keeps s0 s) (e : Nat) (v : Word) : Keeps s0 (writeDbgCtrl s e v) := by
  unfold writeDbgCtrl
  try dsimp only
  repeat' (first
    | with_reducible assumption
    | (with_reducible intro _)
    | with_reducible apply keeps_storeReg
    | with_reducible apply keeps_setGrp
    | with_reducible apply keeps_resumeGroup
    | with_reducible apply keeps_ite
    | with_reducible apply keeps_foldl
    | with_reducible apply keeps_some
    | with_reducible exact keeps_none
    | simp only [↓Keeps.upd_iff]
    | (refine keeps_of_some ?_ (by assumption))
    | (refine keeps_of_snd ?_ (by assumption))
    | (refine keeps_of_fst ?_ (by assumption))
    | split
    | dsimp only)

@[simp ↓] theorem keeps_execDbgHalt {s0 s : State} (h : Keeps s0 s) (e : Fin 50) (v : Word) : OutKeeps s0 (execDbgHalt e v s) := by
  unfold execDbgHalt
  try dsimp only
  repeat' (first
    | with_reducible assumption
    | (with_reducible intro _)
    | with_reducible apply keeps_whenLive
    | with_reducible apply keeps_writeDbgCtrl
    | with_reducible apply keeps_next
    | with_reducible apply keeps_fault
    | with_reducible apply keeps_outIte
    | dsimp only)

@[simp ↓] theorem keeps_execHaltComplete {s0 s : State} (h : Keeps s0 s) (e : Fin 50) (sl : Fin 48) : OutKeeps s0 (execHaltComplete e sl s) := by
  unfold execHaltComplete
  try dsimp only
  repeat' (first | with_reducible assumption | (simp +contextual [h]; done) | split)

@[simp ↓] theorem keeps_execDbgResume {s0 s : State} (h : Keeps s0 s) (e : Fin 50) (v : Word) : OutKeeps s0 (execDbgResume e v s) := by
  unfold execDbgResume
  try dsimp only
  repeat' (first
    | with_reducible assumption
    | (with_reducible intro _)
    | with_reducible apply keeps_whenLive
    | with_reducible apply keeps_writeDbgCtrl
    | with_reducible apply keeps_next
    | with_reducible apply keeps_fault
    | with_reducible apply keeps_outIte
    | dsimp only)

@[simp ↓] theorem keeps_execDbgStep {s0 s : State} (h : Keeps s0 s) (e : Fin 50) (v : Word) : OutKeeps s0 (execDbgStep e v s) := by
  unfold execDbgStep
  try dsimp only
  repeat' (first
    | with_reducible assumption
    | (with_reducible intro _)
    | with_reducible apply keeps_whenLive
    | with_reducible apply keeps_writeDbgCtrl
    | with_reducible apply keeps_next
    | with_reducible apply keeps_fault
    | with_reducible apply keeps_outIte
    | dsimp only)

@[simp ↓] theorem keeps_execHaltAll {s0 s : State} (h : Keeps s0 s) (e : Fin 50) (v : Word) : OutKeeps s0 (execHaltAll e v s) := by
  unfold execHaltAll
  try dsimp only
  repeat' (first
    | with_reducible assumption
    | (with_reducible intro _)
    | with_reducible apply keeps_whenLive
    | with_reducible apply keeps_writeDbgCtrl
    | with_reducible apply keeps_next
    | with_reducible apply keeps_fault
    | with_reducible apply keeps_outIte
    | dsimp only)

@[simp ↓] theorem keeps_execResumeAll {s0 s : State} (h : Keeps s0 s) (e : Fin 50) (v : Word) : OutKeeps s0 (execResumeAll e v s) := by
  unfold execResumeAll
  try dsimp only
  repeat' (first
    | with_reducible assumption
    | (with_reducible intro _)
    | with_reducible apply keeps_whenLive
    | with_reducible apply keeps_writeDbgCtrl
    | with_reducible apply keeps_next
    | with_reducible apply keeps_fault
    | with_reducible apply keeps_outIte
    | dsimp only)

@[simp ↓] theorem keeps_writeDbgData {s0 s : State} (h : Keeps s0 s) (e : Nat) (v : Word) : Keeps s0 (writeDbgData s e v) := by
  unfold writeDbgData
  try dsimp only
  repeat' (first | with_reducible assumption | (simp +contextual [h]; done) | split)

@[simp ↓] theorem keeps_execDbgDataWrite {s0 s : State} (h : Keeps s0 s) (e : Fin 50) (v : Word) : OutKeeps s0 (execDbgDataWrite e v s) := by
  unfold execDbgDataWrite
  try dsimp only
  repeat' (first
    | with_reducible assumption
    | (with_reducible intro _)
    | with_reducible apply keeps_whenLive
    | with_reducible apply keeps_writeDbgData
    | with_reducible apply keeps_next
    | with_reducible apply keeps_fault
    | with_reducible apply keeps_outIte
    | dsimp only)

@[simp ↓] theorem keeps_writeTeCtrl {s0 s : State} (h : Keeps s0 s) (e : Nat) (v : Word) : Keeps s0 (writeTeCtrl s e v) := by
  unfold writeTeCtrl
  try dsimp only
  repeat' (first | with_reducible assumption | (simp +contextual [h]; done) | split)

@[simp ↓] theorem keeps_execTeCntClear {s0 s : State} (h : Keeps s0 s) (e : Fin 50) (v : Word) : OutKeeps s0 (execTeCntClear e v s) := by
  unfold execTeCntClear
  try dsimp only
  repeat' (first
    | with_reducible assumption
    | (with_reducible intro _)
    | with_reducible apply keeps_whenLive
    | with_reducible apply keeps_writeTeCtrl
    | with_reducible apply keeps_next
    | with_reducible apply keeps_fault
    | with_reducible apply keeps_outIte
    | dsimp only)

@[simp ↓] theorem keeps_execPhaseFail {s0 s : State} (h : Keeps s0 s) (ph : Phase) : OutKeeps s0 (execPhaseFail ph s) := by
  unfold execPhaseFail
  try dsimp only
  repeat' (first
    | with_reducible assumption
    | (with_reducible intro _)
    | with_reducible apply keeps_oneLogic
    | with_reducible apply keeps_oneMem
    | with_reducible apply keeps_raisePwr
    | with_reducible apply keeps_ite
    | with_reducible apply keeps_next
    | with_reducible apply keeps_fault
    | with_reducible apply keeps_outIte
    | simp only [↓Keeps.upd_iff]
    | (refine keeps_of_some ?_ (by assumption))
    | (refine keeps_of_snd ?_ (by assumption))
    | (refine keeps_of_fst ?_ (by assumption))
    | split
    | dsimp only)

@[simp ↓] theorem keeps_execCurrentSample {s0 s : State} (h : Keeps s0 s) (p : Fin 50) (tenthAmps : Nat) : OutKeeps s0 (execCurrentSample p tenthAmps s) := by
  unfold execCurrentSample
  try dsimp only
  repeat' (first
    | with_reducible assumption
    | (with_reducible intro _)
    | with_reducible apply keeps_next
    | with_reducible apply keeps_movePause
    | with_reducible apply keeps_setRegFld
    | with_reducible apply keeps_ite
    | with_reducible apply keeps_getD
    | with_reducible apply keeps_iteSnd
    | with_reducible apply keeps_iteFst
    | with_reducible apply keeps_outIte
    | with_reducible apply keeps_issueIte
    | with_reducible apply keeps_foldl
    | with_reducible apply keeps_some
    | with_reducible exact keeps_none
    | with_reducible apply keeps_next
    | with_reducible apply keeps_fault
    | simp only [↓Keeps.upd_iff]
    | with_reducible apply Keeps.updFresh
    | (refine keeps_of_some ?_ (by assumption))
    | (refine keeps_of_snd ?_ (by assumption))
    | (refine keeps_of_fst ?_ (by assumption))
    | split
    | dsimp only)

@[simp ↓] theorem keeps_execStaging {s0 s : State} (h : Keeps s0 s) (p : Fin 50) (logicFails : Byte) (memFails : BitVec 4) (neighbourPeaks : Bool) : OutKeeps s0 (execStaging p logicFails memFails neighbourPeaks s) := by
  unfold execStaging
  try dsimp only
  repeat' (first
    | with_reducible assumption
    | (with_reducible intro _)
    | with_reducible apply keeps_setRegionState
    | with_reducible apply keeps_selfTest
    | with_reducible apply keeps_setRegFld
    | with_reducible apply keeps_ite
    | with_reducible apply keeps_next
    | with_reducible apply keeps_fault
    | with_reducible apply keeps_outIte
    | with_reducible apply keeps_some
    | with_reducible exact keeps_none
    | simp only [↓Keeps.upd_iff]
    | (refine keeps_of_some ?_ (by assumption))
    | (refine keeps_of_snd ?_ (by assumption))
    | (refine keeps_of_fst ?_ (by assumption))
    | split
    | dsimp only)

@[simp ↓] theorem keeps_tryMove {s0 s : State} (h : Keeps s0 s) : Keeps s0 (tryMove s) := by
  unfold tryMove
  try dsimp only
  repeat' (first | with_reducible assumption | (simp +contextual [h]; done) | split)

@[simp ↓] theorem keeps_regionOn {s0 s : State} (h : Keeps s0 s) (p : Nat) (l : Option Nat) : Keeps s0 (regionOn s p l) := by
  unfold regionOn
  try dsimp only
  repeat' (first
    | with_reducible assumption
    | (with_reducible intro _)
    | with_reducible apply keeps_setRegionState
    | with_reducible apply keeps_raisePwr
    | with_reducible apply keeps_clearRegion
    | with_reducible apply keeps_setCounter
    | with_reducible apply keeps_numberRegion
    | with_reducible apply keeps_ite
    | with_reducible apply keeps_foldl
    | with_reducible apply keeps_some
    | with_reducible exact keeps_none
    | simp only [↓Keeps.upd_iff]
    | (refine keeps_of_some ?_ (by assumption))
    | (refine keeps_of_snd ?_ (by assumption))
    | (refine keeps_of_fst ?_ (by assumption))
    | split
    | dsimp only)

@[simp ↓] theorem keeps_execStagingStep {s0 s : State} (h : Keeps s0 s) (p : Fin 50) : OutKeeps s0 (execStagingStep p s) := by
  unfold execStagingStep
  try dsimp only
  repeat' (first
    | with_reducible assumption
    | (with_reducible intro _)
    | with_reducible apply keeps_tryMove
    | with_reducible apply keeps_regionOn
    | with_reducible apply keeps_ite
    | with_reducible apply keeps_next
    | with_reducible apply keeps_fault
    | with_reducible apply keeps_outIte
    | with_reducible apply keeps_some
    | with_reducible exact keeps_none
    | simp only [↓Keeps.upd_iff]
    | (refine keeps_of_some ?_ (by assumption))
    | (refine keeps_of_snd ?_ (by assumption))
    | (refine keeps_of_fst ?_ (by assumption))
    | split
    | dsimp only)

@[simp ↓] theorem keeps_enableRegion {s0 s : State} (h : Keeps s0 s) (p r : Nat) : Keeps s0 (enableRegion s p r) := by
  unfold enableRegion
  try dsimp only
  repeat' (first
    | with_reducible assumption
    | (with_reducible intro _)
    | with_reducible apply keeps_countRegions
    | with_reducible apply keeps_clearBank
    | with_reducible apply keeps_setRegWord
    | with_reducible apply keeps_numberRegion
    | with_reducible apply keeps_some
    | with_reducible exact keeps_none)

@[simp ↓] theorem keeps_execBankZeroingComplete {s0 s : State} (h : Keeps s0 s) (r : Fin 48) : OutKeeps s0 (execBankZeroingComplete r s) := by
  unfold execBankZeroingComplete
  try dsimp only
  repeat' (first
    | with_reducible assumption
    | (with_reducible intro _)
    | with_reducible apply keeps_enableRegion
    | with_reducible apply keeps_ite
    | with_reducible apply keeps_next
    | with_reducible apply keeps_fault
    | with_reducible apply keeps_outIte
    | simp only [↓Keeps.upd_iff]
    | split)

@[simp ↓] theorem keeps_setRatingPause {s0 s : State} (h : Keeps s0 s) (n : Nat) : Keeps s0 (setRatingPause s n) := by
  unfold setRatingPause
  try dsimp only
  repeat' (first | with_reducible assumption | (simp +contextual [h]; done) | split)

@[simp ↓] theorem keeps_ratePause {s0 s : State} (h : Keeps s0 s) : Keeps s0 (ratePause s) := by
  unfold ratePause
  try dsimp only
  repeat' (first | with_reducible assumption | (simp +contextual [h]; done) | split)

@[simp ↓] theorem keeps_giveDuty {s0 s : State} (h : Keeps s0 s) (n duty : Nat) : Keeps s0 (giveDuty s n duty) := by
  unfold giveDuty
  try dsimp only
  repeat' (first | with_reducible assumption | (simp +contextual [h]; done) | split)

@[simp ↓] theorem keeps_spreadFloor {s0 s : State} (h : Keeps s0 s) (n : Nat) (l : List Nat) : Keeps s0 (spreadFloor s n l).1 := by
  induction l generalizing s n with
  | nil => exact h
  | cons w t ih =>
    unfold spreadFloor
    dsimp only
    split <;> exact ih (keeps_giveDuty h _ _) _

@[simp ↓] theorem keeps_clearFloor {s0 s : State} (h : Keeps s0 s) : Keeps s0 (clearFloor s) := by
  unfold clearFloor
  try dsimp only
  repeat' (first | with_reducible assumption | (simp +contextual [h]; done) | split)

@[simp ↓] theorem keeps_floorTick {s0 s : State} (h : Keeps s0 s) : Keeps s0 (floorTick s) := by
  unfold floorTick
  try dsimp only
  repeat' (first
    | with_reducible assumption
    | (with_reducible intro _)
    | with_reducible apply keeps_clearFloor
    | with_reducible apply keeps_spreadFloor
    | with_reducible apply keeps_addCounter
    | with_reducible apply keeps_raisePwr
    | with_reducible apply keeps_ite
    | with_reducible apply keeps_some
    | with_reducible exact keeps_none
    | simp only [↓Keeps.upd_iff]
    | (refine keeps_of_some ?_ (by assumption))
    | (refine keeps_of_snd ?_ (by assumption))
    | (refine keeps_of_fst ?_ (by assumption))
    | split
    | dsimp only)

@[simp ↓] theorem keeps_countHeld {s0 s : State} (h : Keeps s0 s) (ticks : Nat) : Keeps s0 (countHeld s ticks) := by
  unfold countHeld
  try dsimp only
  repeat' (first | with_reducible assumption | (simp +contextual [h]; done) | split)

@[simp ↓] theorem keeps_countTick {s0 s : State} (h : Keeps s0 s) : Keeps s0 (countTick s) := by
  unfold countTick
  try dsimp only
  repeat' (first | with_reducible assumption | (simp +contextual [h]; done) | split)

@[simp ↓] theorem keeps_governorTick {s0 s : State} (h : Keeps s0 s) (volt1 volt2 watts : Nat) : Keeps s0 (governorTick s volt1 volt2 watts) := by
  unfold governorTick
  try dsimp only
  repeat' (first
    | with_reducible assumption
    | (with_reducible intro _)
    | with_reducible apply keeps_countTick
    | with_reducible apply keeps_freeBool
    | with_reducible apply keeps_setRegFld
    | with_reducible apply keeps_takeAllHeld
    | with_reducible apply keeps_admitHeld
    | with_reducible apply keeps_floorTick
    | with_reducible apply keeps_ratePause
    | with_reducible apply keeps_ite
    | with_reducible apply keeps_getD
    | with_reducible apply keeps_iteSnd
    | with_reducible apply keeps_iteFst
    | with_reducible apply keeps_outIte
    | with_reducible apply keeps_issueIte
    | with_reducible apply keeps_foldl
    | with_reducible apply keeps_some
    | with_reducible exact keeps_none
    | with_reducible apply keeps_next
    | with_reducible apply keeps_fault
    | simp only [↓Keeps.upd_iff]
    | with_reducible apply Keeps.updFresh
    | (refine keeps_of_some ?_ (by assumption))
    | (refine keeps_of_snd ?_ (by assumption))
    | (refine keeps_of_fst ?_ (by assumption))
    | split
    | dsimp only)

@[simp ↓] theorem keeps_execGovernorTick {s0 s : State} (h : Keeps s0 s) (volt1 volt2 watts : Nat) : OutKeeps s0 (execGovernorTick volt1 volt2 watts s) := by
  unfold execGovernorTick
  try dsimp only
  repeat' (first
    | with_reducible assumption
    | (with_reducible intro _)
    | with_reducible apply keeps_deviceFault
    | with_reducible apply keeps_logEvent
    | with_reducible apply keeps_governorTick
    | with_reducible apply keeps_ite
    | with_reducible apply keeps_next
    | with_reducible apply keeps_fault
    | with_reducible apply keeps_outIte
    | simp only [↓Keeps.upd_iff]
    | split)

@[simp ↓] theorem keeps_execRampPhaseEnd {s0 s : State} (h : Keeps s0 s) : OutKeeps s0 (execRampPhaseEnd s) := by
  unfold execRampPhaseEnd
  try dsimp only
  repeat' (first
    | with_reducible assumption
    | (with_reducible intro _)
    | with_reducible apply keeps_next
    | with_reducible apply keeps_countHeld
    | with_reducible apply keeps_takeAllHeld
    | with_reducible apply keeps_admitHeld
    | with_reducible apply keeps_ite
    | with_reducible apply keeps_getD
    | with_reducible apply keeps_iteSnd
    | with_reducible apply keeps_iteFst
    | with_reducible apply keeps_outIte
    | with_reducible apply keeps_issueIte
    | with_reducible apply keeps_foldl
    | with_reducible apply keeps_some
    | with_reducible exact keeps_none
    | with_reducible apply keeps_next
    | with_reducible apply keeps_fault
    | simp only [↓Keeps.upd_iff]
    | with_reducible apply Keeps.updFresh
    | (refine keeps_of_some ?_ (by assumption))
    | (refine keeps_of_snd ?_ (by assumption))
    | (refine keeps_of_fst ?_ (by assumption))
    | split
    | dsimp only)

@[simp ↓] theorem keeps_writePwrCtrl {s0 s : State} (h : Keeps s0 s) (v : Word) : Keeps s0 (writePwrCtrl s v) := by
  unfold writePwrCtrl
  try dsimp only
  repeat' (first | with_reducible assumption | (simp +contextual [h]; done) | split)

@[simp ↓] theorem keeps_execEffWrite {s0 s : State} (h : Keeps s0 s) (v : Word) : OutKeeps s0 (execEffWrite v s) := by
  unfold execEffWrite
  try dsimp only
  repeat' (first
    | with_reducible assumption
    | (with_reducible intro _)
    | with_reducible apply keeps_whenLive
    | with_reducible apply keeps_writePwrCtrl
    | with_reducible apply keeps_next
    | with_reducible apply keeps_fault
    | with_reducible apply keeps_outIte
    | dsimp only)

@[simp ↓] theorem keeps_execModeMoveComplete {s0 s : State} (h : Keeps s0 s) : OutKeeps s0 (execModeMoveComplete s) := by
  unfold execModeMoveComplete
  try dsimp only
  repeat' (first
    | with_reducible assumption
    | (with_reducible intro _)
    | with_reducible apply keeps_next
    | with_reducible apply keeps_none
    | with_reducible apply keeps_some
    | with_reducible apply keeps_setVdd
    | with_reducible apply keeps_setRegFld
    | with_reducible apply keeps_tryMove
    | with_reducible apply keeps_raisePwr
    | with_reducible apply keeps_resumeArray
    | with_reducible apply keeps_ite
    | with_reducible apply keeps_getD
    | with_reducible apply keeps_iteSnd
    | with_reducible apply keeps_iteFst
    | with_reducible apply keeps_outIte
    | with_reducible apply keeps_issueIte
    | with_reducible apply keeps_foldl
    | with_reducible apply keeps_some
    | with_reducible exact keeps_none
    | with_reducible apply keeps_next
    | with_reducible apply keeps_fault
    | simp only [↓Keeps.upd_iff]
    | with_reducible apply Keeps.updFresh
    | (refine keeps_of_some ?_ (by assumption))
    | (refine keeps_of_snd ?_ (by assumption))
    | (refine keeps_of_fst ?_ (by assumption))
    | split
    | dsimp only)

@[simp ↓] theorem keeps_beginDeep {s0 s : State} (h : Keeps s0 s) : Keeps s0 (beginDeep s) := by
  unfold beginDeep
  try dsimp only
  repeat' (first
    | with_reducible assumption
    | (with_reducible intro _)
    | with_reducible apply keeps_flushInvalidate
    | with_reducible apply keeps_syncFar
    | with_reducible apply keeps_sendControl
    | with_reducible apply keeps_dropIdentity
    | with_reducible apply keeps_foldl
    | with_reducible apply keeps_downPort
    | with_reducible apply keeps_setRegFld
    | with_reducible apply keeps_recomputeTint
    | with_reducible apply keeps_ite
    | with_reducible apply keeps_getD
    | with_reducible apply keeps_iteSnd
    | with_reducible apply keeps_iteFst
    | with_reducible apply keeps_outIte
    | with_reducible apply keeps_issueIte
    | with_reducible apply keeps_foldl
    | with_reducible apply keeps_some
    | with_reducible exact keeps_none
    | with_reducible apply keeps_next
    | with_reducible apply keeps_fault
    | simp only [↓Keeps.upd_iff]
    | with_reducible apply Keeps.updFresh
    | (refine keeps_of_some ?_ (by assumption))
    | (refine keeps_of_snd ?_ (by assumption))
    | (refine keeps_of_fst ?_ (by assumption))
    | split
    | dsimp only)

@[simp ↓] theorem keeps_beginWake {s0 s : State} (h : Keeps s0 s) : Keeps s0 (beginWake s) := by
  unfold beginWake
  try dsimp only
  repeat' (first
    | with_reducible assumption
    | (with_reducible intro _)
    | with_reducible apply keeps_setRegFld
    | with_reducible apply keeps_setVdd
    | with_reducible apply keeps_recomputeTint
    | with_reducible apply keeps_foldl
    | with_reducible apply keeps_startTraining
    | with_reducible apply keeps_ite
    | with_reducible apply keeps_getD
    | with_reducible apply keeps_iteSnd
    | with_reducible apply keeps_iteFst
    | with_reducible apply keeps_outIte
    | with_reducible apply keeps_issueIte
    | with_reducible apply keeps_foldl
    | with_reducible apply keeps_some
    | with_reducible exact keeps_none
    | with_reducible apply keeps_next
    | with_reducible apply keeps_fault
    | simp only [↓Keeps.upd_iff]
    | with_reducible apply Keeps.updFresh
    | (refine keeps_of_some ?_ (by assumption))
    | (refine keeps_of_snd ?_ (by assumption))
    | (refine keeps_of_fst ?_ (by assumption))
    | split
    | dsimp only)

@[simp ↓] theorem keeps_requestWake {s0 s : State} (h : Keeps s0 s) : Keeps s0 (requestWake s) := by
  unfold requestWake
  try dsimp only
  repeat' (first | with_reducible assumption | (simp +contextual [h]; done) | split)

@[simp ↓] theorem keeps_writePwrCmd {s0 s : State} (h : Keeps s0 s) (v : Word) : Keeps s0 (writePwrCmd s v) := by
  unfold writePwrCmd
  try dsimp only
  repeat' (first | with_reducible assumption | (simp +contextual [h]; done) | split)

@[simp ↓] theorem keeps_execDeep {s0 s : State} (h : Keeps s0 s) (v : Word) : OutKeeps s0 (execDeep v s) := by
  unfold execDeep
  try dsimp only
  repeat' (first
    | with_reducible assumption
    | (with_reducible intro _)
    | with_reducible apply keeps_whenLive
    | with_reducible apply keeps_writePwrCmd
    | with_reducible apply keeps_next
    | with_reducible apply keeps_fault
    | with_reducible apply keeps_outIte
    | dsimp only)

@[simp ↓] theorem keeps_execWake {s0 s : State} (h : Keeps s0 s) (v : Word) : OutKeeps s0 (execWake v s) := by
  unfold execWake
  try dsimp only
  repeat' (first
    | with_reducible assumption
    | (with_reducible intro _)
    | with_reducible apply keeps_whenLive
    | with_reducible apply keeps_writePwrCmd
    | with_reducible apply keeps_next
    | with_reducible apply keeps_fault
    | with_reducible apply keeps_outIte
    | dsimp only)

@[simp ↓] theorem keeps_gateSrams {s0 s : State} (h : Keeps s0 s) : Keeps s0 (gateSrams s) := by
  unfold gateSrams
  refine keeps_foldl ?_ ?_
  · simp only [↓Keeps.upd_iff]
    exact h.updFilter _ _ ..
  · intro t x ht
    dsimp only
    split
    · exact keeps_setRegionState (keeps_numberRegion (keeps_clrRegBit (by simp only [↓Keeps.upd_iff]; exact ht) _ _) _ _) _ _
    · exact ht

@[simp ↓] theorem keeps_execDeepIdleEntered {s0 s : State} (h : Keeps s0 s) : OutKeeps s0 (execDeepIdleEntered s) := by
  unfold execDeepIdleEntered
  try dsimp only
  repeat' (first
    | with_reducible assumption
    | (with_reducible intro _)
    | with_reducible apply keeps_next
    | with_reducible apply keeps_flushInvalidate
    | with_reducible apply keeps_setVdd
    | with_reducible apply keeps_setRegFld
    | with_reducible apply keeps_gateSrams
    | with_reducible apply keeps_beginWake
    | with_reducible apply keeps_ite
    | with_reducible apply keeps_getD
    | with_reducible apply keeps_iteSnd
    | with_reducible apply keeps_iteFst
    | with_reducible apply keeps_outIte
    | with_reducible apply keeps_issueIte
    | with_reducible apply keeps_foldl
    | with_reducible apply keeps_some
    | with_reducible exact keeps_none
    | with_reducible apply keeps_next
    | with_reducible apply keeps_fault
    | simp only [↓Keeps.upd_iff]
    | with_reducible apply Keeps.updFresh
    | (refine keeps_of_some ?_ (by assumption))
    | (refine keeps_of_snd ?_ (by assumption))
    | (refine keeps_of_fst ?_ (by assumption))
    | split
    | dsimp only)

@[simp ↓] theorem keeps_execWakeDone {s0 s : State} (h : Keeps s0 s) : OutKeeps s0 (execWakeDone s) := by
  unfold execWakeDone
  try dsimp only
  repeat' (first
    | with_reducible assumption
    | (with_reducible intro _)
    | with_reducible apply keeps_setRegFld
    | with_reducible apply keeps_tryMove
    | with_reducible apply keeps_raisePwr
    | with_reducible apply keeps_ite
    | with_reducible apply keeps_next
    | with_reducible apply keeps_fault
    | with_reducible apply keeps_outIte
    | simp only [↓Keeps.upd_iff]
    | split)

@[simp ↓] theorem keeps_dropPacket {s0 s : State} (h : Keeps s0 s) : Keeps s0 (dropPacket s) := by
  unfold dropPacket
  try dsimp only
  repeat' (first | with_reducible assumption | (simp +contextual [h]; done) | split)

@[simp ↓] theorem keeps_receive {s0 s : State} (h : Keeps s0 s) (port : Fin 17) (typ : Nat) (p : Packet) (f : State → Option State) (hf : ∀ x0, Keeps s0 x0 → OptKeeps s0 (f x0)) : Keeps s0 (receive s port typ p f) := by
  unfold receive
  try dsimp only
  repeat' (first
    | with_reducible assumption
    | (with_reducible intro _)
    | with_reducible apply hf
    | with_reducible apply keeps_dropPacket
    | with_reducible apply keeps_takeFrom
    | with_reducible apply keeps_sendNack
    | with_reducible apply keeps_ite
    | with_reducible apply keeps_some
    | with_reducible exact keeps_none
    | simp only [↓Keeps.upd_iff]
    | (refine keeps_of_some ?_ (by assumption))
    | (refine keeps_of_snd ?_ (by assumption))
    | (refine keeps_of_fst ?_ (by assumption))
    | split
    | dsimp only)

@[simp ↓] theorem keeps_supersede {s0 s : State} (h : Keeps s0 s) (k : ItemKey) : Keeps s0 (supersede s k) := by
  unfold supersede
  try dsimp only
  repeat' (first | with_reducible assumption | (simp +contextual [h]; done) | split)

@[simp ↓] theorem keeps_acceptWork {s0 s : State} (h : Keeps s0 s) (port : Fin 17) (p : Packet) (t : TaskDesc) (arms : List (Nat × Nat)) : Keeps s0 (acceptWork s port p t arms) := by
  unfold acceptWork
  try dsimp only
  repeat' (first
    | with_reducible assumption
    | (with_reducible intro _)
    | with_reducible apply keeps_startCommand
    | with_reducible apply keeps_armTag
    | with_reducible apply keeps_sendAck
    | with_reducible apply keeps_ite
    | with_reducible apply keeps_foldl
    | simp only [↓Keeps.upd_iff]
    | split
    | dsimp only)

@[simp ↓] theorem keeps_handleWork {s0 s : State} (h : Keeps s0 s) (port : Fin 17) (p : Packet) : Keeps s0 (handleWork port p s) := by
  unfold handleWork
  try dsimp only
  repeat' (first
    | with_reducible assumption
    | (with_reducible intro _)
    | with_reducible apply keeps_sendAck
    | with_reducible apply keeps_sendNack
    | with_reducible apply keeps_supersede
    | with_reducible apply keeps_setRegBit
    | with_reducible apply keeps_acceptWork
    | with_reducible apply keeps_ite
    | with_reducible apply keeps_some
    | with_reducible exact keeps_none
    | simp only [↓Keeps.upd_iff]
    | (refine keeps_of_some ?_ (by assumption))
    | (refine keeps_of_snd ?_ (by assumption))
    | (refine keeps_of_fst ?_ (by assumption))
    | split
    | dsimp only)

@[simp ↓] theorem keeps_execWork {s0 s : State} (h : Keeps s0 s) (port : Fin 17) (pkt : Packet) : OutKeeps s0 (execWork port pkt s) := by
  unfold execWork
  try dsimp only
  repeat' (first
    | with_reducible assumption
    | (with_reducible intro _)
    | with_reducible apply keeps_receive
    | with_reducible apply keeps_handleWork
    | with_reducible apply keeps_next
    | with_reducible apply keeps_fault
    | with_reducible apply keeps_outIte
    | with_reducible apply keeps_some
    | with_reducible exact keeps_none
    | dsimp only)

@[simp ↓] theorem keeps_placeData {s0 s : State} (h : Keeps s0 s) (port : Fin 17) (p : Packet) : OptKeeps s0 (placeData port p s) := by
  unfold placeData
  try dsimp only
  repeat' (first
    | with_reducible assumption
    | (with_reducible intro _)
    | with_reducible apply keeps_setMvQueue
    | with_reducible apply keeps_ite
    | with_reducible apply keeps_some
    | with_reducible exact keeps_none
    | simp only [↓Keeps.upd_iff]
    | (refine keeps_of_some ?_ (by assumption))
    | (refine keeps_of_snd ?_ (by assumption))
    | (refine keeps_of_fst ?_ (by assumption))
    | split
    | dsimp only)

@[simp ↓] theorem keeps_handleData {s0 s : State} (h : Keeps s0 s) (port : Fin 17) (p : Packet) : OptKeeps s0 (handleData port p s) := by
  unfold handleData
  try dsimp only
  repeat' (first
    | with_reducible assumption
    | (with_reducible intro _)
    | with_reducible apply keeps_placeData
    | with_reducible apply keeps_sendNack
    | with_reducible apply keeps_sendAck
    | with_reducible apply keeps_setRegBit
    | with_reducible apply keeps_ite
    | with_reducible apply keeps_some
    | with_reducible exact keeps_none
    | split)

@[simp ↓] theorem keeps_execData {s0 s : State} (h : Keeps s0 s) (port : Fin 17) (pkt : Packet) : OutKeeps s0 (execData port pkt s) := by
  unfold execData
  try dsimp only
  repeat' (first
    | with_reducible assumption
    | (with_reducible intro _)
    | with_reducible apply keeps_receive
    | with_reducible apply keeps_handleData
    | with_reducible apply keeps_next
    | with_reducible apply keeps_fault
    | with_reducible apply keeps_outIte)

@[simp ↓] theorem keeps_runAct {s0 s : State} (h : Keeps s0 s) (k : ItemKey) (a : DispatchAct) : Keeps s0 (runAct k s a) := by
  cases a <;> unfold runAct <;> simp +contextual [h]

@[simp ↓] theorem keeps_execItemDispatch {s0 s : State} (h : Keeps s0 s) (key : ItemKey) (acts : List DispatchAct) : OutKeeps s0 (execItemDispatch key acts s) := by
  unfold execItemDispatch
  try dsimp only
  repeat' (first
    | with_reducible assumption
    | (with_reducible intro _)
    | with_reducible apply keeps_runAct
    | with_reducible apply keeps_setItt
    | with_reducible apply keeps_ite
    | with_reducible apply keeps_foldl
    | with_reducible apply keeps_next
    | with_reducible apply keeps_fault
    | with_reducible apply keeps_outIte
    | with_reducible apply keeps_some
    | with_reducible exact keeps_none
    | simp only [↓Keeps.upd_iff]
    | (refine keeps_of_some ?_ (by assumption))
    | (refine keeps_of_snd ?_ (by assumption))
    | (refine keeps_of_fst ?_ (by assumption))
    | split
    | dsimp only)

@[simp ↓] theorem keeps_sendOutput {s0 s : State} (h : Keeps s0 s) (e : IttEntry) (out : List Byte) : Keeps s0 (sendOutput s e out) := by
  unfold sendOutput
  try dsimp only
  repeat' (first | with_reducible assumption | (simp +contextual [h]; done) | split)

@[simp ↓] theorem keeps_writeOutput {s0 s : State} (h : Keeps s0 s) (e : IttEntry) (ps : List (Nat × List Byte)) : Keeps s0 (writeOutput s e ps) := by
  unfold writeOutput
  try dsimp only
  repeat' (first
    | with_reducible assumption
    | (with_reducible intro _)
    | with_reducible apply keeps_noteFar
    | with_reducible apply keeps_writeBytes
    | with_reducible apply keeps_ite
    | with_reducible apply keeps_getD
    | with_reducible apply keeps_iteSnd
    | with_reducible apply keeps_iteFst
    | with_reducible apply keeps_outIte
    | with_reducible apply keeps_issueIte
    | with_reducible apply keeps_foldl
    | with_reducible apply keeps_some
    | with_reducible exact keeps_none
    | with_reducible apply keeps_next
    | with_reducible apply keeps_fault
    | simp only [↓Keeps.upd_iff]
    | with_reducible apply Keeps.updFresh
    | (refine keeps_of_some ?_ (by assumption))
    | (refine keeps_of_snd ?_ (by assumption))
    | (refine keeps_of_fst ?_ (by assumption))
    | split
    | dsimp only)

@[simp ↓] theorem keeps_putOutput {s0 s : State} (h : Keeps s0 s) (e : IttEntry) : Keeps s0 (putOutput s e).2 := by
  unfold putOutput
  try dsimp only
  repeat' (first
    | with_reducible assumption
    | (with_reducible intro _)
    | with_reducible apply keeps_addFlags
    | with_reducible apply keeps_sendOutput
    | with_reducible apply keeps_writeOutput
    | with_reducible apply keeps_ite
    | with_reducible apply keeps_getD
    | with_reducible apply keeps_iteSnd
    | with_reducible apply keeps_iteFst
    | with_reducible apply keeps_outIte
    | with_reducible apply keeps_issueIte
    | with_reducible apply keeps_foldl
    | with_reducible apply keeps_some
    | with_reducible exact keeps_none
    | with_reducible apply keeps_next
    | with_reducible apply keeps_fault
    | simp only [↓Keeps.upd_iff]
    | with_reducible apply Keeps.updFresh
    | (refine keeps_of_some ?_ (by assumption))
    | (refine keeps_of_snd ?_ (by assumption))
    | (refine keeps_of_fst ?_ (by assumption))
    | split
    | dsimp only)

@[simp ↓] theorem keeps_finishWork {s0 s : State} (h : Keeps s0 s) (e : IttEntry) (given : List Byte) : Keeps s0 (finishWork s e given) := by
  unfold finishWork
  try dsimp only
  repeat' (first
    | with_reducible assumption
    | (with_reducible intro _)
    | with_reducible apply keeps_putOutput
    | with_reducible apply keeps_setItt
    | with_reducible apply keeps_some
    | with_reducible apply keeps_startPersist
    | with_reducible apply keeps_ite
    | with_reducible apply keeps_getD
    | with_reducible apply keeps_iteSnd
    | with_reducible apply keeps_iteFst
    | with_reducible apply keeps_outIte
    | with_reducible apply keeps_issueIte
    | with_reducible apply keeps_foldl
    | with_reducible apply keeps_some
    | with_reducible exact keeps_none
    | with_reducible apply keeps_next
    | with_reducible apply keeps_fault
    | simp only [↓Keeps.upd_iff]
    | with_reducible apply Keeps.updFresh
    | (refine keeps_of_some ?_ (by assumption))
    | (refine keeps_of_snd ?_ (by assumption))
    | (refine keeps_of_fst ?_ (by assumption))
    | split
    | dsimp only)

@[simp ↓] theorem keeps_sendDone {s0 s : State} (h : Keeps s0 s) (k : ItemKey) : Keeps s0 (sendDone s k) := by
  unfold sendDone
  try dsimp only
  repeat' (first
    | with_reducible assumption
    | (with_reducible intro _)
    | with_reducible apply keeps_sendResult
    | with_reducible apply keeps_setItt
    | with_reducible apply keeps_endWork
    | with_reducible apply keeps_ite
    | with_reducible apply keeps_some
    | with_reducible exact keeps_none
    | simp only [↓Keeps.upd_iff]
    | (refine keeps_of_some ?_ (by assumption))
    | (refine keeps_of_snd ?_ (by assumption))
    | (refine keeps_of_fst ?_ (by assumption))
    | split
    | dsimp only)

@[simp ↓] theorem keeps_execItemComplete {s0 s : State} (h : Keeps s0 s) (key : ItemKey) (inline : List Byte) : OutKeeps s0 (execItemComplete key inline s) := by
  unfold execItemComplete
  try dsimp only
  repeat' (first
    | with_reducible assumption
    | (with_reducible intro _)
    | with_reducible apply keeps_sendDone
    | with_reducible apply keeps_finishWork
    | with_reducible apply keeps_ite
    | with_reducible apply keeps_next
    | with_reducible apply keeps_fault
    | with_reducible apply keeps_outIte
    | with_reducible apply keeps_some
    | with_reducible exact keeps_none
    | simp only [↓Keeps.upd_iff]
    | (refine keeps_of_some ?_ (by assumption))
    | (refine keeps_of_snd ?_ (by assumption))
    | (refine keeps_of_fst ?_ (by assumption))
    | split
    | dsimp only)

@[simp ↓] theorem keeps_lateResult {s0 s : State} (h : Keeps s0 s) : Keeps s0 (lateResult s) := by
  unfold lateResult
  try dsimp only
  repeat' (first | with_reducible assumption | (simp +contextual [h]; done) | split)

@[simp ↓] theorem keeps_handleResult {s0 s : State} (h : Keeps s0 s) (p : Packet) : Keeps s0 (handleResult p s) := by
  unfold handleResult
  try dsimp only
  repeat' (first
    | with_reducible assumption
    | (with_reducible intro _)
    | with_reducible apply keeps_sendAck
    | with_reducible apply keeps_lateResult
    | with_reducible apply keeps_setOrig
    | with_reducible apply keeps_dueEntry
    | with_reducible apply keeps_writeBytes
    | with_reducible apply keeps_decideItem
    | with_reducible apply keeps_ite
    | with_reducible apply keeps_some
    | with_reducible exact keeps_none
    | simp only [↓Keeps.upd_iff]
    | (refine keeps_of_some ?_ (by assumption))
    | (refine keeps_of_snd ?_ (by assumption))
    | (refine keeps_of_fst ?_ (by assumption))
    | split
    | dsimp only)

@[simp ↓] theorem keeps_execResult {s0 s : State} (h : Keeps s0 s) (port : Fin 17) (pkt : Packet) : OutKeeps s0 (execResult port pkt s) := by
  unfold execResult
  try dsimp only
  repeat' (first
    | with_reducible assumption
    | (with_reducible intro _)
    | with_reducible apply keeps_receive
    | with_reducible apply keeps_handleResult
    | with_reducible apply keeps_next
    | with_reducible apply keeps_fault
    | with_reducible apply keeps_outIte
    | with_reducible apply keeps_some
    | with_reducible exact keeps_none
    | dsimp only)

@[simp ↓] theorem keeps_forget {s0 s : State} (h : Keeps s0 s) (x : SentPkt) : Keeps s0 (forget s x) := by
  unfold forget
  try dsimp only
  repeat' (first | with_reducible assumption | (simp +contextual [h]; done) | split)

@[simp ↓] theorem keeps_setSent {s0 s : State} (h : Keeps s0 s) (x y : SentPkt) : Keeps s0 (setSent s x y) := by
  unfold setSent
  try dsimp only
  repeat' (first | with_reducible assumption | (simp +contextual [h]; done) | split)

@[simp ↓] theorem keeps_failWork {s0 s : State} (h : Keeps s0 s) (p : Packet) (code detail : Nat) : Keeps s0 (failWork s p code detail) := by
  unfold failWork
  try dsimp only
  repeat' (first | with_reducible assumption | (simp +contextual [h]; done) | split)

@[simp ↓] theorem keeps_giveUp {s0 s : State} (h : Keeps s0 s) (x : SentPkt) (nack : Option (Byte × BitVec 24)) : Keeps s0 (giveUp s x nack) := by
  unfold giveUp
  try dsimp only
  repeat' (first
    | with_reducible assumption
    | (with_reducible intro _)
    | with_reducible apply keeps_forget
    | with_reducible apply keeps_failWork
    | with_reducible apply keeps_failItem
    | with_reducible apply keeps_leaveItt
    | with_reducible apply keeps_setRegBit
    | with_reducible apply keeps_ite
    | with_reducible apply keeps_some
    | with_reducible exact keeps_none
    | simp only [↓Keeps.upd_iff]
    | (refine keeps_of_some ?_ (by assumption))
    | (refine keeps_of_snd ?_ (by assumption))
    | (refine keeps_of_fst ?_ (by assumption))
    | split
    | dsimp only)

@[simp ↓] theorem keeps_handleAck {s0 s : State} (h : Keeps s0 s) (p : Packet) : Keeps s0 (handleAck p s) := by
  unfold handleAck
  try dsimp only
  repeat' (first | with_reducible assumption | (simp +contextual [h]; done) | split)

@[simp ↓] theorem keeps_execAck {s0 s : State} (h : Keeps s0 s) (port : Fin 17) (pkt : Packet) : OutKeeps s0 (execAck port pkt s) := by
  unfold execAck
  try dsimp only
  repeat' (first
    | with_reducible assumption
    | (with_reducible intro _)
    | with_reducible apply keeps_receive
    | with_reducible apply keeps_handleAck
    | with_reducible apply keeps_next
    | with_reducible apply keeps_fault
    | with_reducible apply keeps_outIte
    | with_reducible apply keeps_some
    | with_reducible exact keeps_none
    | dsimp only)

@[simp ↓] theorem keeps_handleNack {s0 s : State} (h : Keeps s0 s) (p : Packet) : Keeps s0 (handleNack p s) := by
  unfold handleNack
  try dsimp only
  repeat' (first | with_reducible assumption | (simp +contextual [h]; done) | split)

@[simp ↓] theorem keeps_execNack {s0 s : State} (h : Keeps s0 s) (port : Fin 17) (pkt : Packet) : OutKeeps s0 (execNack port pkt s) := by
  unfold execNack
  try dsimp only
  repeat' (first
    | with_reducible assumption
    | (with_reducible intro _)
    | with_reducible apply keeps_receive
    | with_reducible apply keeps_handleNack
    | with_reducible apply keeps_next
    | with_reducible apply keeps_fault
    | with_reducible apply keeps_outIte
    | with_reducible apply keeps_some
    | with_reducible exact keeps_none
    | dsimp only)

@[simp ↓] theorem keeps_handleLot {s0 s : State} (h : Keeps s0 s) (p : Packet) : Keeps s0 (handleLot p s) := by
  unfold handleLot
  try dsimp only
  repeat' (first | with_reducible assumption | (simp +contextual [h]; done) | split)

@[simp ↓] theorem keeps_execLot {s0 s : State} (h : Keeps s0 s) (port : Fin 17) (pkt : Packet) : OutKeeps s0 (execLot port pkt s) := by
  unfold execLot
  try dsimp only
  repeat' (first
    | with_reducible assumption
    | (with_reducible intro _)
    | with_reducible apply keeps_receive
    | with_reducible apply keeps_handleLot
    | with_reducible apply keeps_next
    | with_reducible apply keeps_fault
    | with_reducible apply keeps_outIte
    | with_reducible apply keeps_some
    | with_reducible exact keeps_none
    | dsimp only)

@[simp ↓] theorem keeps_resend {s0 s : State} (h : Keeps s0 s) (x : SentPkt) : Keeps s0 (resend s x) := by
  unfold resend
  try dsimp only
  repeat' (first
    | with_reducible assumption
    | (with_reducible intro _)
    | with_reducible apply keeps_setSent
    | with_reducible apply keeps_setItt
    | with_reducible apply keeps_addCounter
    | with_reducible apply keeps_emit
    | with_reducible apply keeps_ite
    | simp only [↓Keeps.upd_iff]
    | split
    | dsimp only)

@[simp ↓] theorem keeps_execResendTimeout {s0 s : State} (h : Keeps s0 s) (key : ItemKey) (typ : BitVec 4) (pseq : BitVec 16) : OutKeeps s0 (execResendTimeout key typ pseq s) := by
  unfold execResendTimeout
  try dsimp only
  repeat' (first | with_reducible assumption | (simp +contextual [h]; done) | split)

@[simp ↓] theorem keeps_sendLot {s0 s : State} (h : Keeps s0 s) (item : BitVec 13) (dst lot action : Nat) : Keeps s0 (sendLot s item dst lot action) := by
  unfold sendLot
  try dsimp only
  repeat' (first | with_reducible assumption | (simp +contextual [h]; done) | split)

@[simp ↓] theorem keeps_execItemTimeout {s0 s : State} (h : Keeps s0 s) (item : BitVec 13) : OutKeeps s0 (execItemTimeout item s) := by
  unfold execItemTimeout
  try dsimp only
  repeat' (first
    | with_reducible assumption
    | (with_reducible intro _)
    | with_reducible apply keeps_sendLot
    | with_reducible apply keeps_decideItem
    | with_reducible apply keeps_ite
    | with_reducible apply keeps_next
    | with_reducible apply keeps_fault
    | with_reducible apply keeps_outIte
    | with_reducible apply keeps_some
    | with_reducible exact keeps_none
    | simp only [↓Keeps.upd_iff]
    | (refine keeps_of_some ?_ (by assumption))
    | (refine keeps_of_snd ?_ (by assumption))
    | (refine keeps_of_fst ?_ (by assumption))
    | split
    | dsimp only)

@[simp ↓] theorem keeps_execCrcDrop {s0 s : State} (h : Keeps s0 s) (port : Fin 17) (pkt : Packet) : OutKeeps s0 (execCrcDrop port pkt s) := by
  unfold execCrcDrop
  try dsimp only
  repeat' (first
    | with_reducible assumption
    | (with_reducible intro _)
    | with_reducible apply keeps_dropPacket
    | with_reducible apply keeps_takeFrom
    | with_reducible apply keeps_ite
    | with_reducible apply keeps_next
    | with_reducible apply keeps_fault
    | with_reducible apply keeps_outIte
    | split)

end Sys2Proof.Machine
end

