-- ==== Sys2Proof/Laws/KeepsPart6.lean ====
section
/-! SUPPORT. What the operations and commands keep (KeepsBase), in the order of the model's files: Rings, Security, Thermal, RegWrite, Image. -/

set_option linter.unusedTactic false
set_option linter.unreachableTactic false
set_option linter.unusedSimpArgs false
set_option linter.unusedVariables false

namespace Sys2Proof.Machine

@[simp ↓] theorem keeps_takeEntry {s0 s : State} (h : Keeps s0 s) (r : Fin 64) : Keeps s0 (takeEntry s r) := by
  unfold takeEntry
  try dsimp only
  repeat' (first | with_reducible assumption | (simp +contextual [h]; done) | split)

@[simp ↓] theorem keeps_rejectEntry {s0 s : State} (h : Keeps s0 s) (r : Fin 64) (item : BitVec 13) (cookie : BitVec 64) (code detail : Nat) : Keeps s0 (rejectEntry s r item cookie code detail) := by
  unfold rejectEntry
  try dsimp only
  repeat' (first | with_reducible assumption | (simp +contextual [h]; done) | split)

@[simp ↓] theorem keeps_issueLot {s0 s : State} (h : Keeps s0 s) (i : BitVec 13) (o : OrigEntry) (lot : Nat) (dst : BitVec 16) : Keeps s0 (issueLot s i o lot dst) := by
  unfold issueLot
  try dsimp only
  repeat' (first
    | with_reducible assumption
    | (with_reducible intro _)
    | with_reducible apply keeps_setOrig
    | with_reducible apply keeps_sendKept
    | simp only [↓Keeps.upd_iff])

@[simp ↓] theorem keeps_submitItemEntry {s0 s : State} (h : Keeps s0 s) (e : Desc) (payload : List Byte) : Keeps s0 (submitItemEntry s e payload) := by
  unfold submitItemEntry
  try dsimp only
  repeat' (first | with_reducible assumption | (simp +contextual [h]; done) | split)

@[simp ↓] theorem keeps_serveEntry {s0 s : State} (h : Keeps s0 s) (r : Fin 64) (e : Desc) (f : State → State) (hf : ∀ x0, Keeps s0 x0 → Keeps s0 (f x0)) : Keeps s0 (serveEntry s r e f) := by
  unfold serveEntry
  try dsimp only
  repeat' (first | with_reducible assumption | (simp +contextual [h, hf]; done) | split)

@[simp ↓] theorem keeps_execSubmit {s0 s : State} (h : Keeps s0 s) (ring : Fin 64) (entry : Desc) (payload : List Byte) : OutKeeps s0 (execSubmit ring entry payload s) := by
  unfold execSubmit
  try dsimp only
  repeat' (first
    | with_reducible assumption
    | (with_reducible intro _)
    | with_reducible apply keeps_serveEntry
    | with_reducible apply keeps_submitItemEntry
    | with_reducible apply keeps_ite
    | with_reducible apply keeps_next
    | with_reducible apply keeps_fault
    | with_reducible apply keeps_outIte
    | split
    | dsimp only)

@[simp ↓] theorem keeps_forgetWork {s0 s : State} (h : Keeps s0 s) (i : BitVec 13) : Keeps s0 (forgetWork s i) := by
  unfold forgetWork
  try dsimp only
  repeat' (first | with_reducible assumption | (simp +contextual [h]; done) | split)

@[simp ↓] theorem keeps_execMigrate {s0 s : State} (h : Keeps s0 s) (ring : Fin 64) (entry : Desc) : OutKeeps s0 (execMigrate ring entry s) := by
  unfold execMigrate
  try dsimp only
  repeat' (first
    | with_reducible assumption
    | (with_reducible intro _)
    | with_reducible apply keeps_serveEntry
    | with_reducible apply keeps_sendLot
    | with_reducible apply keeps_forgetWork
    | with_reducible apply keeps_issueLot
    | with_reducible apply keeps_ite
    | with_reducible apply keeps_next
    | with_reducible apply keeps_fault
    | with_reducible apply keeps_outIte
    | with_reducible apply keeps_some
    | with_reducible exact keeps_none
    | simp only [↓Keeps.upd_iff]
    | (refine keeps_of_some ?_ (by assumption))
    | (refine keeps_of_snd ?_ (by assumption))
    | (refine keeps_of_fst ?_ (by assumption))
    | split
    | dsimp only)

@[simp ↓] theorem keeps_execCancel {s0 s : State} (h : Keeps s0 s) (ring : Fin 64) (entry : Desc) : OutKeeps s0 (execCancel ring entry s) := by
  unfold execCancel
  try dsimp only
  repeat' (first
    | with_reducible assumption
    | (with_reducible intro _)
    | with_reducible apply keeps_serveEntry
    | with_reducible apply keeps_sendLot
    | with_reducible apply keeps_decideItem
    | with_reducible apply keeps_ite
    | with_reducible apply keeps_next
    | with_reducible apply keeps_fault
    | with_reducible apply keeps_outIte
    | with_reducible apply keeps_some
    | with_reducible exact keeps_none
    | simp only [↓Keeps.upd_iff]
    | (refine keeps_of_some ?_ (by assumption))
    | (refine keeps_of_snd ?_ (by assumption))
    | (refine keeps_of_fst ?_ (by assumption))
    | split
    | dsimp only)

@[simp ↓] theorem keeps_execBadEntry {s0 s : State} (h : Keeps s0 s) (ring : Fin 64) (entry : Desc) : OutKeeps s0 (execBadEntry ring entry s) := by
  unfold execBadEntry
  try dsimp only
  repeat' (first | with_reducible assumption | (simp +contextual [h]; done) | split)

@[simp ↓] theorem keeps_execCompletionTimeout {s0 s : State} (h : Keeps s0 s) (ring : Fin 64) (entry : Option Desc) : OutKeeps s0 (execCompletionTimeout ring entry s) := by
  unfold execCompletionTimeout
  try dsimp only
  repeat' (first
    | with_reducible assumption
    | (with_reducible intro _)
    | with_reducible apply keeps_setRegBit
    | with_reducible apply keeps_takeEntry
    | with_reducible apply keeps_freeWord
    | with_reducible apply keeps_rejectEntry
    | with_reducible apply keeps_ite
    | with_reducible apply keeps_next
    | with_reducible apply keeps_fault
    | with_reducible apply keeps_outIte
    | with_reducible apply keeps_some
    | with_reducible exact keeps_none
    | simp only [↓Keeps.upd_iff]
    | (refine keeps_of_some ?_ (by assumption))
    | (refine keeps_of_snd ?_ (by assumption))
    | (refine keeps_of_fst ?_ (by assumption))
    | split
    | dsimp only)

@[simp ↓] theorem keeps_execCompletionEntryWrite {s0 s : State} (h : Keeps s0 s) (ring : Fin 64) : OutKeeps s0 (execCompletionEntryWrite ring s) := by
  unfold execCompletionEntryWrite
  try dsimp only
  repeat' (first | with_reducible assumption | (simp +contextual [h]; done) | split)

@[simp ↓] theorem keeps_ptrErr {s0 s : State} (h : Keeps s0 s) (r : Nat) : Keeps s0 (ptrErr s r) := by
  unfold ptrErr
  try dsimp only
  repeat' (first | with_reducible assumption | (simp +contextual [h]; done) | split)

@[simp ↓] theorem keeps_writeSqTail {s0 s : State} (h : Keeps s0 s) (r : Nat) (v : Word) : Keeps s0 (writeSqTail s r v) := by
  unfold writeSqTail
  try dsimp only
  repeat' (first | with_reducible assumption | (simp +contextual [h]; done) | split)

@[simp ↓] theorem keeps_execSqTailWrite {s0 s : State} (h : Keeps s0 s) (ring : Fin 64) (v : Word) : OutKeeps s0 (execSqTailWrite ring v s) := by
  unfold execSqTailWrite
  try dsimp only
  repeat' (first
    | with_reducible assumption
    | (with_reducible intro _)
    | with_reducible apply keeps_whenLive
    | with_reducible apply keeps_writeSqTail
    | with_reducible apply keeps_next
    | with_reducible apply keeps_fault
    | with_reducible apply keeps_outIte
    | dsimp only)

@[simp ↓] theorem keeps_writeCqHead {s0 s : State} (h : Keeps s0 s) (r : Nat) (v : Word) : Keeps s0 (writeCqHead s r v) := by
  unfold writeCqHead
  try dsimp only
  repeat' (first | with_reducible assumption | (simp +contextual [h]; done) | split)

@[simp ↓] theorem keeps_execCqHeadWrite {s0 s : State} (h : Keeps s0 s) (ring : Fin 64) (v : Word) : OutKeeps s0 (execCqHeadWrite ring v s) := by
  unfold execCqHeadWrite
  try dsimp only
  repeat' (first
    | with_reducible assumption
    | (with_reducible intro _)
    | with_reducible apply keeps_whenLive
    | with_reducible apply keeps_writeCqHead
    | with_reducible apply keeps_next
    | with_reducible apply keeps_fault
    | with_reducible apply keeps_outIte
    | dsimp only)

@[simp ↓] theorem keeps_enableRing {s0 s : State} (h : Keeps s0 s) (r : Nat) : Keeps s0 (enableRing s r) := by
  unfold enableRing
  try dsimp only
  repeat' (first
    | with_reducible assumption
    | (with_reducible intro _)
    | with_reducible apply keeps_setRegWord
    | with_reducible apply keeps_foldl
    | simp only [↓Keeps.upd_iff]
    | dsimp only)

@[simp ↓] theorem keeps_writeRingCfg {s0 s : State} (h : Keeps s0 s) (r : Nat) (v : Word) : Keeps s0 (writeRingCfg s r v) := by
  unfold writeRingCfg
  try dsimp only
  repeat' (first | with_reducible assumption | (simp +contextual [h]; done) | split)

@[simp ↓] theorem keeps_execRingCfgWrite {s0 s : State} (h : Keeps s0 s) (ring : Fin 64) (v : Word) : OutKeeps s0 (execRingCfgWrite ring v s) := by
  unfold execRingCfgWrite
  try dsimp only
  repeat' (first
    | with_reducible assumption
    | (with_reducible intro _)
    | with_reducible apply keeps_whenLive
    | with_reducible apply keeps_writeRingCfg
    | with_reducible apply keeps_next
    | with_reducible apply keeps_fault
    | with_reducible apply keeps_outIte
    | dsimp only)

@[simp ↓] theorem keeps_writeRingBase {s0 s : State} (h : Keeps s0 s) (r : Nat) (which : RingBase) (v : Word) : Keeps s0 (writeRingBase s r which v) := by
  unfold writeRingBase
  try dsimp only
  repeat' (first | with_reducible assumption | (simp +contextual [h]; done) | split)

@[simp ↓] theorem keeps_execRingBaseWrite {s0 s : State} (h : Keeps s0 s) (ring : Fin 64) (which : RingBase) (v : Word) : OutKeeps s0 (execRingBaseWrite ring which v s) := by
  unfold execRingBaseWrite
  try dsimp only
  repeat' (first
    | with_reducible assumption
    | (with_reducible intro _)
    | with_reducible apply keeps_whenLive
    | with_reducible apply keeps_writeRingBase
    | with_reducible apply keeps_next
    | with_reducible apply keeps_fault
    | with_reducible apply keeps_outIte
    | dsimp only)

@[simp ↓] theorem keeps_setRegBytes {s0 s : State} (h : Keeps s0 s) (off n : Nat) (bs : List Byte) : Keeps s0 (setRegBytes s off n bs) := by
  unfold setRegBytes
  try dsimp only
  repeat' (first | with_reducible assumption | (simp +contextual [h]; done) | split)

@[simp ↓] theorem keeps_extend {s0 s : State} (h : Keeps s0 s) (m : Nat) (x : List Byte) : Keeps s0 (extend s m x) := by
  unfold extend
  try dsimp only
  repeat' (first | with_reducible assumption | (simp +contextual [h]; done) | split)

@[simp ↓] theorem keeps_flashCommand {s0 s : State} (h : Keeps s0 s) (erase : Bool) : Keeps s0 (flashCommand s erase) := by
  unfold flashCommand
  try dsimp only
  repeat' (first | with_reducible assumption | (simp +contextual [h]; done) | split)

@[simp ↓] theorem keeps_writeFlCmd {s0 s : State} (h : Keeps s0 s) (v : Word) : Keeps s0 (writeFlCmd s v) := by
  unfold writeFlCmd
  try dsimp only
  repeat' (first | with_reducible assumption | (simp +contextual [h]; done) | split)

@[simp ↓] theorem keeps_openSector {s0 s : State} (h : Keeps s0 s) : Keeps s0 (openSector s).2 := by
  unfold openSector
  try dsimp only
  repeat' (first | with_reducible assumption | (simp +contextual [h]; done) | split)

@[simp ↓] theorem keeps_dropTraining {s0 s : State} (h : Keeps s0 s) (sector : Nat) : Keeps s0 (dropTraining s sector) := by
  unfold dropTraining
  try dsimp only
  repeat' (first | with_reducible assumption | (simp +contextual [h]; done) | split)

@[simp ↓] theorem keeps_endFlashOp {s0 s : State} (h : Keeps s0 s) (op : FlashOp) (ok : Bool) : Keeps s0 (endFlashOp s op ok) := by
  unfold endFlashOp
  try dsimp only
  repeat' (first
    | with_reducible assumption
    | (with_reducible intro _)
    | with_reducible apply keeps_clrRegBit
    | with_reducible apply keeps_dropTraining
    | with_reducible apply keeps_openSector
    | with_reducible apply keeps_setRegBit
    | with_reducible apply keeps_ite
    | simp only [↓Keeps.upd_iff]
    | (refine keeps_of_some ?_ (by assumption))
    | (refine keeps_of_snd ?_ (by assumption))
    | (refine keeps_of_fst ?_ (by assumption))
    | split
    | dsimp only)

@[simp ↓] theorem keeps_execProg {s0 s : State} (h : Keeps s0 s) (v : Word) : OutKeeps s0 (execProg v s) := by
  unfold execProg
  try dsimp only
  repeat' (first
    | with_reducible assumption
    | (with_reducible intro _)
    | with_reducible apply keeps_whenLive
    | with_reducible apply keeps_writeFlCmd
    | with_reducible apply keeps_next
    | with_reducible apply keeps_fault
    | with_reducible apply keeps_outIte
    | dsimp only)

@[simp ↓] theorem keeps_execErase {s0 s : State} (h : Keeps s0 s) (v : Word) : OutKeeps s0 (execErase v s) := by
  unfold execErase
  try dsimp only
  repeat' (first
    | with_reducible assumption
    | (with_reducible intro _)
    | with_reducible apply keeps_whenLive
    | with_reducible apply keeps_writeFlCmd
    | with_reducible apply keeps_next
    | with_reducible apply keeps_fault
    | with_reducible apply keeps_outIte
    | dsimp only)

@[simp ↓] theorem keeps_execFlashOpComplete {s0 s : State} (h : Keeps s0 s) (ok : Bool) : OutKeeps s0 (execFlashOpComplete ok s) := by
  unfold execFlashOpComplete
  try dsimp only
  repeat' (first | with_reducible assumption | (simp +contextual [h]; done) | split)

@[simp ↓] theorem keeps_takeToken {s0 s : State} (h : Keeps s0 s) (b : List Byte) : Keeps s0 (takeToken s b) := by
  unfold takeToken
  try dsimp only
  repeat' (first
    | with_reducible assumption
    | (with_reducible intro _)
    | with_reducible apply keeps_setRegBit
    | with_reducible apply keeps_setRegFld
    | with_reducible apply keeps_ite
    | simp only [↓Keeps.upd_iff]
    | split)

@[simp ↓] theorem keeps_formNonce {s0 s : State} (h : Keeps s0 s) : Keeps s0 (formNonce s) := by
  unfold formNonce
  try dsimp only
  repeat' (first
    | with_reducible assumption
    | (with_reducible intro _)
    | with_reducible apply keeps_setRegBytes
    | with_reducible apply keeps_setRegBit
    | with_reducible apply Keeps.updFresh
    | simp only [↓Keeps.upd_iff]
    | dsimp only)

@[simp ↓] theorem keeps_writeNonce {s0 s : State} (h : Keeps s0 s) : Keeps s0 (writeNonce s) := by
  unfold writeNonce
  try dsimp only
  repeat' (first | with_reducible assumption | (simp +contextual [h]; done) | split)

@[simp ↓] theorem keeps_submitToken {s0 s : State} (h : Keeps s0 s) : Keeps s0 (submitToken s) := by
  unfold submitToken
  try dsimp only
  repeat' (first | with_reducible assumption | (simp +contextual [h]; done) | split)

@[simp ↓] theorem keeps_endToken {s0 s : State} (h : Keeps s0 s) (t : TokenCheck) : Keeps s0 (endToken s t) := by
  unfold endToken
  try dsimp only
  repeat' (first
    | with_reducible assumption
    | (with_reducible intro _)
    | with_reducible apply keeps_setRegFld
    | with_reducible apply keeps_logEvent
    | with_reducible apply keeps_takeToken
    | with_reducible apply keeps_extend
    | with_reducible apply keeps_formNonce
    | with_reducible apply keeps_ite
    | simp only [↓Keeps.upd_iff]
    | split)

@[simp ↓] theorem keeps_writeSecCmd {s0 s : State} (h : Keeps s0 s) (v : Word) : Keeps s0 (writeSecCmd s v) := by
  unfold writeSecCmd
  try dsimp only
  repeat' (first
    | with_reducible assumption
    | (with_reducible intro _)
    | with_reducible apply keeps_submitToken
    | with_reducible apply keeps_writeNonce
    | with_reducible apply keeps_extend
    | with_reducible apply keeps_ite
    | split)

@[simp ↓] theorem keeps_execNonce {s0 s : State} (h : Keeps s0 s) (v : Word) : OutKeeps s0 (execNonce v s) := by
  unfold execNonce
  try dsimp only
  repeat' (first
    | with_reducible assumption
    | (with_reducible intro _)
    | with_reducible apply keeps_whenLive
    | with_reducible apply keeps_writeSecCmd
    | with_reducible apply keeps_next
    | with_reducible apply keeps_fault
    | with_reducible apply keeps_outIte
    | dsimp only)

@[simp ↓] theorem keeps_execTokenSubmit {s0 s : State} (h : Keeps s0 s) (v : Word) : OutKeeps s0 (execTokenSubmit v s) := by
  unfold execTokenSubmit
  try dsimp only
  repeat' (first
    | with_reducible assumption
    | (with_reducible intro _)
    | with_reducible apply keeps_whenLive
    | with_reducible apply keeps_writeSecCmd
    | with_reducible apply keeps_next
    | with_reducible apply keeps_fault
    | with_reducible apply keeps_outIte
    | dsimp only)

@[simp ↓] theorem keeps_execExtend6 {s0 s : State} (h : Keeps s0 s) (v : Word) : OutKeeps s0 (execExtend6 v s) := by
  unfold execExtend6
  try dsimp only
  repeat' (first
    | with_reducible assumption
    | (with_reducible intro _)
    | with_reducible apply keeps_whenLive
    | with_reducible apply keeps_writeSecCmd
    | with_reducible apply keeps_next
    | with_reducible apply keeps_fault
    | with_reducible apply keeps_outIte
    | dsimp only)

@[simp ↓] theorem keeps_execExtend7 {s0 s : State} (h : Keeps s0 s) (v : Word) : OutKeeps s0 (execExtend7 v s) := by
  unfold execExtend7
  try dsimp only
  repeat' (first
    | with_reducible assumption
    | (with_reducible intro _)
    | with_reducible apply keeps_whenLive
    | with_reducible apply keeps_writeSecCmd
    | with_reducible apply keeps_next
    | with_reducible apply keeps_fault
    | with_reducible apply keeps_outIte
    | dsimp only)

@[simp ↓] theorem keeps_execTokenCheckComplete {s0 s : State} (h : Keeps s0 s) : OutKeeps s0 (execTokenCheckComplete s) := by
  unfold execTokenCheckComplete
  try dsimp only
  repeat' (first | with_reducible assumption | (simp +contextual [h]; done) | split)

@[simp ↓] theorem keeps_relaySend {s0 s : State} (h : Keeps s0 s) : Keeps s0 (relaySend s) := by
  unfold relaySend
  try dsimp only
  repeat' (first
    | with_reducible assumption
    | (with_reducible intro _)
    | with_reducible apply keeps_setRegFld
    | with_reducible apply keeps_emit
    | with_reducible apply keeps_ite
    | with_reducible apply keeps_some
    | with_reducible exact keeps_none
    | simp only [↓Keeps.upd_iff]
    | split)

@[simp ↓] theorem keeps_writeRelayCmd {s0 s : State} (h : Keeps s0 s) (v : Word) : Keeps s0 (writeRelayCmd s v) := by
  unfold writeRelayCmd
  try dsimp only
  repeat' (first | with_reducible assumption | (simp +contextual [h]; done) | split)

@[simp ↓] theorem keeps_execRelaySend {s0 s : State} (h : Keeps s0 s) (v : Word) : OutKeeps s0 (execRelaySend v s) := by
  unfold execRelaySend
  try dsimp only
  repeat' (first
    | with_reducible assumption
    | (with_reducible intro _)
    | with_reducible apply keeps_whenLive
    | with_reducible apply keeps_writeRelayCmd
    | with_reducible apply keeps_next
    | with_reducible apply keeps_fault
    | with_reducible apply keeps_outIte
    | dsimp only)

@[simp ↓] theorem keeps_relayResponse {s0 s : State} (h : Keeps s0 s) (body : List Byte) : Keeps s0 (relayResponse s body) := by
  unfold relayResponse
  try dsimp only
  repeat' (first
    | with_reducible assumption
    | (with_reducible intro _)
    | with_reducible apply keeps_setRegBytes
    | with_reducible apply keeps_setRegFld
    | simp only [↓Keeps.upd_iff])

@[simp ↓] theorem keeps_execSpdmResponse {s0 s : State} (h : Keeps s0 s) (src : BitVec 16) (body : List Byte) : OutKeeps s0 (execSpdmResponse src body s) := by
  unfold execSpdmResponse
  try dsimp only
  repeat' (first | with_reducible assumption | (simp +contextual [h]; done) | split)

@[simp ↓] theorem keeps_execRelayTimeout {s0 s : State} (h : Keeps s0 s) : OutKeeps s0 (execRelayTimeout s) := by
  unfold execRelayTimeout
  try dsimp only
  repeat' (first
    | with_reducible assumption
    | (with_reducible intro _)
    | with_reducible apply keeps_setRegFld
    | with_reducible apply keeps_ite
    | with_reducible apply keeps_next
    | with_reducible apply keeps_fault
    | with_reducible apply keeps_outIte
    | simp only [↓Keeps.upd_iff]
    | split)

@[simp ↓] theorem keeps_answerSpdm {s0 s : State} (h : Keeps s0 s) (via : SpdmPath) (f : State → SpdmAnswer × State)
    (hf : ∀ t, Keeps s0 t → Keeps s0 (f t).2) : Keeps s0 (answerSpdm s via f) := by
  unfold answerSpdm
  dsimp only
  split
  · exact keeps_emit (hf s h) _
  · exact h

@[simp ↓] theorem keeps_spdmSign {s0 s : State} (h : Keeps s0 s) (nonce ms : List Byte) : Keeps s0 (spdmSign s nonce ms).2 := by
  unfold spdmSign
  try dsimp only
  repeat' (first | with_reducible assumption | (simp +contextual [h]; done) | split)

@[simp ↓] theorem keeps_challengeAnswer {s0 s : State} (h : Keeps s0 s) (slot : Byte) (nonce : List Byte) : Keeps s0 (challengeAnswer slot nonce s).2 := by
  unfold challengeAnswer
  try dsimp only
  repeat' (first | with_reducible assumption | (simp +contextual [h]; done) | split)

@[simp ↓] theorem keeps_measurementsAnswer {s0 s : State} (h : Keeps s0 s) (index : Byte) (signed : Bool) (nonce : List Byte) : Keeps s0 (measurementsAnswer index signed nonce s).2 := by
  unfold measurementsAnswer
  try dsimp only
  repeat' (first | with_reducible assumption | (simp +contextual [h]; done) | split)

@[simp ↓] theorem keeps_execGetVersion {s0 s : State} (h : Keeps s0 s) (via : SpdmPath) : OutKeeps s0 (execGetVersion via s) := by
  unfold execGetVersion
  try dsimp only
  repeat' (first | with_reducible assumption | (simp +contextual [h]; done) | split)

@[simp ↓] theorem keeps_execGetCapabilities {s0 s : State} (h : Keeps s0 s) (via : SpdmPath) : OutKeeps s0 (execGetCapabilities via s) := by
  unfold execGetCapabilities
  try dsimp only
  repeat' (first | with_reducible assumption | (simp +contextual [h]; done) | split)

@[simp ↓] theorem keeps_execNegotiateAlgorithms {s0 s : State} (h : Keeps s0 s) (via : SpdmPath) : OutKeeps s0 (execNegotiateAlgorithms via s) := by
  unfold execNegotiateAlgorithms
  try dsimp only
  repeat' (first | with_reducible assumption | (simp +contextual [h]; done) | split)

@[simp ↓] theorem keeps_execChallenge {s0 s : State} (h : Keeps s0 s) (via : SpdmPath) (slot : Byte) (nonce : List Byte) : OutKeeps s0 (execChallenge via slot nonce s) := by
  unfold execChallenge
  try dsimp only
  repeat' (first
    | with_reducible assumption
    | (with_reducible intro _)
    | with_reducible apply keeps_answerSpdm
    | with_reducible apply keeps_challengeAnswer
    | with_reducible apply keeps_next
    | with_reducible apply keeps_fault
    | with_reducible apply keeps_outIte)

@[simp ↓] theorem keeps_execGetMeasurements {s0 s : State} (h : Keeps s0 s) (via : SpdmPath) (index : Byte) (signed : Bool) (nonce : List Byte) : OutKeeps s0 (execGetMeasurements via index signed nonce s) := by
  unfold execGetMeasurements
  try dsimp only
  repeat' (first
    | with_reducible assumption
    | (with_reducible intro _)
    | with_reducible apply keeps_answerSpdm
    | with_reducible apply keeps_measurementsAnswer
    | with_reducible apply keeps_next
    | with_reducible apply keeps_fault
    | with_reducible apply keeps_outIte)

@[simp ↓] theorem keeps_execSpdmUnsupportedRequest {s0 s : State} (h : Keeps s0 s) (via : SpdmPath) (code : Byte) : OutKeeps s0 (execSpdmUnsupportedRequest via code s) := by
  unfold execSpdmUnsupportedRequest
  try dsimp only
  repeat' (first | with_reducible assumption | (simp +contextual [h]; done) | split)

@[simp ↓] theorem keeps_takeReading {s0 s : State} (h : Keeps s0 s) (n : Nat) (r : Option Int) : Keeps s0 (takeReading s n r) := by
  unfold takeReading
  try dsimp only
  repeat' (first
    | with_reducible assumption
    | (with_reducible intro _)
    | with_reducible apply keeps_raiseThm
    | with_reducible apply keeps_setRegBit
    | with_reducible apply keeps_setRegFld
    | with_reducible apply keeps_ite
    | with_reducible apply keeps_some
    | with_reducible exact keeps_none
    | simp only [↓Keeps.upd_iff]
    | (refine keeps_of_some ?_ (by assumption))
    | (refine keeps_of_snd ?_ (by assumption))
    | (refine keeps_of_fst ?_ (by assumption))
    | split
    | dsimp only)

@[simp ↓] theorem keeps_setRegionTemp {s0 s : State} (h : Keeps s0 s) (p : Nat) : Keeps s0 (setRegionTemp s p) := by
  unfold setRegionTemp
  try dsimp only
  repeat' (first
    | with_reducible assumption
    | (with_reducible intro _)
    | with_reducible apply keeps_setRegFld
    | with_reducible apply keeps_freeWord
    | with_reducible apply keeps_some
    | with_reducible exact keeps_none
    | simp only [↓Keeps.upd_iff]
    | (refine keeps_of_some ?_ (by assumption))
    | (refine keeps_of_snd ?_ (by assumption))
    | (refine keeps_of_fst ?_ (by assumption))
    | split
    | dsimp only)

@[simp ↓] theorem keeps_setZone {s0 s : State} (h : Keeps s0 s) (z mw : Nat) (leak : Int) : Keeps s0 (setZone s z mw leak) := by
  unfold setZone
  try dsimp only
  repeat' (first
    | with_reducible assumption
    | (with_reducible intro _)
    | with_reducible apply keeps_setRegWord
    | with_reducible apply keeps_logEvent
    | with_reducible apply keeps_raiseThm
    | with_reducible apply keeps_ite
    | with_reducible apply keeps_foldl
    | split)

@[simp ↓] theorem keeps_trip {s0 s : State} (h : Keeps s0 s) (src : Nat) (t : Int) : Keeps s0 (trip s src t) := by
  unfold trip
  try dsimp only
  repeat' (first
    | with_reducible assumption
    | (with_reducible intro _)
    | with_reducible apply keeps_freeWord
    | with_reducible apply keeps_setRegWord
    | with_reducible apply keeps_logEvent
    | with_reducible apply keeps_deviceFault
    | simp only [↓Keeps.upd_iff]
    | (refine keeps_of_some ?_ (by assumption))
    | (refine keeps_of_snd ?_ (by assumption))
    | (refine keeps_of_fst ?_ (by assumption))
    | split)

@[simp ↓] theorem keeps_warnDie {s0 s : State} (h : Keeps s0 s) (rz : Bool) (temps : List (Nat × Int)) : Keeps s0 (warnDie s rz temps) := by
  unfold warnDie
  try dsimp only
  repeat' (first
    | with_reducible assumption
    | (with_reducible intro _)
    | with_reducible apply keeps_raiseThm
    | with_reducible apply keeps_logEvent
    | with_reducible apply keeps_ite
    | simp only [↓Keeps.upd_iff]
    | split
    | dsimp only)

@[simp ↓] theorem keeps_pauseRegion {s0 s : State} (h : Keeps s0 s) (others : List Int × List Int) (p : Nat) : Keeps s0 (pauseRegion s others p) := by
  unfold pauseRegion
  try dsimp only
  repeat' (first
    | with_reducible assumption
    | (with_reducible intro _)
    | with_reducible apply keeps_movePause
    | with_reducible apply keeps_setRegFld
    | with_reducible apply keeps_raiseThm
    | with_reducible apply keeps_ite
    | with_reducible apply keeps_getD
    | with_reducible apply keeps_iteSnd
    | with_reducible apply keeps_iteFst
    | with_reducible apply keeps_outIte
    | with_reducible apply keeps_issueIte
    | with_reducible apply keeps_foldl
    | with_reducible apply keeps_some
    | with_reducible exact keeps_none
    | with_reducible apply keeps_next
    | with_reducible apply keeps_fault
    | simp only [↓Keeps.upd_iff]
    | with_reducible apply Keeps.updFresh
    | (refine keeps_of_some ?_ (by assumption))
    | (refine keeps_of_snd ?_ (by assumption))
    | (refine keeps_of_fst ?_ (by assumption))
    | split
    | dsimp only)

@[simp ↓] theorem keeps_skipRegion {s0 s : State} (h : Keeps s0 s) (shared : Bool × Bool) (p : Nat) : Keeps s0 (skipRegion s shared p) := by
  unfold skipRegion
  try dsimp only
  repeat' (first | with_reducible assumption | (simp +contextual [h]; done) | split)

@[simp ↓] theorem keeps_showThermal {s0 s : State} (h : Keeps s0 s) : Keeps s0 (showThermal s) := by
  unfold showThermal
  try dsimp only
  repeat' (first
    | with_reducible assumption
    | (with_reducible intro _)
    | with_reducible apply keeps_setRegFld
    | with_reducible apply keeps_some
    | with_reducible exact keeps_none
    | dsimp only)

@[simp ↓] theorem keeps_noteHistory {s0 s : State} (h : Keeps s0 s) : Keeps s0 (noteHistory s) := by
  unfold noteHistory
  try dsimp only
  repeat' (first | with_reducible assumption | (simp +contextual [h]; done) | split)

@[simp ↓] theorem keeps_sampleOn {s0 s : State} (h : Keeps s0 s) : Keeps s0 (sampleOn s) := by
  unfold sampleOn
  try dsimp only
  repeat' (first
    | with_reducible assumption
    | (with_reducible intro _)
    | with_reducible apply keeps_warnDie
    | with_reducible apply keeps_pauseRegion
    | with_reducible apply keeps_skipRegion
    | with_reducible apply keeps_showThermal
    | with_reducible apply keeps_noteHistory
    | with_reducible apply keeps_foldl
    | dsimp only)

@[simp ↓] theorem keeps_takeSample {s0 s : State} (h : Keeps s0 s) (r : ThermalReadings) : Keeps s0 (takeSample s r) := by
  unfold takeSample
  try dsimp only
  repeat' (first
    | with_reducible assumption
    | (with_reducible intro _)
    | with_reducible apply keeps_takeReading
    | with_reducible apply keeps_setRegionTemp
    | with_reducible apply keeps_setZone
    | with_reducible apply keeps_foldl
    | dsimp only)

@[simp ↓] theorem keeps_decideSample {s0 s : State} (h : Keeps s0 s) : Keeps s0 (decideSample s) := by
  unfold decideSample
  try dsimp only
  repeat' (first
    | with_reducible assumption
    | (with_reducible intro _)
    | with_reducible apply keeps_some
    | with_reducible apply keeps_trip
    | with_reducible apply keeps_showThermal
    | with_reducible apply keeps_noteHistory
    | with_reducible apply keeps_none
    | with_reducible apply keeps_sampleOn
    | with_reducible apply keeps_ite
    | with_reducible apply keeps_getD
    | with_reducible apply keeps_iteSnd
    | with_reducible apply keeps_iteFst
    | with_reducible apply keeps_outIte
    | with_reducible apply keeps_issueIte
    | with_reducible apply keeps_foldl
    | with_reducible apply keeps_some
    | with_reducible exact keeps_none
    | with_reducible apply keeps_next
    | with_reducible apply keeps_fault
    | simp only [↓Keeps.upd_iff]
    | with_reducible apply Keeps.updFresh
    | (refine keeps_of_some ?_ (by assumption))
    | (refine keeps_of_snd ?_ (by assumption))
    | (refine keeps_of_fst ?_ (by assumption))
    | split
    | dsimp only)

@[simp ↓] theorem keeps_thermalSample {s0 s : State} (h : Keeps s0 s) (r : ThermalReadings) : Keeps s0 (thermalSample s r) := by
  unfold thermalSample
  try dsimp only
  repeat' (first | with_reducible assumption | (simp +contextual [h]; done) | split)

@[simp ↓] theorem keeps_execThermalSample {s0 s : State} (h : Keeps s0 s) (r : ThermalReadings) : OutKeeps s0 (execThermalSample r s) := by
  unfold execThermalSample
  try dsimp only
  repeat' (first | with_reducible assumption | (simp +contextual [h]; done) | split)

@[simp ↓] theorem keeps_releaseHold {s0 s : State} (h : Keeps s0 s) : Keeps s0 (releaseHold s) := by
  unfold releaseHold
  try dsimp only
  repeat' (first
    | with_reducible assumption
    | (with_reducible intro _)
    | with_reducible apply keeps_logEvent
    | with_reducible apply keeps_clrRegBit
    | with_reducible apply keeps_settleStep
    | with_reducible apply keeps_ite
    | split)

@[simp ↓] theorem keeps_execAutoRestart {s0 s : State} (h : Keeps s0 s) : OutKeeps s0 (execAutoRestart s) := by
  unfold execAutoRestart
  try dsimp only
  repeat' (first
    | with_reducible assumption
    | (with_reducible intro _)
    | with_reducible apply keeps_releaseHold
    | with_reducible apply keeps_ite
    | with_reducible apply keeps_next
    | with_reducible apply keeps_fault
    | with_reducible apply keeps_outIte
    | simp only [↓Keeps.upd_iff]
    | split)

@[simp ↓] theorem keeps_execTripCountReset {s0 s : State} (h : Keeps s0 s) : OutKeeps s0 (execTripCountReset s) := by
  unfold execTripCountReset
  try dsimp only
  repeat' (first | with_reducible assumption | (simp +contextual [h]; done) | split)

@[simp ↓] theorem keeps_writeThmCmd {s0 s : State} (h : Keeps s0 s) (v : Word) : Keeps s0 (writeThmCmd s v) := by
  unfold writeThmCmd
  try dsimp only
  repeat' (first | with_reducible assumption | (simp +contextual [h]; done) | split)

@[simp ↓] theorem keeps_execClearHold {s0 s : State} (h : Keeps s0 s) (v : Word) : OutKeeps s0 (execClearHold v s) := by
  unfold execClearHold
  try dsimp only
  repeat' (first
    | with_reducible assumption
    | (with_reducible intro _)
    | with_reducible apply keeps_whenLive
    | with_reducible apply keeps_writeThmCmd
    | with_reducible apply keeps_next
    | with_reducible apply keeps_fault
    | with_reducible apply keeps_outIte
    | dsimp only)

@[simp ↓] theorem keeps_deliver {s0 s : State} (h : Keeps s0 s) (v : Fin 128) : Keeps s0 (deliver s v) := by
  unfold deliver
  try dsimp only
  repeat' (first | with_reducible assumption | (simp +contextual [h]; done) | split)

@[simp ↓] theorem keeps_deliverAll {s0 s : State} (h : Keeps s0 s) : Keeps s0 (deliverAll s) := by
  unfold deliverAll
  try dsimp only
  repeat' (first | with_reducible assumption | (simp +contextual [h]; done) | split)

@[simp ↓] theorem keeps_writeArrayReg {s0 s : State} (h : Keeps s0 s) (n o off : Nat) (v : Word) : Keeps s0 (writeArrayReg s n o off v) := by
  unfold writeArrayReg
  try dsimp only
  repeat' (first | with_reducible assumption | (simp +contextual [h]; done) | split)

@[simp ↓] theorem keeps_writeEngineReg {s0 s : State} (h : Keeps s0 s) (e o off : Nat) (v : Word) : Keeps s0 (writeEngineReg s e o off v) := by
  unfold writeEngineReg
  try dsimp only
  repeat' (first | with_reducible assumption | (simp +contextual [h]; done) | split)

@[simp ↓] theorem keeps_writeRilazReg {s0 s : State} (h : Keeps s0 s) (off : Nat) (v : Word) : Keeps s0 (writeRilazReg s off v) := by
  unfold writeRilazReg
  try dsimp only
  repeat' (first | with_reducible assumption | (simp +contextual [h]; done) | split)

@[simp ↓] theorem keeps_writeDispReg {s0 s : State} (h : Keeps s0 s) (off : Nat) (v : Word) : Keeps s0 (writeDispReg s off v) := by
  unfold writeDispReg
  try dsimp only
  repeat' (first | with_reducible assumption | (simp +contextual [h]; done) | split)

@[simp ↓] theorem keeps_writeFabReg {s0 s : State} (h : Keeps s0 s) (off : Nat) (v : Word) : Keeps s0 (writeFabReg s off v) := by
  unfold writeFabReg
  try dsimp only
  repeat' (first | with_reducible assumption | (simp +contextual [h]; done) | split)

@[simp ↓] theorem keeps_writeScrubCtrl {s0 s : State} (h : Keeps s0 s) (v : Word) : Keeps s0 (writeScrubCtrl s v) := by
  unfold writeScrubCtrl
  try dsimp only
  repeat' (first
    | with_reducible assumption
    | (with_reducible intro _)
    | with_reducible apply keeps_storeReg
    | with_reducible apply keeps_logConflict
    | with_reducible apply keeps_ite
    | with_reducible apply keeps_foldl
    | split
    | dsimp only)

@[simp ↓] theorem keeps_writeErrReg {s0 s : State} (h : Keeps s0 s) (off : Nat) (v : Word) : Keeps s0 (writeErrReg s off v) := by
  unfold writeErrReg
  try dsimp only
  repeat' (first | with_reducible assumption | (simp +contextual [h]; done) | split)

@[simp ↓] theorem keeps_writeLowReg {s0 s : State} (h : Keeps s0 s) (off : Nat) (v : Word) : Keeps s0 (writeLowReg s off v) := by
  unfold writeLowReg
  try dsimp only
  repeat' (first
    | with_reducible assumption
    | (with_reducible intro _)
    | with_reducible apply keeps_writePwrCtrl
    | with_reducible apply keeps_writePwrCmd
    | with_reducible apply keeps_writeThmCmd
    | with_reducible apply keeps_writeBootCmd
    | with_reducible apply keeps_writeFlCmd
    | with_reducible apply keeps_writeSecCmd
    | with_reducible apply keeps_writeRelayCmd
    | with_reducible apply keeps_deliver
    | with_reducible apply keeps_storeReg
    | with_reducible apply keeps_ite
    | split)

@[simp ↓] theorem keeps_writeFarReg {s0 s : State} (h : Keeps s0 s) (off : Nat) (v : Word) : Keeps s0 (writeFarReg s off v) := by
  unfold writeFarReg
  try dsimp only
  repeat' (first | with_reducible assumption | (simp +contextual [h]; done) | split)

@[simp ↓] theorem keeps_writeReg {s0 s : State} (h : Keeps s0 s) (off : Nat) (v : Word) : Keeps s0 (writeReg s off v) := by
  unfold writeReg
  try dsimp only
  repeat' (first | with_reducible assumption | (simp +contextual [h]; done) | split)

@[simp ↓] theorem keeps_hardwareSets {s0 s : State} (h : Keeps s0 s) (off : Nat) (hw : Word) : Keeps s0 (hardwareSets s off hw) := by
  unfold hardwareSets
  try dsimp only
  repeat' (first | with_reducible assumption | (simp +contextual [h]; done) | split)

@[simp ↓] theorem keeps_settleWrite {s0 t : State} (h : Keeps s0 t) (v : Word) (s : State) (c : Fin 8 × Nat) : Keeps s0 (settleWrite v s t c) := by
  unfold settleWrite
  repeat' (first
    | with_reducible assumption
    | with_reducible apply keeps_triggerVector
    | with_reducible apply keeps_clrRegBit
    | with_reducible apply keeps_ite)

@[simp ↓] theorem keeps_writeAt {s0 s : State} (h : Keeps s0 s) (off : Nat) (v hw : Word) : Keeps s0 (writeAt s off v hw) := by
  unfold writeAt
  try dsimp only
  repeat' (first
    | with_reducible assumption
    | (with_reducible intro _)
    | with_reducible apply keeps_hardwareSets
    | with_reducible apply keeps_writeReg
    | with_reducible apply keeps_settleWrite
    | with_reducible apply keeps_ite
    | with_reducible apply keeps_foldl
    | split)

@[simp ↓] theorem keeps_accessWrite {s0 s : State} (h : Keeps s0 s) (off : Nat) (size : AccSize) (data : BitVec 64) (hw : Word) : Keeps s0 (accessWrite s off size data hw) := by
  unfold accessWrite
  try dsimp only
  repeat' (first | with_reducible assumption | (simp +contextual [h]; done) | split)

@[simp ↓] theorem keeps_applyParams {s0 s : State} (h : Keeps s0 s) (rs : List (Nat × Word)) (p : Nat → Bool) : Keeps s0 (applyParams s rs p) := by
  unfold applyParams
  try dsimp only
  repeat' (first | with_reducible assumption | (simp +contextual [h]; done) | split)

@[simp ↓] theorem keeps_showSlot {s0 s : State} (h : Keeps s0 s) (k status : Nat) : Keeps s0 (showSlot s k status) := by
  unfold showSlot
  try dsimp only
  repeat' (first | with_reducible assumption | (simp +contextual [h]; done) | split)

@[simp ↓] theorem keeps_measureSections {s0 s : State} (h : Keeps s0 s) (i : ImageRec) (m ty : Nat) : Keeps s0 (measureSections s i m ty) := by
  unfold measureSections
  try dsimp only
  repeat' (first | with_reducible assumption | (simp +contextual [h]; done) | split)

@[simp ↓] theorem keeps_takeImage {s0 s : State} (h : Keeps s0 s) (k : Nat) : Keeps s0 (takeImage s k) := by
  unfold takeImage
  try dsimp only
  repeat' (first
    | with_reducible assumption
    | (with_reducible intro _)
    | with_reducible apply keeps_setRegFld
    | with_reducible apply keeps_measureSections
    | with_reducible apply keeps_extend
    | with_reducible apply keeps_setRegWord
    | with_reducible apply keeps_applyParams
    | with_reducible apply keeps_some
    | with_reducible exact keeps_none
    | simp only [↓Keeps.upd_iff])

end Sys2Proof.Machine
end

