-- ==== Sys2Proof/Laws/KeepsPart7.lean ====
section
/-! SUPPORT. What the operations and commands keep (KeepsBase), in the order of the model's files: Merge, Boot, Faults, HostBus, Scrub, Operands. -/

set_option linter.unusedTactic false
set_option linter.unreachableTactic false
set_option linter.unusedSimpArgs false
set_option linter.unusedVariables false

namespace Sys2Proof.Machine

@[simp ↓] theorem keeps_setChannel {s0 s : State} (h : Keeps s0 s) (ps : List Word) (ch : Nat) : Keeps s0 (setChannel ps s ch) := by
  unfold setChannel
  try dsimp only
  repeat' (first | with_reducible assumption | (simp +contextual [h]; done) | split)

@[simp ↓] theorem keeps_setRegionStart {s0 s : State} (h : Keeps s0 s) (ps : List Word) (p : Nat) : Keeps s0 (setRegionStart ps s p) := by
  unfold setRegionStart
  try dsimp only
  repeat' (first
    | with_reducible assumption
    | (with_reducible intro _)
    | with_reducible apply keeps_setRegWord
    | with_reducible apply keeps_setRegionState
    | with_reducible apply keeps_numberRegion
    | with_reducible apply keeps_ite
    | split)

@[simp ↓] theorem keeps_giveNumber {s0 s : State} (h : Keeps s0 s) (p r : Nat) : Keeps s0 (giveNumber s p r) := by
  unfold giveNumber
  try dsimp only
  repeat' (first | with_reducible assumption | (simp +contextual [h]; done) | split)

@[simp ↓] theorem keeps_applyMerged {s0 s : State} (h : Keeps s0 s) : Keeps s0 (applyMerged s) := by
  unfold applyMerged
  try dsimp only
  repeat' (first
    | with_reducible assumption
    | (with_reducible intro _)
    | with_reducible apply keeps_setChannel
    | with_reducible apply keeps_setRegionStart
    | with_reducible apply keeps_setRegWord
    | with_reducible apply keeps_giveNumber
    | with_reducible apply keeps_countRegions
    | with_reducible apply keeps_countSpares
    | with_reducible apply keeps_numberSlices
    | with_reducible apply keeps_foldl
    | simp only [↓Keeps.upd_iff]
    | dsimp only)

@[simp ↓] theorem keeps_enterFailures {s0 s : State} (h : Keeps s0 s) (new : List Word) (auto : Bool) : Keeps s0 (enterFailures s new auto) := by
  unfold enterFailures
  try dsimp only
  repeat' (first
    | with_reducible assumption
    | (with_reducible intro _)
    | with_reducible apply keeps_raiseErr
    | with_reducible apply keeps_confirmEvery
    | with_reducible apply keeps_ite
    | simp only [↓Keeps.upd_iff]
    | split
    | dsimp only)

@[simp ↓] theorem keeps_mergeParts {s0 s : State} (h : Keeps s0 s) : Keeps s0 (mergeParts s).1 := by
  unfold mergeParts
  try dsimp only
  repeat' (first | with_reducible assumption | (simp +contextual [h]; done) | split)

@[simp ↓] theorem keeps_resetRegs {s0 s : State} (h : Keeps s0 s) (warm : Bool) : Keeps s0 (resetRegs s warm) := by
  unfold resetRegs
  try dsimp only
  repeat' (first
    | with_reducible assumption
    | (with_reducible intro _)
    | with_reducible apply keeps_setRegWord
    | with_reducible apply keeps_regsFilter
    | with_reducible apply keeps_ite
    | simp only [↓Keeps.upd_iff]
    | split
    | dsimp only)

@[simp ↓] theorem keeps_cutFlash {s0 s : State} (h : Keeps s0 s) : Keeps s0 (cutFlash s) := by
  unfold cutFlash
  try dsimp only
  repeat' (first | with_reducible assumption | (simp +contextual [h]; done) | split)

@[simp ↓] theorem keeps_stopAll {s0 s : State} (h : Keeps s0 s) : Keeps s0 (stopAll s) := by
  unfold stopAll
  try dsimp only
  repeat' (first
    | with_reducible assumption
    | (with_reducible intro _)
    | with_reducible apply keeps_loseCore
    | with_reducible apply keeps_cutFlash
    | simp only [↓Keeps.upd_iff])

@[simp ↓] theorem keeps_execWarmReset {s0 s : State} (h : Keeps s0 s) (lowCycles : Nat) : OutKeeps s0 (execWarmReset lowCycles s) := by
  unfold execWarmReset
  try dsimp only
  repeat' (first
    | with_reducible assumption
    | (with_reducible intro _)
    | with_reducible apply keeps_resetRegs
    | with_reducible apply keeps_stopAll
    | with_reducible apply keeps_ite
    | with_reducible apply keeps_next
    | with_reducible apply keeps_fault
    | with_reducible apply keeps_outIte
    | simp only [↓Keeps.upd_iff]
    | split)

@[simp ↓] theorem keeps_execPowerLoss {s0 s : State} (h : Keeps s0 s) : OutKeeps s0 (execPowerLoss s) := by
  unfold execPowerLoss
  try dsimp only
  repeat' (first
    | with_reducible assumption
    | (with_reducible intro _)
    | with_reducible apply keeps_resetRegs
    | with_reducible apply keeps_stopAll
    | with_reducible apply keeps_next
    | with_reducible apply keeps_fault
    | with_reducible apply keeps_outIte
    | simp only [↓Keeps.upd_iff])

@[simp ↓] theorem keeps_beginStart {s0 s : State} (h : Keeps s0 s) (supervised : Bool) (smbAddr : BitVec 2) : Keeps s0 (beginStart s supervised smbAddr) := by
  unfold beginStart
  try dsimp only
  repeat' (first
    | with_reducible assumption
    | (with_reducible intro _)
    | with_reducible apply keeps_resetRegs
    | with_reducible apply keeps_stopAll
    | with_reducible apply keeps_setRegWord
    | with_reducible apply keeps_logRepair
    | with_reducible apply keeps_setRegBytes
    | with_reducible apply keeps_setRegFld
    | with_reducible apply keeps_setRegBit
    | with_reducible apply keeps_beginStep
    | with_reducible apply keeps_ite
    | simp only [↓Keeps.upd_iff]
    | split)

@[simp ↓] theorem keeps_execPower {s0 s : State} (h : Keeps s0 s) (volt1 volt2 : Nat) (stbyOk : Bool) (railFail : Option Byte) (supervised : Bool) (smbAddr : BitVec 2) : OutKeeps s0 (execPower volt1 volt2 stbyOk railFail supervised smbAddr s) := by
  unfold execPower
  try dsimp only
  repeat' (first
    | with_reducible assumption
    | (with_reducible intro _)
    | with_reducible apply keeps_beginStart
    | with_reducible apply keeps_beginStep
    | with_reducible apply keeps_failStep
    | with_reducible apply keeps_completeStep
    | with_reducible apply keeps_ite
    | with_reducible apply keeps_next
    | with_reducible apply keeps_fault
    | with_reducible apply keeps_outIte
    | with_reducible apply keeps_some
    | with_reducible exact keeps_none
    | simp only [↓Keeps.upd_iff]
    | (refine keeps_of_some ?_ (by assumption))
    | (refine keeps_of_snd ?_ (by assumption))
    | (refine keeps_of_fst ?_ (by assumption))
    | split
    | dsimp only)

@[simp ↓] theorem keeps_runStep {s0 s : State} (h : Keeps s0 s) (k : Nat) (f : State → State) (hf : ∀ x0, Keeps s0 x0 → Keeps s0 (f x0)) : Keeps s0 (runStep s k f) := by
  unfold runStep
  try dsimp only
  repeat' (first | with_reducible assumption | (simp +contextual [h, hf]; done) | split)

@[simp ↓] theorem keeps_execClocks {s0 s : State} (h : Keeps s0 s) (ref25 ref156 ref100 : Bool) (pllFail : Option Byte) : OutKeeps s0 (execClocks ref25 ref156 ref100 pllFail s) := by
  unfold execClocks
  try dsimp only
  repeat' (first
    | with_reducible assumption
    | (with_reducible intro _)
    | with_reducible apply keeps_runStep
    | with_reducible apply keeps_failStep
    | with_reducible apply keeps_completeStep
    | with_reducible apply keeps_extend
    | with_reducible apply keeps_ite
    | with_reducible apply keeps_next
    | with_reducible apply keeps_fault
    | with_reducible apply keeps_outIte
    | with_reducible apply keeps_some
    | with_reducible exact keeps_none
    | simp only [↓Keeps.upd_iff]
    | (refine keeps_of_some ?_ (by assumption))
    | (refine keeps_of_snd ?_ (by assumption))
    | (refine keeps_of_fst ?_ (by assumption))
    | split
    | dsimp only)

@[simp ↓] theorem keeps_selectImage {s0 s : State} (h : Keeps s0 s) : Keeps s0 (selectImage s) := by
  unfold selectImage
  try dsimp only
  repeat' (first
    | with_reducible assumption
    | (with_reducible intro _)
    | with_reducible apply keeps_showSlot
    | with_reducible apply keeps_completeStep
    | with_reducible apply keeps_takeImage
    | with_reducible apply keeps_failStep
    | with_reducible apply keeps_ite
    | split)

@[simp ↓] theorem keeps_execImage {s0 s : State} (h : Keeps s0 s) (flashFail : Option (BitVec 27)) (holdReadable : Bool) : OutKeeps s0 (execImage flashFail holdReadable s) := by
  unfold execImage
  try dsimp only
  repeat' (first
    | with_reducible assumption
    | (with_reducible intro _)
    | with_reducible apply keeps_runStep
    | with_reducible apply keeps_failStep
    | with_reducible apply keeps_selectImage
    | with_reducible apply keeps_ite
    | with_reducible apply keeps_next
    | with_reducible apply keeps_fault
    | with_reducible apply keeps_outIte
    | with_reducible apply keeps_some
    | with_reducible exact keeps_none
    | simp only [↓Keeps.upd_iff]
    | (refine keeps_of_some ?_ (by assumption))
    | (refine keeps_of_snd ?_ (by assumption))
    | (refine keeps_of_fst ?_ (by assumption))
    | split
    | dsimp only)

@[simp ↓] theorem keeps_measureRepair {s0 s : State} (h : Keeps s0 s) : Keeps s0 (measureRepair s) := by
  unfold measureRepair
  try dsimp only
  repeat' (first | with_reducible assumption | (simp +contextual [h]; done) | split)

@[simp ↓] theorem keeps_execFuses {s0 s : State} (h : Keeps s0 s) (dxMap rzMap : List Word) (dxOk rzOk : Bool) : OutKeeps s0 (execFuses dxMap rzMap dxOk rzOk s) := by
  unfold execFuses
  try dsimp only
  repeat' (first
    | with_reducible assumption
    | (with_reducible intro _)
    | with_reducible apply keeps_runStep
    | with_reducible apply keeps_failStep
    | with_reducible apply keeps_completeStep
    | with_reducible apply keeps_measureRepair
    | with_reducible apply keeps_applyMerged
    | with_reducible apply keeps_ite
    | with_reducible apply keeps_next
    | with_reducible apply keeps_fault
    | with_reducible apply keeps_outIte
    | simp only [↓Keeps.upd_iff]
    | split
    | dsimp only)

@[simp ↓] theorem keeps_runTest {s0 s : State} (h : Keeps s0 s) (k code : Nat) (runs : Bool) (bad : List Word) : Keeps s0 (runTest s k code runs bad) := by
  unfold runTest
  try dsimp only
  repeat' (first
    | with_reducible assumption
    | (with_reducible intro _)
    | with_reducible apply keeps_runStep
    | with_reducible apply keeps_completeStep
    | with_reducible apply keeps_freeWord
    | with_reducible apply keeps_failStep
    | with_reducible apply keeps_ite
    | simp only [↓Keeps.upd_iff]
    | (refine keeps_of_some ?_ (by assumption))
    | (refine keeps_of_snd ?_ (by assumption))
    | (refine keeps_of_fst ?_ (by assumption))
    | split
    | dsimp only)

@[simp ↓] theorem keeps_execBondTest {s0 s : State} (h : Keeps s0 s) (runs : Bool) (bad : List BadPart) : OutKeeps s0 (execBondTest runs bad s) := by
  unfold execBondTest
  try dsimp only
  repeat' (first | with_reducible assumption | (simp +contextual [h]; done) | split)

@[simp ↓] theorem keeps_execSramTest {s0 s : State} (h : Keeps s0 s) (runs : Bool) (bad : List BadPart) : OutKeeps s0 (execSramTest runs bad s) := by
  unfold execSramTest
  try dsimp only
  repeat' (first | with_reducible assumption | (simp +contextual [h]; done) | split)

@[simp ↓] theorem keeps_execLogicTest {s0 s : State} (h : Keeps s0 s) (runs : Bool) (bad : List BadPart) : OutKeeps s0 (execLogicTest runs bad s) := by
  unfold execLogicTest
  try dsimp only
  repeat' (first | with_reducible assumption | (simp +contextual [h]; done) | split)

@[simp ↓] theorem keeps_repairStep {s0 s : State} (h : Keeps s0 s) (macroFail : Option Nat) : Keeps s0 (repairStep s macroFail) := by
  unfold repairStep
  try dsimp only
  repeat' (first
    | with_reducible assumption
    | (with_reducible intro _)
    | with_reducible apply keeps_mergeParts
    | with_reducible apply keeps_failStep
    | with_reducible apply keeps_measureRepair
    | with_reducible apply keeps_applyMerged
    | with_reducible apply keeps_enterFailures
    | with_reducible apply keeps_completeStep
    | with_reducible apply keeps_some
    | with_reducible exact keeps_none
    | simp only [↓Keeps.upd_iff]
    | (refine keeps_of_some ?_ (by assumption))
    | (refine keeps_of_snd ?_ (by assumption))
    | (refine keeps_of_fst ?_ (by assumption))
    | split
    | dsimp only)

@[simp ↓] theorem keeps_execRepair {s0 s : State} (h : Keeps s0 s) (macroFail : Option Byte) : OutKeeps s0 (execRepair macroFail s) := by
  unfold execRepair
  try dsimp only
  repeat' (first
    | with_reducible assumption
    | (with_reducible intro _)
    | with_reducible apply keeps_runStep
    | with_reducible apply keeps_repairStep
    | with_reducible apply keeps_next
    | with_reducible apply keeps_fault
    | with_reducible apply keeps_outIte
    | dsimp only)

@[simp ↓] theorem keeps_stageRegion {s0 s : State} (h : Keeps s0 s) (p : Nat) (r : Nat) (logic : Byte) (mem : BitVec 4) : Keeps s0 (stageRegion s p r logic mem) := by
  unfold stageRegion
  try dsimp only
  repeat' (first
    | with_reducible assumption
    | (with_reducible intro _)
    | with_reducible apply keeps_selfTest
    | with_reducible apply keeps_setRegionState
    | with_reducible apply keeps_regionOn
    | with_reducible apply keeps_enableRegion
    | with_reducible apply keeps_ite
    | with_reducible apply keeps_some
    | with_reducible exact keeps_none
    | simp only [↓Keeps.upd_iff]
    | split)

@[simp ↓] theorem keeps_stageNext {s0 s : State} (h : Keeps s0 s) (logicFails : List Byte) (memFails : List (BitVec 4)) : Keeps s0 (stageNext logicFails memFails s) := by
  unfold stageNext
  try dsimp only
  repeat' (first | with_reducible assumption | (simp +contextual [h]; done) | split)

@[simp ↓] theorem keeps_regionsStep {s0 s : State} (h : Keeps s0 s) (logicFails : List Byte) (memFails : List (BitVec 4)) : Keeps s0 (regionsStep s logicFails memFails) := by
  unfold regionsStep
  try dsimp only
  repeat' (first
    | with_reducible assumption
    | (with_reducible intro _)
    | with_reducible apply keeps_getD
    | with_reducible apply keeps_some
    | with_reducible apply keeps_setVdd
    | with_reducible apply keeps_foldl
    | with_reducible apply keeps_stageNext
    | with_reducible apply keeps_failStep
    | with_reducible apply keeps_tryMove
    | with_reducible apply keeps_recomputeTints
    | with_reducible apply keeps_completeStep
    | with_reducible apply keeps_ite
    | with_reducible apply keeps_getD
    | with_reducible apply keeps_iteSnd
    | with_reducible apply keeps_iteFst
    | with_reducible apply keeps_outIte
    | with_reducible apply keeps_issueIte
    | with_reducible apply keeps_foldl
    | with_reducible apply keeps_some
    | with_reducible exact keeps_none
    | with_reducible apply keeps_next
    | with_reducible apply keeps_fault
    | simp only [↓Keeps.upd_iff]
    | with_reducible apply Keeps.updFresh
    | (refine keeps_of_some ?_ (by assumption))
    | (refine keeps_of_snd ?_ (by assumption))
    | (refine keeps_of_fst ?_ (by assumption))
    | split
    | dsimp only)

@[simp ↓] theorem keeps_execRegions {s0 s : State} (h : Keeps s0 s) (logicFails : List Byte) (memFails : List (BitVec 4)) : OutKeeps s0 (execRegions logicFails memFails s) := by
  unfold execRegions
  try dsimp only
  repeat' (first
    | with_reducible assumption
    | (with_reducible intro _)
    | with_reducible apply keeps_runStep
    | with_reducible apply keeps_regionsStep
    | with_reducible apply keeps_next
    | with_reducible apply keeps_fault
    | with_reducible apply keeps_outIte
    | dsimp only)

@[simp ↓] theorem keeps_saveNear {s0 s : State} (h : Keeps s0 s) (c : Nat) (t : NearTrain) : Keeps s0 (saveNear s c t) := by
  unfold saveNear
  try dsimp only
  repeat' (first | with_reducible assumption | (simp +contextual [h]; done) | split)

@[simp ↓] theorem keeps_trainController {s0 s : State} (h : Keeps s0 s) (trained : List NearTrain) (c : Nat) : Keeps s0 (trainController trained s c) := by
  unfold trainController
  try dsimp only
  repeat' (first
    | with_reducible assumption
    | (with_reducible intro _)
    | with_reducible apply keeps_setRegWord
    | with_reducible apply keeps_trained
    | with_reducible apply keeps_some
    | with_reducible apply keeps_saveNear
    | with_reducible apply keeps_none
    | with_reducible apply keeps_ite
    | with_reducible apply keeps_getD
    | with_reducible apply keeps_iteSnd
    | with_reducible apply keeps_iteFst
    | with_reducible apply keeps_outIte
    | with_reducible apply keeps_issueIte
    | with_reducible apply keeps_foldl
    | with_reducible apply keeps_some
    | with_reducible exact keeps_none
    | with_reducible apply keeps_next
    | with_reducible apply keeps_fault
    | simp only [↓Keeps.upd_iff]
    | with_reducible apply Keeps.updFresh
    | (refine keeps_of_some ?_ (by assumption))
    | (refine keeps_of_snd ?_ (by assumption))
    | (refine keeps_of_fst ?_ (by assumption))
    | split
    | dsimp only)

@[simp ↓] theorem keeps_nearStep {s0 s : State} (h : Keeps s0 s) (trained : List NearTrain) : Keeps s0 (nearStep s trained) := by
  unfold nearStep
  try dsimp only
  repeat' (first
    | with_reducible assumption
    | (with_reducible intro _)
    | with_reducible apply keeps_applyParams
    | with_reducible apply keeps_trainController
    | with_reducible apply keeps_trained
    | with_reducible apply keeps_clearNear
    | with_reducible apply keeps_numberControllers
    | with_reducible apply keeps_failStep
    | with_reducible apply keeps_recomputeTints
    | with_reducible apply keeps_completeStep
    | with_reducible apply keeps_ite
    | with_reducible apply keeps_foldl
    | split
    | dsimp only)

@[simp ↓] theorem keeps_execNearMem {s0 s : State} (h : Keeps s0 s) (trained : List NearTrain) : OutKeeps s0 (execNearMem trained s) := by
  unfold execNearMem
  try dsimp only
  repeat' (first
    | with_reducible assumption
    | (with_reducible intro _)
    | with_reducible apply keeps_runStep
    | with_reducible apply keeps_nearStep
    | with_reducible apply keeps_trained
    | with_reducible apply keeps_next
    | with_reducible apply keeps_fault
    | with_reducible apply keeps_outIte
    | dsimp only)

@[simp ↓] theorem keeps_farStep {s0 s : State} (h : Keeps s0 s) (found : List FarFound) : Keeps s0 (farStep s found) := by
  unfold farStep
  try dsimp only
  repeat' (first
    | with_reducible assumption
    | (with_reducible intro _)
    | with_reducible apply keeps_applyParams
    | with_reducible apply keeps_trainPort
    | with_reducible apply keeps_stopPort
    | with_reducible apply keeps_failStep
    | with_reducible apply keeps_recomputeTints
    | with_reducible apply keeps_completeStep
    | with_reducible apply keeps_ite
    | with_reducible apply keeps_foldl
    | with_reducible apply keeps_some
    | with_reducible exact keeps_none
    | simp only [↓Keeps.upd_iff]
    | (refine keeps_of_some ?_ (by assumption))
    | (refine keeps_of_snd ?_ (by assumption))
    | (refine keeps_of_fst ?_ (by assumption))
    | split
    | dsimp only)

@[simp ↓] theorem keeps_execFarMem {s0 s : State} (h : Keeps s0 s) (found : List FarFound) : OutKeeps s0 (execFarMem found s) := by
  unfold execFarMem
  try dsimp only
  repeat' (first
    | with_reducible assumption
    | (with_reducible intro _)
    | with_reducible apply keeps_runStep
    | with_reducible apply keeps_farStep
    | with_reducible apply keeps_next
    | with_reducible apply keeps_fault
    | with_reducible apply keeps_outIte
    | dsimp only)

@[simp ↓] theorem keeps_fabricPort {s0 s : State} (h : Keeps s0 s) (trained_ : List TrainResult) (q : Nat) : Keeps s0 (fabricPort trained_ s q) := by
  unfold fabricPort
  try dsimp only
  repeat' (first
    | with_reducible assumption
    | (with_reducible intro _)
    | with_reducible apply keeps_startTraining
    | with_reducible apply keeps_saveTraining
    | with_reducible apply keeps_trained
    | with_reducible apply keeps_ite
    | split)

@[simp ↓] theorem keeps_fabricStep {s0 s : State} (h : Keeps s0 s) (trained_ : List TrainResult) : Keeps s0 (fabricStep s trained_) := by
  unfold fabricStep
  try dsimp only
  repeat' (first
    | with_reducible assumption
    | (with_reducible intro _)
    | with_reducible apply keeps_applyParams
    | with_reducible apply keeps_fabricPort
    | with_reducible apply keeps_failStep
    | with_reducible apply keeps_recomputeTints
    | with_reducible apply keeps_completeStep
    | with_reducible apply keeps_ite
    | with_reducible apply keeps_foldl
    | split)

@[simp ↓] theorem keeps_execFabric {s0 s : State} (h : Keeps s0 s) (trained_ : List TrainResult) : OutKeeps s0 (execFabric trained_ s) := by
  unfold execFabric
  try dsimp only
  repeat' (first
    | with_reducible assumption
    | (with_reducible intro _)
    | with_reducible apply keeps_runStep
    | with_reducible apply keeps_fabricStep
    | with_reducible apply keeps_next
    | with_reducible apply keeps_fault
    | with_reducible apply keeps_outIte
    | dsimp only)

@[simp ↓] theorem keeps_execJoin {s0 s : State} (h : Keeps s0 s) : OutKeeps s0 (execJoin s) := by
  unfold execJoin
  try dsimp only
  repeat' (first
    | with_reducible assumption
    | (with_reducible intro _)
    | with_reducible apply keeps_runStep
    | with_reducible apply keeps_startJoin
    | with_reducible apply keeps_ite
    | with_reducible apply keeps_next
    | with_reducible apply keeps_fault
    | with_reducible apply keeps_outIte
    | split)

@[simp ↓] theorem keeps_loadStep {s0 s : State} (h : Keeps s0 s) : Keeps s0 (loadStep s) := by
  unfold loadStep
  try dsimp only
  repeat' (first
    | with_reducible assumption
    | (with_reducible intro _)
    | with_reducible apply keeps_applyParams
    | with_reducible apply keeps_clrRegBit
    | with_reducible apply keeps_zeroHold
    | with_reducible apply keeps_applyHold
    | with_reducible apply keeps_clearBank
    | with_reducible apply keeps_setRegWord
    | with_reducible apply keeps_measureSections
    | with_reducible apply keeps_foldl
    | with_reducible apply keeps_some
    | with_reducible exact keeps_none
    | simp only [↓Keeps.upd_iff]
    | (refine keeps_of_some ?_ (by assumption))
    | (refine keeps_of_snd ?_ (by assumption))
    | (refine keeps_of_fst ?_ (by assumption))
    | split
    | dsimp only)

@[simp ↓] theorem keeps_execLoad {s0 s : State} (h : Keeps s0 s) (failSection : Option Byte) : OutKeeps s0 (execLoad failSection s) := by
  unfold execLoad
  try dsimp only
  repeat' (first
    | with_reducible assumption
    | (with_reducible intro _)
    | with_reducible apply keeps_runStep
    | with_reducible apply keeps_failStep
    | with_reducible apply keeps_completeStep
    | with_reducible apply keeps_recomputeTints
    | with_reducible apply keeps_loadStep
    | with_reducible apply keeps_next
    | with_reducible apply keeps_fault
    | with_reducible apply keeps_outIte
    | with_reducible apply keeps_some
    | with_reducible exact keeps_none
    | simp only [↓Keeps.upd_iff]
    | (refine keeps_of_some ?_ (by assumption))
    | (refine keeps_of_snd ?_ (by assumption))
    | (refine keeps_of_fst ?_ (by assumption))
    | split
    | dsimp only)

@[simp ↓] theorem keeps_execReady {s0 s : State} (h : Keeps s0 s) : OutKeeps s0 (execReady s) := by
  unfold execReady
  try dsimp only
  repeat' (first
    | with_reducible assumption
    | (with_reducible intro _)
    | with_reducible apply keeps_runStep
    | with_reducible apply keeps_completeStep
    | with_reducible apply keeps_next
    | with_reducible apply keeps_fault
    | with_reducible apply keeps_outIte
    | dsimp only)

@[simp ↓] theorem keeps_execGo {s0 s : State} (h : Keeps s0 s) (v : Word) : OutKeeps s0 (execGo v s) := by
  unfold execGo
  try dsimp only
  repeat' (first
    | with_reducible assumption
    | (with_reducible intro _)
    | with_reducible apply keeps_whenLive
    | with_reducible apply keeps_writeBootCmd
    | with_reducible apply keeps_next
    | with_reducible apply keeps_fault
    | with_reducible apply keeps_outIte
    | dsimp only)

@[simp ↓] theorem keeps_execRetry {s0 s : State} (h : Keeps s0 s) (v : Word) : OutKeeps s0 (execRetry v s) := by
  unfold execRetry
  try dsimp only
  repeat' (first
    | with_reducible assumption
    | (with_reducible intro _)
    | with_reducible apply keeps_whenLive
    | with_reducible apply keeps_writeBootCmd
    | with_reducible apply keeps_next
    | with_reducible apply keeps_fault
    | with_reducible apply keeps_outIte
    | dsimp only)

@[simp ↓] theorem keeps_execPllLossOfLock {s0 s : State} (h : Keeps s0 s) (which : ClockLoss) : OutKeeps s0 (execPllLossOfLock which s) := by
  unfold execPllLossOfLock
  try dsimp only
  repeat' (first | with_reducible assumption | (simp +contextual [h]; done) | split)

@[simp ↓] theorem keeps_execDeviceFault {s0 s : State} (h : Keeps s0 s) (cause : DeviceCause) : OutKeeps s0 (execDeviceFault cause s) := by
  unfold execDeviceFault
  try dsimp only
  repeat' (first
    | with_reducible assumption
    | (with_reducible intro _)
    | with_reducible apply keeps_next
    | with_reducible apply keeps_some
    | with_reducible apply keeps_deviceFault
    | with_reducible apply keeps_uncorrectable
    | with_reducible apply keeps_none
    | with_reducible apply keeps_ite
    | with_reducible apply keeps_getD
    | with_reducible apply keeps_iteSnd
    | with_reducible apply keeps_iteFst
    | with_reducible apply keeps_outIte
    | with_reducible apply keeps_issueIte
    | with_reducible apply keeps_foldl
    | with_reducible apply keeps_some
    | with_reducible exact keeps_none
    | with_reducible apply keeps_next
    | with_reducible apply keeps_fault
    | simp only [↓Keeps.upd_iff]
    | with_reducible apply Keeps.updFresh
    | (refine keeps_of_some ?_ (by assumption))
    | (refine keeps_of_snd ?_ (by assumption))
    | (refine keeps_of_fst ?_ (by assumption))
    | split
    | dsimp only)

@[simp ↓] theorem keeps_bar2Error {s0 s : State} (h : Keeps s0 s) (write : Bool) (a : Nat) : Keeps s0 (bar2Error s write a) := by
  unfold bar2Error
  try dsimp only
  repeat' (first
    | with_reducible assumption
    | (with_reducible intro _)
    | with_reducible apply keeps_setRegWord
    | with_reducible apply keeps_raiseHost)

@[simp ↓] theorem keeps_takeBar0 {s0 s : State} (h : Keeps s0 s) (n : Nat) : Keeps s0 (takeBar0 n s) := by
  induction n generalizing s with
  | zero => exact h
  | succ n ih =>
    unfold takeBar0
    split
    · exact ih (keeps_serveHost (keeps_accessWrite (by simp only [↓Keeps.upd_iff]; exact h) ..) _)
    · exact h

@[simp ↓] theorem keeps_serveWaiting {s0 s : State} (h : Keeps s0 s) : Keeps s0 (serveWaiting s) := by
  unfold serveWaiting
  try dsimp only
  repeat' (first | with_reducible assumption | (simp +contextual [h]; done) | split)

@[simp ↓] theorem keeps_hostAccess {s0 s : State} (h : Keeps s0 s) (x : HostReq) : Keeps s0 (hostAccess s x) := by
  unfold hostAccess
  try dsimp only
  repeat' (first | with_reducible assumption | (simp +contextual [h]; done) | split)

@[simp ↓] theorem keeps_execRegisterWrite {s0 s : State} (h : Keeps s0 s) (path : AccPath) (off : BitVec 26) (size : AccSize) (data : BitVec 64) (poisoned : Bool) (hwSet : Word) : OutKeeps s0 (execRegisterWrite path off size data poisoned hwSet s) := by
  unfold execRegisterWrite
  try dsimp only
  repeat' (first | with_reducible assumption | (simp +contextual [h]; done) | split)

@[simp ↓] theorem keeps_execScRequest {s0 s : State} (h : Keeps s0 s) (a : ScArrival) : OutKeeps s0 (execScRequest a s) := by
  unfold execScRequest
  try dsimp only
  repeat' (first
    | with_reducible assumption
    | (with_reducible intro _)
    | with_reducible apply keeps_next
    | with_reducible apply keeps_serveWaiting
    | with_reducible apply keeps_checkSc
    | with_reducible apply keeps_countHold
    | with_reducible apply keeps_ite
    | with_reducible apply keeps_getD
    | with_reducible apply keeps_iteSnd
    | with_reducible apply keeps_iteFst
    | with_reducible apply keeps_outIte
    | with_reducible apply keeps_issueIte
    | with_reducible apply keeps_foldl
    | with_reducible apply keeps_some
    | with_reducible exact keeps_none
    | with_reducible apply keeps_next
    | with_reducible apply keeps_fault
    | simp only [↓Keeps.upd_iff]
    | with_reducible apply Keeps.updFresh
    | (refine keeps_of_some ?_ (by assumption))
    | (refine keeps_of_snd ?_ (by assumption))
    | (refine keeps_of_fst ?_ (by assumption))
    | split
    | dsimp only)

@[simp ↓] theorem keeps_execScMissFill {s0 s : State} (h : Keeps s0 s) (f : MissFill) : OutKeeps s0 (execScMissFill f s) := by
  unfold execScMissFill
  try dsimp only
  repeat' (first
    | with_reducible assumption
    | (with_reducible intro _)
    | with_reducible apply keeps_next
    | with_reducible apply keeps_serveWaiting
    | with_reducible apply keeps_fillMiss
    | with_reducible apply keeps_checkNear
    | with_reducible apply keeps_ite
    | with_reducible apply keeps_getD
    | with_reducible apply keeps_iteSnd
    | with_reducible apply keeps_iteFst
    | with_reducible apply keeps_outIte
    | with_reducible apply keeps_issueIte
    | with_reducible apply keeps_foldl
    | with_reducible apply keeps_some
    | with_reducible exact keeps_none
    | with_reducible apply keeps_next
    | with_reducible apply keeps_fault
    | simp only [↓Keeps.upd_iff]
    | with_reducible apply Keeps.updFresh
    | (refine keeps_of_some ?_ (by assumption))
    | (refine keeps_of_snd ?_ (by assumption))
    | (refine keeps_of_fst ?_ (by assumption))
    | split
    | dsimp only)

@[simp ↓] theorem keeps_execTintEpoch {s0 s : State} (h : Keeps s0 s) : OutKeeps s0 (execTintEpoch s) := by
  unfold execTintEpoch
  try dsimp only
  repeat' (first
    | with_reducible assumption
    | (with_reducible intro _)
    | with_reducible apply keeps_next
    | with_reducible apply keeps_serveWaiting
    | with_reducible apply keeps_endEpoch
    | with_reducible apply keeps_ite
    | with_reducible apply keeps_getD
    | with_reducible apply keeps_iteSnd
    | with_reducible apply keeps_iteFst
    | with_reducible apply keeps_outIte
    | with_reducible apply keeps_issueIte
    | with_reducible apply keeps_foldl
    | with_reducible apply keeps_some
    | with_reducible exact keeps_none
    | with_reducible apply keeps_next
    | with_reducible apply keeps_fault
    | simp only [↓Keeps.upd_iff]
    | with_reducible apply Keeps.updFresh
    | (refine keeps_of_some ?_ (by assumption))
    | (refine keeps_of_snd ?_ (by assumption))
    | (refine keeps_of_fst ?_ (by assumption))
    | split
    | dsimp only)

@[simp ↓] theorem keeps_execWireReplacementComplete {s0 s : State} (h : Keeps s0 s) (ch : Fin 114) (write : Bool) : OutKeeps s0 (execWireReplacementComplete ch write s) := by
  unfold execWireReplacementComplete
  try dsimp only
  repeat' (first
    | with_reducible assumption
    | (with_reducible intro _)
    | with_reducible apply keeps_next
    | with_reducible apply keeps_serveWaiting
    | with_reducible apply keeps_ite
    | with_reducible apply keeps_getD
    | with_reducible apply keeps_iteSnd
    | with_reducible apply keeps_iteFst
    | with_reducible apply keeps_outIte
    | with_reducible apply keeps_issueIte
    | with_reducible apply keeps_foldl
    | with_reducible apply keeps_some
    | with_reducible exact keeps_none
    | with_reducible apply keeps_next
    | with_reducible apply keeps_fault
    | simp only [↓Keeps.upd_iff]
    | with_reducible apply Keeps.updFresh
    | (refine keeps_of_some ?_ (by assumption))
    | (refine keeps_of_snd ?_ (by assumption))
    | (refine keeps_of_fst ?_ (by assumption))
    | split
    | dsimp only)

@[simp ↓] theorem keeps_execRecalibrationComplete {s0 s : State} (h : Keeps s0 s) (c : Fin 12) (ok : Bool) : OutKeeps s0 (execRecalibrationComplete c ok s) := by
  unfold execRecalibrationComplete
  try dsimp only
  repeat' (first
    | with_reducible assumption
    | (with_reducible intro _)
    | with_reducible apply keeps_next
    | with_reducible apply keeps_setRegFld
    | with_reducible apply keeps_serveWaiting
    | with_reducible apply keeps_failController
    | with_reducible apply keeps_ite
    | with_reducible apply keeps_getD
    | with_reducible apply keeps_iteSnd
    | with_reducible apply keeps_iteFst
    | with_reducible apply keeps_outIte
    | with_reducible apply keeps_issueIte
    | with_reducible apply keeps_foldl
    | with_reducible apply keeps_some
    | with_reducible exact keeps_none
    | with_reducible apply keeps_next
    | with_reducible apply keeps_fault
    | simp only [↓Keeps.upd_iff]
    | with_reducible apply Keeps.updFresh
    | (refine keeps_of_some ?_ (by assumption))
    | (refine keeps_of_snd ?_ (by assumption))
    | (refine keeps_of_fst ?_ (by assumption))
    | split
    | dsimp only)

@[simp ↓] theorem keeps_execBar2Read {s0 s : State} (h : Keeps s0 s) (off : BitVec 30) (len : Fin 4097) : OutKeeps s0 (execBar2Read off len s) := by
  unfold execBar2Read
  try dsimp only
  repeat' (first
    | with_reducible assumption
    | (with_reducible intro _)
    | with_reducible apply keeps_next
    | with_reducible apply keeps_hostAccess
    | with_reducible apply keeps_none
    | with_reducible apply keeps_emit
    | with_reducible apply keeps_bar2Error
    | with_reducible apply keeps_ite
    | with_reducible apply keeps_getD
    | with_reducible apply keeps_iteSnd
    | with_reducible apply keeps_iteFst
    | with_reducible apply keeps_outIte
    | with_reducible apply keeps_issueIte
    | with_reducible apply keeps_foldl
    | with_reducible apply keeps_some
    | with_reducible exact keeps_none
    | with_reducible apply keeps_next
    | with_reducible apply keeps_fault
    | simp only [↓Keeps.upd_iff]
    | with_reducible apply Keeps.updFresh
    | (refine keeps_of_some ?_ (by assumption))
    | (refine keeps_of_snd ?_ (by assumption))
    | (refine keeps_of_fst ?_ (by assumption))
    | split
    | dsimp only)

@[simp ↓] theorem keeps_execBar2Write {s0 s : State} (h : Keeps s0 s) (off : BitVec 30) (bytes : List Byte) (poisoned : Bool) : OutKeeps s0 (execBar2Write off bytes poisoned s) := by
  unfold execBar2Write
  try dsimp only
  repeat' (first | with_reducible assumption | (simp +contextual [h]; done) | split)

@[simp ↓] theorem keeps_resetConfig {s0 s : State} (h : Keeps s0 s) : Keeps s0 (resetConfig s) := by
  unfold resetConfig
  try dsimp only
  repeat' (first
    | with_reducible assumption
    | (with_reducible intro _)
    | with_reducible apply keeps_clrRegBit
    | with_reducible apply keeps_setRegWord
    | with_reducible apply keeps_foldl
    | simp only [↓Keeps.upd_iff]
    | dsimp only)

@[simp ↓] theorem keeps_execHotReset {s0 s : State} (h : Keeps s0 s) : OutKeeps s0 (execHotReset s) := by
  unfold execHotReset
  try dsimp only
  repeat' (first
    | with_reducible assumption
    | (with_reducible intro _)
    | with_reducible apply keeps_raiseHost
    | with_reducible apply keeps_resetConfig
    | with_reducible apply keeps_ite
    | with_reducible apply keeps_next
    | with_reducible apply keeps_fault
    | with_reducible apply keeps_outIte
    | split)

@[simp ↓] theorem keeps_showLink {s0 s : State} (h : Keeps s0 s) (rate width : BitVec 3) (flit : Bool) : Keeps s0 (showLink s rate width flit) := by
  unfold showLink
  try dsimp only
  repeat' (first | with_reducible assumption | (simp +contextual [h]; done) | split)

@[simp ↓] theorem keeps_dropLink {s0 s : State} (h : Keeps s0 s) : Keeps s0 (dropLink s) := by
  unfold dropLink
  try dsimp only
  repeat' (first
    | with_reducible assumption
    | (with_reducible intro _)
    | with_reducible apply keeps_raiseHost
    | with_reducible apply keeps_showLink
    | with_reducible apply keeps_resetConfig)

@[simp ↓] theorem keeps_execHostLinkChange {s0 s : State} (h : Keeps s0 s) (rate width : BitVec 3) (flit : Bool) : OutKeeps s0 (execHostLinkChange rate width flit s) := by
  unfold execHostLinkChange
  try dsimp only
  repeat' (first
    | with_reducible assumption
    | (with_reducible intro _)
    | with_reducible apply keeps_dropLink
    | with_reducible apply keeps_showLink
    | with_reducible apply keeps_raiseHost
    | with_reducible apply keeps_ite
    | with_reducible apply keeps_next
    | with_reducible apply keeps_fault
    | with_reducible apply keeps_outIte
    | split)

@[simp ↓] theorem keeps_execPerst {s0 s : State} (h : Keeps s0 s) (high : Bool) : OutKeeps s0 (execPerst high s) := by
  unfold execPerst
  try dsimp only
  repeat' (first
    | with_reducible assumption
    | (with_reducible intro _)
    | with_reducible apply keeps_dropLink
    | with_reducible apply keeps_resetConfig
    | with_reducible apply keeps_ite
    | with_reducible apply keeps_next
    | with_reducible apply keeps_fault
    | with_reducible apply keeps_outIte
    | simp only [↓Keeps.upd_iff]
    | split)

@[simp ↓] theorem keeps_execBusMasterEnable {s0 s : State} (h : Keeps s0 s) : OutKeeps s0 (execBusMasterEnable s) := by
  unfold execBusMasterEnable
  try dsimp only
  repeat' (first
    | with_reducible assumption
    | (with_reducible intro _)
    | with_reducible apply keeps_deliverAll
    | with_reducible apply keeps_setRegBit
    | with_reducible apply keeps_ite
    | with_reducible apply keeps_next
    | with_reducible apply keeps_fault
    | with_reducible apply keeps_outIte
    | simp only [↓Keeps.upd_iff]
    | split)

@[simp ↓] theorem keeps_execBusMasterDisable {s0 s : State} (h : Keeps s0 s) : OutKeeps s0 (execBusMasterDisable s) := by
  unfold execBusMasterDisable
  try dsimp only
  repeat' (first
    | with_reducible assumption
    | (with_reducible intro _)
    | with_reducible apply keeps_clrRegBit
    | with_reducible apply keeps_ite
    | with_reducible apply keeps_next
    | with_reducible apply keeps_fault
    | with_reducible apply keeps_outIte
    | simp only [↓Keeps.upd_iff]
    | split)

@[simp ↓] theorem keeps_execMsixUnmask {s0 s : State} (h : Keeps s0 s) (v : Option (Fin 128)) : OutKeeps s0 (execMsixUnmask v s) := by
  unfold execMsixUnmask
  try dsimp only
  repeat' (first
    | with_reducible assumption
    | (with_reducible intro _)
    | with_reducible apply keeps_deliver
    | with_reducible apply keeps_clrRegBit
    | with_reducible apply keeps_deliverAll
    | with_reducible apply keeps_ite
    | with_reducible apply keeps_next
    | with_reducible apply keeps_fault
    | with_reducible apply keeps_outIte
    | with_reducible apply keeps_some
    | with_reducible exact keeps_none
    | simp only [↓Keeps.upd_iff]
    | (refine keeps_of_some ?_ (by assumption))
    | (refine keeps_of_snd ?_ (by assumption))
    | (refine keeps_of_fst ?_ (by assumption))
    | split
    | dsimp only)

@[simp ↓] theorem keeps_execMsixEnableWrite {s0 s : State} (h : Keeps s0 s) (en fmask : Bool) : OutKeeps s0 (execMsixEnableWrite en fmask s) := by
  unfold execMsixEnableWrite
  try dsimp only
  repeat' (first
    | with_reducible assumption
    | (with_reducible intro _)
    | with_reducible apply keeps_deliverAll
    | with_reducible apply keeps_setRegWord
    | with_reducible apply keeps_ite
    | with_reducible apply keeps_foldl
    | with_reducible apply keeps_next
    | with_reducible apply keeps_fault
    | with_reducible apply keeps_outIte
    | simp only [↓Keeps.upd_iff]
    | split
    | dsimp only)

@[simp ↓] theorem keeps_smbResult {s0 s : State} (h : Keeps s0 s) (code : Nat) : Keeps s0 (smbResult s code) := by
  unfold smbResult
  try dsimp only
  repeat' (first | with_reducible assumption | (simp +contextual [h]; done) | split)

@[simp ↓] theorem keeps_execSmbusRead {s0 s : State} (h : Keeps s0 s) (off : Word) (pecOk : Bool) : OutKeeps s0 (execSmbusRead off pecOk s) := by
  unfold execSmbusRead
  try dsimp only
  repeat' (first
    | with_reducible assumption
    | (with_reducible intro _)
    | with_reducible apply keeps_smbResult
    | with_reducible apply keeps_emit
    | with_reducible apply keeps_freeWord
    | with_reducible apply keeps_ite
    | with_reducible apply keeps_next
    | with_reducible apply keeps_fault
    | with_reducible apply keeps_outIte
    | (refine keeps_of_some ?_ (by assumption))
    | (refine keeps_of_snd ?_ (by assumption))
    | (refine keeps_of_fst ?_ (by assumption))
    | split)

@[simp ↓] theorem keeps_execSmbusWrite {s0 s : State} (h : Keeps s0 s) (off v : Word) (pecOk : Bool) : OutKeeps s0 (execSmbusWrite off v pecOk s) := by
  unfold execSmbusWrite
  try dsimp only
  repeat' (first
    | with_reducible assumption
    | (with_reducible intro _)
    | with_reducible apply keeps_smbResult
    | with_reducible apply keeps_accessWrite
    | with_reducible apply keeps_ite
    | with_reducible apply keeps_next
    | with_reducible apply keeps_fault
    | with_reducible apply keeps_outIte
    | split)

@[simp ↓] theorem keeps_execSmbusStatus {s0 s : State} (h : Keeps s0 s) : OutKeeps s0 (execSmbusStatus s) := by
  unfold execSmbusStatus
  try dsimp only
  repeat' (first | with_reducible assumption | (simp +contextual [h]; done) | split)

@[simp ↓] theorem keeps_execSmbusWake {s0 s : State} (h : Keeps s0 s) (pecOk : Bool) : OutKeeps s0 (execSmbusWake pecOk s) := by
  unfold execSmbusWake
  try dsimp only
  repeat' (first | with_reducible assumption | (simp +contextual [h]; done) | split)

@[simp ↓] theorem keeps_execAlertResponse {s0 s : State} (h : Keeps s0 s) : OutKeeps s0 (execAlertResponse s) := by
  unfold execAlertResponse
  try dsimp only
  repeat' (first | with_reducible assumption | (simp +contextual [h]; done) | split)

@[simp ↓] theorem keeps_selectJtag {s0 s : State} (h : Keeps s0 s) (ir : Byte) : Keeps s0 (selectJtag s ir) := by
  unfold selectJtag
  try dsimp only
  repeat' (first | with_reducible assumption | (simp +contextual [h]; done) | split)

@[simp ↓] theorem keeps_shiftOut {s0 s : State} (h : Keeps s0 s) (w : BitVec 72) : Keeps s0 (shiftOut s w) := by
  unfold shiftOut
  try dsimp only
  repeat' (first | with_reducible assumption | (simp +contextual [h]; done) | split)

@[simp ↓] theorem keeps_execTestLogicReset {s0 s : State} (h : Keeps s0 s) : OutKeeps s0 (execTestLogicReset s) := by
  unfold execTestLogicReset
  try dsimp only
  repeat' (first | with_reducible assumption | (simp +contextual [h]; done) | split)

@[simp ↓] theorem keeps_execExtest {s0 s : State} (h : Keeps s0 s) (scan : BitVec 33) : OutKeeps s0 (execExtest scan s) := by
  unfold execExtest
  try dsimp only
  repeat' (first
    | with_reducible assumption
    | (with_reducible intro _)
    | with_reducible apply keeps_selectJtag
    | with_reducible apply keeps_emit
    | with_reducible apply keeps_next
    | with_reducible apply keeps_fault
    | with_reducible apply keeps_outIte
    | simp only [↓Keeps.upd_iff])

@[simp ↓] theorem keeps_execIdcode {s0 s : State} (h : Keeps s0 s) : OutKeeps s0 (execIdcode s) := by
  unfold execIdcode
  try dsimp only
  repeat' (first
    | with_reducible assumption
    | (with_reducible intro _)
    | with_reducible apply keeps_shiftOut
    | with_reducible apply keeps_selectJtag
    | with_reducible apply keeps_next
    | with_reducible apply keeps_fault
    | with_reducible apply keeps_outIte)

@[simp ↓] theorem keeps_sampled {s0 s : State} (h : Keeps s0 s) : Keeps s0 (sampled s).2 := by
  unfold sampled
  try dsimp only
  repeat' (first | with_reducible assumption | (simp +contextual [h]; done) | split)

@[simp ↓] theorem keeps_execSamplePreload {s0 s : State} (h : Keeps s0 s) (scan : BitVec 33) : OutKeeps s0 (execSamplePreload scan s) := by
  unfold execSamplePreload
  try dsimp only
  repeat' (first
    | with_reducible assumption
    | (with_reducible intro _)
    | with_reducible apply keeps_sampled
    | with_reducible apply keeps_selectJtag
    | with_reducible apply keeps_shiftOut
    | with_reducible apply keeps_next
    | with_reducible apply keeps_fault
    | with_reducible apply keeps_outIte
    | simp only [↓Keeps.upd_iff]
    | (refine keeps_of_some ?_ (by assumption))
    | (refine keeps_of_snd ?_ (by assumption))
    | (refine keeps_of_fst ?_ (by assumption))
    | split)

@[simp ↓] theorem keeps_regaccAccess {s0 s : State} (h : Keeps s0 s) (dr : BitVec 72) : Keeps s0 (regaccAccess s dr).2 := by
  unfold regaccAccess
  try dsimp only
  repeat' (first | with_reducible assumption | (simp +contextual [h]; done) | split)

@[simp ↓] theorem keeps_execRegacc {s0 s : State} (h : Keeps s0 s) (dr : BitVec 72) : OutKeeps s0 (execRegacc dr s) := by
  unfold execRegacc
  try dsimp only
  repeat' (first
    | with_reducible assumption
    | (with_reducible intro _)
    | with_reducible apply keeps_shiftOut
    | with_reducible apply keeps_selectJtag
    | with_reducible apply keeps_regaccAccess
    | with_reducible apply keeps_next
    | with_reducible apply keeps_fault
    | with_reducible apply keeps_outIte
    | simp only [↓Keeps.upd_iff]
    | (refine keeps_of_some ?_ (by assumption))
    | (refine keeps_of_snd ?_ (by assumption))
    | (refine keeps_of_fst ?_ (by assumption))
    | split)

@[simp ↓] theorem keeps_execBypass {s0 s : State} (h : Keeps s0 s) (tdi : Bool) : OutKeeps s0 (execBypass tdi s) := by
  unfold execBypass
  try dsimp only
  repeat' (first
    | with_reducible assumption
    | (with_reducible intro _)
    | with_reducible apply keeps_shiftOut
    | with_reducible apply keeps_selectJtag
    | with_reducible apply keeps_next
    | with_reducible apply keeps_fault
    | with_reducible apply keeps_outIte
    | simp only [↓Keeps.upd_iff])

@[simp ↓] theorem keeps_poisonEntry {s0 s : State} (h : Keeps s0 s) (n loc : Nat) : Keeps s0 (poisonEntry s n loc) := by
  unfold poisonEntry
  try dsimp only
  repeat' (first | with_reducible assumption | (simp +contextual [h]; done) | split)

@[simp ↓] theorem keeps_residueFound {s0 s : State} (h : Keeps s0 s) (i loc : Nat) (where_ : Word) : Keeps s0 (residueFound s i loc where_) := by
  unfold residueFound
  try dsimp only
  repeat' (first | with_reducible assumption | (simp +contextual [h]; done) | split)

@[simp ↓] theorem keeps_damageLine {s0 s : State} (h : Keeps s0 s) (k set way : Nat) (tags : Bool) : Keeps s0 (damageLine s k set way tags) := by
  unfold damageLine
  try dsimp only
  repeat' (first | with_reducible assumption | (simp +contextual [h]; done) | split)

@[simp ↓] theorem keeps_damageSc {s0 s : State} (h : Keeps s0 s) (i loc : Nat) : Keeps s0 (damageSc s i loc) := by
  unfold damageSc
  try dsimp only
  repeat' (first
    | with_reducible assumption
    | (with_reducible intro _)
    | with_reducible apply keeps_damageLine
    | with_reducible apply keeps_setRegBit
    | with_reducible apply keeps_ite
    | with_reducible apply keeps_foldl
    | split
    | dsimp only)

@[simp ↓] theorem keeps_damage {s0 s : State} (h : Keeps s0 s) (k : ScrubKind) (i loc : Nat) : Keeps s0 (damage s k i loc) := by
  unfold damage
  try dsimp only
  repeat' (first | with_reducible assumption | (simp +contextual [h]; done) | split)

@[simp ↓] theorem keeps_visit {s0 s : State} (h : Keeps s0 s) (k : ScrubKind) (i loc detail : Nat) (res : ScrubResult) : Keeps s0 (visit s k i loc detail res) := by
  unfold visit
  try dsimp only
  repeat' (first | with_reducible assumption | (simp +contextual [h]; done) | split)

@[simp ↓] theorem keeps_lapSlow {s0 s : State} (h : Keeps s0 s) (k : ScrubKind) (i : Nat) (lap : Word) : Keeps s0 (lapSlow s k i lap) := by
  unfold lapSlow
  try dsimp only
  repeat' (first | with_reducible assumption | (simp +contextual [h]; done) | split)

@[simp ↓] theorem keeps_endLap {s0 s : State} (h : Keeps s0 s) (k : ScrubKind) (i : Nat) (lap : Word) : Keeps s0 (endLap s k i lap) := by
  unfold endLap
  try dsimp only
  repeat' (first
    | with_reducible assumption
    | (with_reducible intro _)
    | with_reducible apply keeps_lapSlow
    | with_reducible apply keeps_setRegWord
    | with_reducible apply keeps_ite
    | with_reducible apply keeps_getD
    | with_reducible apply keeps_iteSnd
    | with_reducible apply keeps_iteFst
    | with_reducible apply keeps_outIte
    | with_reducible apply keeps_issueIte
    | with_reducible apply keeps_foldl
    | with_reducible apply keeps_some
    | with_reducible exact keeps_none
    | with_reducible apply keeps_next
    | with_reducible apply keeps_fault
    | simp only [↓Keeps.upd_iff]
    | with_reducible apply Keeps.updFresh
    | (refine keeps_of_some ?_ (by assumption))
    | (refine keeps_of_snd ?_ (by assumption))
    | (refine keeps_of_fst ?_ (by assumption))
    | split
    | dsimp only)

@[simp ↓] theorem keeps_execScrubVisit {s0 s : State} (h : Keeps s0 s) (kind : ScrubKind) (inst : Fin 200) (loc : BitVec 32) (detail : BitVec 20) (res : ScrubResult) (lapEnd : Bool) (lap : Word) : OutKeeps s0 (execScrubVisit kind inst loc detail res lapEnd lap s) := by
  unfold execScrubVisit
  try dsimp only
  repeat' (first
    | with_reducible assumption
    | (with_reducible intro _)
    | with_reducible apply keeps_visit
    | with_reducible apply keeps_endLap
    | with_reducible apply keeps_ite
    | with_reducible apply keeps_next
    | with_reducible apply keeps_fault
    | with_reducible apply keeps_outIte
    | split)

@[simp ↓] theorem keeps_execLapSlow {s0 s : State} (h : Keeps s0 s) (kind : ScrubKind) (inst : Fin 200) (lap : Word) : OutKeeps s0 (execLapSlow kind inst lap s) := by
  unfold execLapSlow
  try dsimp only
  repeat' (first | with_reducible assumption | (simp +contextual [h]; done) | split)

@[simp ↓] theorem keeps_aluBody {s0 s : State} (h : Keeps s0 s) (u : Bool) (d : BitVec 8) (f : Group → Nat → Word) (g : Group) (act : List Nat) : IssueKeeps s0 (aluBody u d f s g act) := by
  unfold aluBody
  try dsimp only
  repeat' (first
    | with_reducible assumption
    | (with_reducible intro _)
    | with_reducible apply keeps_issueIte
    | with_reducible apply IssueKeeps.mk
    | dsimp only [id]
    | dsimp only
    | with_reducible apply IssueKeeps.mk
    | dsimp only [id])

@[simp ↓] theorem keeps_fpBody {s0 s : State} (h : Keeps s0 s) (u : Bool) (d : BitVec 8) (f : Group → Nat → Nat × FpFlags) (g : Group) (act : List Nat) : IssueKeeps s0 (fpBody u d f s g act) := by
  unfold fpBody
  try dsimp only
  repeat' (first
    | with_reducible assumption
    | (with_reducible intro _)
    | with_reducible apply keeps_foldl
    | with_reducible apply keeps_issueIte
    | (refine keeps_of_some ?_ (by assumption))
    | (refine keeps_of_snd ?_ (by assumption))
    | (refine keeps_of_fst ?_ (by assumption))
    | split
    | with_reducible apply IssueKeeps.mk
    | dsimp only [id]
    | dsimp only
    | with_reducible apply IssueKeeps.mk
    | dsimp only [id])

@[simp ↓] theorem keeps_predBody {s0 s : State} (h : Keeps s0 s) (d : BitVec 8) (f : Group → Nat → Bool) (g : Group) (act : List Nat) : IssueKeeps s0 (predBody d f s g act) := by
  unfold predBody
  try dsimp only
  repeat' (first
    | with_reducible assumption
    | (with_reducible intro _)
    | with_reducible apply keeps_issueIte
    | with_reducible apply IssueKeeps.mk
    | dsimp only [id]
    | dsimp only
    | with_reducible apply IssueKeeps.mk
    | dsimp only [id])

@[simp ↓] theorem keeps_spaceWrite {s0 s : State} (h : Keeps s0 s) (e : Nat) (g : Group) (sp : Space) (p : Nat) (bs : List Byte) (streaming : Bool) : Keeps s0 (spaceWrite s e g sp p bs streaming) := by
  unfold spaceWrite
  try dsimp only
  repeat' (first | with_reducible assumption | (simp +contextual [h]; done) | split)

end Sys2Proof.Machine
end

