-- ==== Sys2Proof/Laws/KeepsPart8.lean ====
section
/-! SUPPORT. What the operations and commands keep (KeepsBase), in the order of the model's files: ThreadArray, ThreadCtl, ThreadCvt, ThreadFp, ThreadInt, ThreadMem. -/

set_option linter.unusedTactic false
set_option linter.unreachableTactic false
set_option linter.unusedSimpArgs false
set_option linter.unusedVariables false

namespace Sys2Proof.Machine

@[simp ↓] theorem keeps_onceBody {s0 s : State} (h : Keeps s0 s) (f : State → Group → List Nat → IssueRes) (g : Group) (act : List Nat) (hf : ∀ x0 x1 x2, Keeps s0 x0 → IssueKeeps s0 (f x0 x1 x2)) : IssueKeeps s0 (onceBody f s g act) := by
  unfold onceBody
  try dsimp only
  repeat' (first
    | with_reducible assumption
    | (with_reducible intro _)
    | with_reducible apply hf
    | with_reducible apply keeps_ite
    | with_reducible apply keeps_issueIte
    | split
    | with_reducible apply IssueKeeps.mk
    | dsimp only [id]
    | with_reducible apply IssueKeeps.mk
    | dsimp only [id])

@[simp ↓] theorem keeps_onceTrap {s0 s : State} (h : Keeps s0 s) (g : Group) (act : List Nat) (code : Nat) (addr : Addr) : IssueKeeps s0 (onceTrap s g act code addr) := by
  unfold onceTrap
  try dsimp only
  repeat' (first
    | with_reducible assumption
    | (with_reducible intro _)
    | with_reducible apply keeps_issueIte
    | with_reducible apply IssueKeeps.mk
    | dsimp only [id]
    | with_reducible apply IssueKeeps.mk
    | dsimp only [id])

@[simp ↓] theorem keeps_queueBody {s0 : State} (e : Nat) (sl : Fin 48) (r : RForm) (op : Nat) : ∀ s g act, Keeps s0 s → IssueKeeps s0 (queueBody e sl r op s g act) := by
  intro s g act h
  unfold queueBody
  try dsimp only
  repeat' (first
    | with_reducible assumption
    | (with_reducible intro _)
    | with_reducible apply keeps_onceBody
    | with_reducible apply keeps_onceTrap
    | with_reducible apply keeps_issueDesc
    | with_reducible apply keeps_ite
    | with_reducible apply keeps_issueIte
    | simp only [↓Keeps.upd_iff]
    | (refine keeps_of_some ?_ (by assumption))
    | (refine keeps_of_snd ?_ (by assumption))
    | (refine keeps_of_fst ?_ (by assumption))
    | split
    | with_reducible apply IssueKeeps.mk
    | dsimp only [id]
    | dsimp only
    | with_reducible apply IssueKeeps.mk
    | dsimp only [id])

@[simp ↓] theorem keeps_execApass {s0 s : State} (h : Keeps s0 s) (e : Fin 50) (sl : Fin 48) (r : RForm) : OutKeeps s0 (execApass e sl r s) := by
  unfold execApass
  try dsimp only
  repeat' (first
    | with_reducible assumption
    | (with_reducible intro _)
    | with_reducible apply keeps_issue
    | with_reducible apply keeps_queueBody
    | with_reducible apply keeps_next
    | with_reducible apply keeps_fault
    | with_reducible apply keeps_outIte)

@[simp ↓] theorem keeps_execApre {s0 s : State} (h : Keeps s0 s) (e : Fin 50) (sl : Fin 48) (r : RForm) : OutKeeps s0 (execApre e sl r s) := by
  unfold execApre
  try dsimp only
  repeat' (first
    | with_reducible assumption
    | (with_reducible intro _)
    | with_reducible apply keeps_issue
    | with_reducible apply keeps_queueBody
    | with_reducible apply keeps_next
    | with_reducible apply keeps_fault
    | with_reducible apply keeps_outIte)

@[simp ↓] theorem keeps_execAdrain {s0 s : State} (h : Keeps s0 s) (e : Fin 50) (sl : Fin 48) (r : RForm) : OutKeeps s0 (execAdrain e sl r s) := by
  unfold execAdrain
  try dsimp only
  repeat' (first
    | with_reducible assumption
    | (with_reducible intro _)
    | with_reducible apply keeps_issue
    | with_reducible apply keeps_queueBody
    | with_reducible apply keeps_next
    | with_reducible apply keeps_fault
    | with_reducible apply keeps_outIte)

@[simp ↓] theorem keeps_execAwait {s0 s : State} (h : Keeps s0 s) (e : Fin 50) (sl : Fin 48) (r : RForm) : OutKeeps s0 (execAwait e sl r s) := by
  unfold execAwait
  try dsimp only
  repeat' (first
    | with_reducible assumption
    | (with_reducible intro _)
    | with_reducible apply keeps_issue
    | with_reducible apply keeps_onceBody
    | with_reducible apply keeps_aluBody
    | with_reducible apply keeps_ite
    | with_reducible apply keeps_foldl
    | with_reducible apply keeps_next
    | with_reducible apply keeps_fault
    | with_reducible apply keeps_outIte
    | simp only [↓Keeps.upd_iff]
    | split
    | dsimp only
    | with_reducible apply IssueKeeps.mk
    | dsimp only [id])

@[simp ↓] theorem keeps_execLst {s0 s : State} (h : Keeps s0 s) (e : Fin 50) (sl : Fin 48) (r : RForm) : OutKeeps s0 (execLst e sl r s) := by
  unfold execLst
  try dsimp only
  repeat' (first
    | with_reducible assumption
    | (with_reducible intro _)
    | with_reducible apply keeps_issue
    | with_reducible apply keeps_onceBody
    | with_reducible apply keeps_onceTrap
    | with_reducible apply keeps_setArr
    | with_reducible apply keeps_ite
    | with_reducible apply keeps_next
    | with_reducible apply keeps_fault
    | with_reducible apply keeps_outIte
    | with_reducible apply keeps_some
    | with_reducible exact keeps_none
    | simp only [↓Keeps.upd_iff]
    | (refine keeps_of_some ?_ (by assumption))
    | (refine keeps_of_snd ?_ (by assumption))
    | (refine keeps_of_fst ?_ (by assumption))
    | split
    | dsimp only
    | with_reducible apply IssueKeeps.mk
    | dsimp only [id])

@[simp ↓] theorem keeps_execDrel {s0 s : State} (h : Keeps s0 s) (e : Fin 50) (sl : Fin 48) (r : RForm) : OutKeeps s0 (execDrel e sl r s) := by
  unfold execDrel
  try dsimp only
  repeat' (first
    | with_reducible assumption
    | (with_reducible intro _)
    | with_reducible apply keeps_issue
    | with_reducible apply keeps_onceBody
    | with_reducible apply keeps_onceTrap
    | with_reducible apply keeps_setRing
    | with_reducible apply keeps_ite
    | with_reducible apply keeps_next
    | with_reducible apply keeps_fault
    | with_reducible apply keeps_outIte
    | simp only [↓Keeps.upd_iff]
    | split
    | dsimp only
    | with_reducible apply IssueKeeps.mk
    | dsimp only [id])

@[simp ↓] theorem keeps_execDpop {s0 s : State} (h : Keeps s0 s) (e : Fin 50) (sl : Fin 48) (r : RForm) : OutKeeps s0 (execDpop e sl r s) := by
  unfold execDpop
  try dsimp only
  repeat' (first
    | with_reducible assumption
    | (with_reducible intro _)
    | with_reducible apply keeps_issue
    | with_reducible apply keeps_onceBody
    | with_reducible apply keeps_aluBody
    | with_reducible apply keeps_setRing
    | with_reducible apply keeps_next
    | with_reducible apply keeps_fault
    | with_reducible apply keeps_outIte
    | simp only [↓Keeps.upd_iff]
    | (refine keeps_of_some ?_ (by assumption))
    | (refine keeps_of_snd ?_ (by assumption))
    | (refine keeps_of_fst ?_ (by assumption))
    | split
    | dsimp only
    | with_reducible apply IssueKeeps.mk
    | dsimp only [id])

@[simp ↓] theorem keeps_execTarm {s0 s : State} (h : Keeps s0 s) (e : Fin 50) (sl : Fin 48) (r : RForm) : OutKeeps s0 (execTarm e sl r s) := by
  unfold execTarm
  try dsimp only
  repeat' (first
    | with_reducible assumption
    | (with_reducible intro _)
    | with_reducible apply keeps_issue
    | with_reducible apply keeps_onceBody
    | with_reducible apply keeps_onceTrap
    | with_reducible apply keeps_setRegBit
    | with_reducible apply keeps_armTag
    | with_reducible apply keeps_ite
    | with_reducible apply keeps_next
    | with_reducible apply keeps_fault
    | with_reducible apply keeps_outIte
    | split
    | dsimp only
    | with_reducible apply IssueKeeps.mk
    | dsimp only [id])

@[simp ↓] theorem keeps_execTsig {s0 s : State} (h : Keeps s0 s) (e : Fin 50) (sl : Fin 48) (r : RForm) : OutKeeps s0 (execTsig e sl r s) := by
  unfold execTsig
  try dsimp only
  repeat' (first
    | with_reducible assumption
    | (with_reducible intro _)
    | with_reducible apply keeps_issue
    | with_reducible apply keeps_onceBody
    | with_reducible apply keeps_onceTrap
    | with_reducible apply keeps_setRegBit
    | with_reducible apply keeps_countTag
    | with_reducible apply keeps_ite
    | with_reducible apply keeps_next
    | with_reducible apply keeps_fault
    | with_reducible apply keeps_outIte
    | split
    | dsimp only
    | with_reducible apply IssueKeeps.mk
    | dsimp only [id])

@[simp ↓] theorem keeps_scanReport {s0 s : State} (h : Keeps s0 s) (k : ItemKey) (t e : Nat) (ex ew eb : Option Int) : Keeps s0 (scanReport s k t e ex ew eb) := by
  unfold scanReport
  try dsimp only
  repeat' (first | with_reducible assumption | (simp +contextual [h]; done) | split)

@[simp ↓] theorem keeps_execScanrep {s0 s : State} (h : Keeps s0 s) (e : Fin 50) (sl : Fin 48) (r : RForm) : OutKeeps s0 (execScanrep e sl r s) := by
  unfold execScanrep
  try dsimp only
  repeat' (first
    | with_reducible assumption
    | (with_reducible intro _)
    | with_reducible apply keeps_issue
    | with_reducible apply keeps_onceBody
    | with_reducible apply keeps_scanReport
    | with_reducible apply keeps_next
    | with_reducible apply keeps_fault
    | with_reducible apply keeps_outIte
    | dsimp only
    | with_reducible apply IssueKeeps.mk
    | dsimp only [id])

@[simp ↓] theorem keeps_execBr {s0 s : State} (h : Keeps s0 s) (e : Fin 50) (sl : Fin 48) (i : IForm) : OutKeeps s0 (execBr e sl i s) := by
  unfold execBr
  try dsimp only
  repeat' (first
    | with_reducible assumption
    | (with_reducible intro _)
    | with_reducible apply keeps_issue
    | with_reducible apply keeps_next
    | with_reducible apply keeps_fault
    | with_reducible apply keeps_outIte
    | dsimp only
    | with_reducible apply IssueKeeps.mk
    | dsimp only [id])

@[simp ↓] theorem keeps_execBrv {s0 s : State} (h : Keeps s0 s) (e : Fin 50) (sl : Fin 48) (r : RForm) : OutKeeps s0 (execBrv e sl r s) := by
  unfold execBrv
  try dsimp only
  repeat' (first
    | with_reducible assumption
    | (with_reducible intro _)
    | with_reducible apply keeps_issue
    | with_reducible apply keeps_next
    | with_reducible apply keeps_fault
    | with_reducible apply keeps_outIte
    | dsimp only
    | with_reducible apply IssueKeeps.mk
    | dsimp only [id])

@[simp ↓] theorem keeps_execJal {s0 s : State} (h : Keeps s0 s) (e : Fin 50) (sl : Fin 48) (i : IForm) : OutKeeps s0 (execJal e sl i s) := by
  unfold execJal
  try dsimp only
  repeat' (first
    | with_reducible assumption
    | (with_reducible intro _)
    | with_reducible apply keeps_issue
    | with_reducible apply keeps_next
    | with_reducible apply keeps_fault
    | with_reducible apply keeps_outIte
    | dsimp only
    | with_reducible apply IssueKeeps.mk
    | dsimp only [id])

@[simp ↓] theorem keeps_execExit {s0 s : State} (h : Keeps s0 s) (e : Fin 50) (sl : Fin 48) (r : RForm) : OutKeeps s0 (execExit e sl r s) := by
  unfold execExit
  try dsimp only
  repeat' (first
    | with_reducible assumption
    | (with_reducible intro _)
    | with_reducible apply keeps_issue
    | with_reducible apply keeps_settleAll
    | with_reducible apply keeps_next
    | with_reducible apply keeps_fault
    | with_reducible apply keeps_outIte
    | simp only [↓Keeps.upd_iff]
    | with_reducible apply IssueKeeps.mk
    | dsimp only [id]
    | dsimp only
    | with_reducible apply IssueKeeps.mk
    | dsimp only [id])

@[simp ↓] theorem keeps_execNap {s0 s : State} (h : Keeps s0 s) (e : Fin 50) (sl : Fin 48) (i : IForm) : OutKeeps s0 (execNap e sl i s) := by
  unfold execNap
  try dsimp only
  repeat' (first
    | with_reducible assumption
    | (with_reducible intro _)
    | with_reducible apply keeps_issue
    | with_reducible apply keeps_next
    | with_reducible apply keeps_fault
    | with_reducible apply keeps_outIte
    | with_reducible apply keeps_some
    | with_reducible exact keeps_none
    | simp only [↓Keeps.upd_iff]
    | dsimp only
    | with_reducible apply IssueKeeps.mk
    | dsimp only [id])

@[simp ↓] theorem keeps_execRdst {s0 s : State} (h : Keeps s0 s) (e : Fin 50) (sl : Fin 48) (r : RForm) : OutKeeps s0 (execRdst e sl r s) := by
  unfold execRdst
  try dsimp only
  repeat' (first
    | with_reducible assumption
    | (with_reducible intro _)
    | with_reducible apply keeps_issue
    | with_reducible apply keeps_aluBody
    | with_reducible apply keeps_next
    | with_reducible apply keeps_fault
    | with_reducible apply keeps_outIte
    | dsimp only)

@[simp ↓] theorem keeps_execClst {s0 s : State} (h : Keeps s0 s) (e : Fin 50) (sl : Fin 48) (r : RForm) : OutKeeps s0 (execClst e sl r s) := by
  unfold execClst
  try dsimp only
  repeat' (first
    | with_reducible assumption
    | (with_reducible intro _)
    | with_reducible apply keeps_issue
    | with_reducible apply keeps_next
    | with_reducible apply keeps_fault
    | with_reducible apply keeps_outIte
    | simp only [↓Keeps.upd_iff]
    | dsimp only
    | with_reducible apply IssueKeeps.mk
    | dsimp only [id])

@[simp ↓] theorem keeps_execFence {s0 s : State} (h : Keeps s0 s) (e : Fin 50) (sl : Fin 48) (r : RForm) : OutKeeps s0 (execFence e sl r s) := by
  unfold execFence
  try dsimp only
  repeat' (first
    | with_reducible assumption
    | (with_reducible intro _)
    | with_reducible apply keeps_issue
    | with_reducible apply keeps_next
    | with_reducible apply keeps_fault
    | with_reducible apply keeps_outIte
    | dsimp only
    | with_reducible apply IssueKeeps.mk
    | dsimp only [id])

@[simp ↓] theorem keeps_arrive {s0 s : State} (h : Keeps s0 s) (e : Fin 50) (sl : Fin 48) (r : RForm) (masked : Bool) (g : Group) (act : List Nat) : IssueKeeps s0 (arrive e sl r masked s g act) := by
  unfold arrive
  try dsimp only
  repeat' (first
    | with_reducible assumption
    | (with_reducible intro _)
    | with_reducible apply keeps_settleBarrier
    | with_reducible apply keeps_ite
    | with_reducible apply keeps_some
    | with_reducible exact keeps_none
    | with_reducible apply keeps_issueIte
    | simp only [↓Keeps.upd_iff]
    | (refine keeps_of_some ?_ (by assumption))
    | (refine keeps_of_snd ?_ (by assumption))
    | (refine keeps_of_fst ?_ (by assumption))
    | split
    | with_reducible apply IssueKeeps.mk
    | dsimp only [id]
    | dsimp only
    | with_reducible apply IssueKeeps.mk
    | dsimp only [id])

@[simp ↓] theorem keeps_execBar {s0 s : State} (h : Keeps s0 s) (e : Fin 50) (sl : Fin 48) (r : RForm) : OutKeeps s0 (execBar e sl r s) := by
  unfold execBar
  try dsimp only
  repeat' (first
    | with_reducible assumption
    | (with_reducible intro _)
    | with_reducible apply keeps_issue
    | with_reducible apply keeps_arrive
    | with_reducible apply keeps_ite
    | with_reducible apply keeps_next
    | with_reducible apply keeps_fault
    | with_reducible apply keeps_outIte
    | split)

@[simp ↓] theorem keeps_execBarMasked {s0 s : State} (h : Keeps s0 s) (e : Fin 50) (sl : Fin 48) (r : RForm) : OutKeeps s0 (execBarMasked e sl r s) := by
  unfold execBarMasked
  try dsimp only
  repeat' (first
    | with_reducible assumption
    | (with_reducible intro _)
    | with_reducible apply keeps_issue
    | with_reducible apply keeps_arrive
    | with_reducible apply keeps_ite
    | with_reducible apply keeps_next
    | with_reducible apply keeps_fault
    | with_reducible apply keeps_outIte
    | split)

@[simp ↓] theorem keeps_execTrap {s0 s : State} (h : Keeps s0 s) (e : Fin 50) (sl : Fin 48) (i : IForm) : OutKeeps s0 (execTrap e sl i s) := by
  unfold execTrap
  try dsimp only
  repeat' (first
    | with_reducible assumption
    | (with_reducible intro _)
    | with_reducible apply keeps_issue
    | with_reducible apply keeps_next
    | with_reducible apply keeps_fault
    | with_reducible apply keeps_outIte
    | dsimp only
    | with_reducible apply IssueKeeps.mk
    | dsimp only [id])

@[simp ↓] theorem keeps_execRdcyc {s0 s : State} (h : Keeps s0 s) (e : Fin 50) (sl : Fin 48) (r : RForm) : OutKeeps s0 (execRdcyc e sl r s) := by
  unfold execRdcyc
  try dsimp only
  repeat' (first
    | with_reducible assumption
    | (with_reducible intro _)
    | with_reducible apply keeps_issue
    | with_reducible apply keeps_freeWord
    | with_reducible apply keeps_aluBody
    | with_reducible apply keeps_next
    | with_reducible apply keeps_fault
    | with_reducible apply keeps_outIte
    | (refine keeps_of_some ?_ (by assumption))
    | (refine keeps_of_snd ?_ (by assumption))
    | (refine keeps_of_fst ?_ (by assumption))
    | split
    | dsimp only)

@[simp ↓] theorem keeps_fetchFault {s0 s : State} (h : Keeps s0 s) (e sl : Nat) : Keeps s0 (fetchFault s e sl) :=
  keeps_startIssue h _ _ _ _ (fun _ _ => keeps_finishIssue ⟨h, fun _ k => k⟩ ..)

@[simp ↓] theorem keeps_registerError {s0 s : State} (h : Keeps s0 s) (e sl : Nat) (lane : Fin 32) (loc : Word) : Keeps s0 (registerError s e sl lane loc) := by
  unfold registerError
  try dsimp only
  repeat' (first | with_reducible assumption | (simp +contextual [h]; done) | split)

@[simp ↓] theorem keeps_localError {s0 s : State} (h : Keeps s0 s) (e sl word : Nat) (loc : Word) : Keeps s0 (localError s e sl word loc) := by
  unfold localError
  try dsimp only
  repeat' (first | with_reducible assumption | (simp +contextual [h]; done) | split)

@[simp ↓] theorem keeps_ringError {s0 s : State} (h : Keeps s0 s) (e a slot word : Nat) (loc : Word) : Keeps s0 (ringError s e a slot word loc) := by
  unfold ringError
  try dsimp only
  repeat' (first | with_reducible assumption | (simp +contextual [h]; done) | split)

@[simp ↓] theorem keeps_execIllegalInstruction {s0 s : State} (h : Keeps s0 s) (e : Fin 50) (sl : Fin 48) (w : BitVec 64) (what : IssueFault) :
    OutKeeps s0 (execIllegalInstruction e sl w what s) := by
  refine keeps_next ?_
  cases what <;> dsimp only
  case word =>
    split
    · exact h
    · exact keeps_issue h _ _ _ _ (fun _ _ _ k => ⟨k, fun _ k => k⟩)
  all_goals simp [h]

@[simp ↓] theorem keeps_execCvt {s0 s : State} (h : Keeps s0 s) (e : Fin 50) (sl : Fin 48) (src : BitVec 4) (r : RForm) : OutKeeps s0 (execCvt e sl src r s) := by
  unfold execCvt
  try dsimp only
  repeat' (first
    | with_reducible assumption
    | (with_reducible intro _)
    | with_reducible apply keeps_issue
    | with_reducible apply keeps_fpBody
    | with_reducible apply keeps_next
    | with_reducible apply keeps_fault
    | with_reducible apply keeps_outIte
    | dsimp only)

@[simp ↓] theorem keeps_execCvtNar {s0 s : State} (h : Keeps s0 s) (e : Fin 50) (sl : Fin 48) (src : BitVec 4) (r : RForm) : OutKeeps s0 (execCvtNar e sl src r s) := by
  unfold execCvtNar
  try dsimp only
  repeat' (first
    | with_reducible assumption
    | (with_reducible intro _)
    | with_reducible apply keeps_issue
    | with_reducible apply keeps_fpBody
    | with_reducible apply keeps_next
    | with_reducible apply keeps_fault
    | with_reducible apply keeps_outIte
    | dsimp only)

@[simp ↓] theorem keeps_execCvtBlk {s0 s : State} (h : Keeps s0 s) (e : Fin 50) (sl : Fin 48) (src : BitVec 4) (r : RForm) : OutKeeps s0 (execCvtBlk e sl src r s) := by
  unfold execCvtBlk
  refine keeps_next (keeps_issue h _ _ _ _ (fun t g act ht => ?_))
  dsimp only
  split
  · exact ⟨ht, fun _ k => k⟩
  · exact ⟨ht, fun _ k => k⟩

@[simp ↓] theorem keeps_fpOpBody {s0 : State} (r : RForm) (op : FpOp) : ∀ s g act, Keeps s0 s → IssueKeeps s0 (fpOpBody r op s g act) := by
  intro s g act h
  unfold fpOpBody
  try dsimp only
  repeat' (first | with_reducible assumption | (simp +contextual [h]; done) | split)

@[simp ↓] theorem keeps_halfBody {s0 : State} (r : RForm) (f : Nat → Nat → Nat → Nat × FpFlags) : ∀ s g act, Keeps s0 s → IssueKeeps s0 (halfBody r f s g act) := by
  intro s g act h
  unfold halfBody
  try dsimp only
  repeat' (first | with_reducible assumption | (simp +contextual [h]; done) | split)

@[simp ↓] theorem keeps_approxBody {s0 : State} (r : RForm) (f : Approx) : ∀ s g act, Keeps s0 s → IssueKeeps s0 (approxBody r f s g act) := by
  intro s g act h
  unfold approxBody
  try dsimp only
  repeat' (first | with_reducible assumption | (simp +contextual [h]; done) | split)

@[simp ↓] theorem keeps_execFadd {s0 s : State} (h : Keeps s0 s) (e : Fin 50) (sl : Fin 48) (r : RForm) : OutKeeps s0 (execFadd e sl r s) := by
  unfold execFadd
  try dsimp only
  repeat' (first
    | with_reducible assumption
    | (with_reducible intro _)
    | with_reducible apply keeps_issue
    | with_reducible apply keeps_fpOpBody
    | with_reducible apply keeps_next
    | with_reducible apply keeps_fault
    | with_reducible apply keeps_outIte)

@[simp ↓] theorem keeps_execFsub {s0 s : State} (h : Keeps s0 s) (e : Fin 50) (sl : Fin 48) (r : RForm) : OutKeeps s0 (execFsub e sl r s) := by
  unfold execFsub
  try dsimp only
  repeat' (first
    | with_reducible assumption
    | (with_reducible intro _)
    | with_reducible apply keeps_issue
    | with_reducible apply keeps_fpOpBody
    | with_reducible apply keeps_next
    | with_reducible apply keeps_fault
    | with_reducible apply keeps_outIte)

@[simp ↓] theorem keeps_execFmul {s0 s : State} (h : Keeps s0 s) (e : Fin 50) (sl : Fin 48) (r : RForm) : OutKeeps s0 (execFmul e sl r s) := by
  unfold execFmul
  try dsimp only
  repeat' (first
    | with_reducible assumption
    | (with_reducible intro _)
    | with_reducible apply keeps_issue
    | with_reducible apply keeps_fpOpBody
    | with_reducible apply keeps_next
    | with_reducible apply keeps_fault
    | with_reducible apply keeps_outIte)

@[simp ↓] theorem keeps_execFfma {s0 s : State} (h : Keeps s0 s) (e : Fin 50) (sl : Fin 48) (r : RForm) : OutKeeps s0 (execFfma e sl r s) := by
  unfold execFfma
  try dsimp only
  repeat' (first
    | with_reducible assumption
    | (with_reducible intro _)
    | with_reducible apply keeps_issue
    | with_reducible apply keeps_fpBody
    | with_reducible apply keeps_next
    | with_reducible apply keeps_fault
    | with_reducible apply keeps_outIte
    | dsimp only)

@[simp ↓] theorem keeps_execFmin {s0 s : State} (h : Keeps s0 s) (e : Fin 50) (sl : Fin 48) (r : RForm) : OutKeeps s0 (execFmin e sl r s) := by
  unfold execFmin
  try dsimp only
  repeat' (first
    | with_reducible assumption
    | (with_reducible intro _)
    | with_reducible apply keeps_issue
    | with_reducible apply keeps_aluBody
    | with_reducible apply keeps_next
    | with_reducible apply keeps_fault
    | with_reducible apply keeps_outIte
    | dsimp only)

@[simp ↓] theorem keeps_execFmax {s0 s : State} (h : Keeps s0 s) (e : Fin 50) (sl : Fin 48) (r : RForm) : OutKeeps s0 (execFmax e sl r s) := by
  unfold execFmax
  try dsimp only
  repeat' (first
    | with_reducible assumption
    | (with_reducible intro _)
    | with_reducible apply keeps_issue
    | with_reducible apply keeps_aluBody
    | with_reducible apply keeps_next
    | with_reducible apply keeps_fault
    | with_reducible apply keeps_outIte
    | dsimp only)

@[simp ↓] theorem keeps_execFabs {s0 s : State} (h : Keeps s0 s) (e : Fin 50) (sl : Fin 48) (r : RForm) : OutKeeps s0 (execFabs e sl r s) := by
  unfold execFabs
  try dsimp only
  repeat' (first
    | with_reducible assumption
    | (with_reducible intro _)
    | with_reducible apply keeps_issue
    | with_reducible apply keeps_aluBody
    | with_reducible apply keeps_next
    | with_reducible apply keeps_fault
    | with_reducible apply keeps_outIte
    | dsimp only)

@[simp ↓] theorem keeps_execFneg {s0 s : State} (h : Keeps s0 s) (e : Fin 50) (sl : Fin 48) (r : RForm) : OutKeeps s0 (execFneg e sl r s) := by
  unfold execFneg
  try dsimp only
  repeat' (first
    | with_reducible assumption
    | (with_reducible intro _)
    | with_reducible apply keeps_issue
    | with_reducible apply keeps_aluBody
    | with_reducible apply keeps_next
    | with_reducible apply keeps_fault
    | with_reducible apply keeps_outIte
    | dsimp only)

@[simp ↓] theorem keeps_execFcmp {s0 s : State} (h : Keeps s0 s) (e : Fin 50) (sl : Fin 48) (r : RForm) : OutKeeps s0 (execFcmp e sl r s) := by
  unfold execFcmp
  try dsimp only
  repeat' (first
    | with_reducible assumption
    | (with_reducible intro _)
    | with_reducible apply keeps_issue
    | with_reducible apply keeps_predBody
    | with_reducible apply keeps_next
    | with_reducible apply keeps_fault
    | with_reducible apply keeps_outIte
    | dsimp only)

@[simp ↓] theorem keeps_execExp2 {s0 s : State} (h : Keeps s0 s) (e : Fin 50) (sl : Fin 48) (r : RForm) : OutKeeps s0 (execExp2 e sl r s) := by
  unfold execExp2
  try dsimp only
  repeat' (first
    | with_reducible assumption
    | (with_reducible intro _)
    | with_reducible apply keeps_issue
    | with_reducible apply keeps_approxBody
    | with_reducible apply keeps_next
    | with_reducible apply keeps_fault
    | with_reducible apply keeps_outIte)

@[simp ↓] theorem keeps_execLog2 {s0 s : State} (h : Keeps s0 s) (e : Fin 50) (sl : Fin 48) (r : RForm) : OutKeeps s0 (execLog2 e sl r s) := by
  unfold execLog2
  try dsimp only
  repeat' (first
    | with_reducible assumption
    | (with_reducible intro _)
    | with_reducible apply keeps_issue
    | with_reducible apply keeps_approxBody
    | with_reducible apply keeps_next
    | with_reducible apply keeps_fault
    | with_reducible apply keeps_outIte)

@[simp ↓] theorem keeps_execRcp {s0 s : State} (h : Keeps s0 s) (e : Fin 50) (sl : Fin 48) (r : RForm) : OutKeeps s0 (execRcp e sl r s) := by
  unfold execRcp
  try dsimp only
  repeat' (first
    | with_reducible assumption
    | (with_reducible intro _)
    | with_reducible apply keeps_issue
    | with_reducible apply keeps_approxBody
    | with_reducible apply keeps_next
    | with_reducible apply keeps_fault
    | with_reducible apply keeps_outIte)

@[simp ↓] theorem keeps_execRsqrt {s0 s : State} (h : Keeps s0 s) (e : Fin 50) (sl : Fin 48) (r : RForm) : OutKeeps s0 (execRsqrt e sl r s) := by
  unfold execRsqrt
  try dsimp only
  repeat' (first
    | with_reducible assumption
    | (with_reducible intro _)
    | with_reducible apply keeps_issue
    | with_reducible apply keeps_approxBody
    | with_reducible apply keeps_next
    | with_reducible apply keeps_fault
    | with_reducible apply keeps_outIte)

@[simp ↓] theorem keeps_execFdiv {s0 s : State} (h : Keeps s0 s) (e : Fin 50) (sl : Fin 48) (r : RForm) : OutKeeps s0 (execFdiv e sl r s) := by
  unfold execFdiv
  try dsimp only
  repeat' (first
    | with_reducible assumption
    | (with_reducible intro _)
    | with_reducible apply keeps_issue
    | with_reducible apply keeps_fpOpBody
    | with_reducible apply keeps_next
    | with_reducible apply keeps_fault
    | with_reducible apply keeps_outIte)

@[simp ↓] theorem keeps_execHfma2 {s0 s : State} (h : Keeps s0 s) (e : Fin 50) (sl : Fin 48) (r : RForm) : OutKeeps s0 (execHfma2 e sl r s) := by
  unfold execHfma2
  try dsimp only
  repeat' (first
    | with_reducible assumption
    | (with_reducible intro _)
    | with_reducible apply keeps_issue
    | with_reducible apply keeps_halfBody
    | with_reducible apply keeps_next
    | with_reducible apply keeps_fault
    | with_reducible apply keeps_outIte)

@[simp ↓] theorem keeps_execHadd2 {s0 s : State} (h : Keeps s0 s) (e : Fin 50) (sl : Fin 48) (r : RForm) : OutKeeps s0 (execHadd2 e sl r s) := by
  unfold execHadd2
  try dsimp only
  repeat' (first
    | with_reducible assumption
    | (with_reducible intro _)
    | with_reducible apply keeps_issue
    | with_reducible apply keeps_halfBody
    | with_reducible apply keeps_next
    | with_reducible apply keeps_fault
    | with_reducible apply keeps_outIte
    | dsimp only)

@[simp ↓] theorem keeps_execHmul2 {s0 s : State} (h : Keeps s0 s) (e : Fin 50) (sl : Fin 48) (r : RForm) : OutKeeps s0 (execHmul2 e sl r s) := by
  unfold execHmul2
  try dsimp only
  repeat' (first
    | with_reducible assumption
    | (with_reducible intro _)
    | with_reducible apply keeps_issue
    | with_reducible apply keeps_halfBody
    | with_reducible apply keeps_next
    | with_reducible apply keeps_fault
    | with_reducible apply keeps_outIte
    | dsimp only)

@[simp ↓] theorem keeps_intBody {s0 : State} (r : RForm) (f : Word → Word → Word) : ∀ s g act, Keeps s0 s → IssueKeeps s0 (intBody r f s g act) := by
  intro s g act h
  unfold intBody
  try dsimp only
  repeat' (first | with_reducible assumption | (simp +contextual [h]; done) | split)

@[simp ↓] theorem keeps_execIadd {s0 s : State} (h : Keeps s0 s) (e : Fin 50) (sl : Fin 48) (r : RForm) : OutKeeps s0 (execIadd e sl r s) := by
  unfold execIadd
  try dsimp only
  repeat' (first
    | with_reducible assumption
    | (with_reducible intro _)
    | with_reducible apply keeps_issue
    | with_reducible apply keeps_intBody
    | with_reducible apply keeps_next
    | with_reducible apply keeps_fault
    | with_reducible apply keeps_outIte)

@[simp ↓] theorem keeps_execIsub {s0 s : State} (h : Keeps s0 s) (e : Fin 50) (sl : Fin 48) (r : RForm) : OutKeeps s0 (execIsub e sl r s) := by
  unfold execIsub
  try dsimp only
  repeat' (first
    | with_reducible assumption
    | (with_reducible intro _)
    | with_reducible apply keeps_issue
    | with_reducible apply keeps_intBody
    | with_reducible apply keeps_next
    | with_reducible apply keeps_fault
    | with_reducible apply keeps_outIte)

@[simp ↓] theorem keeps_execImul {s0 s : State} (h : Keeps s0 s) (e : Fin 50) (sl : Fin 48) (r : RForm) : OutKeeps s0 (execImul e sl r s) := by
  unfold execImul
  try dsimp only
  repeat' (first
    | with_reducible assumption
    | (with_reducible intro _)
    | with_reducible apply keeps_issue
    | with_reducible apply keeps_intBody
    | with_reducible apply keeps_next
    | with_reducible apply keeps_fault
    | with_reducible apply keeps_outIte)

@[simp ↓] theorem keeps_execImulhiS {s0 s : State} (h : Keeps s0 s) (e : Fin 50) (sl : Fin 48) (r : RForm) : OutKeeps s0 (execImulhiS e sl r s) := by
  unfold execImulhiS
  try dsimp only
  repeat' (first
    | with_reducible assumption
    | (with_reducible intro _)
    | with_reducible apply keeps_issue
    | with_reducible apply keeps_intBody
    | with_reducible apply keeps_next
    | with_reducible apply keeps_fault
    | with_reducible apply keeps_outIte)

@[simp ↓] theorem keeps_execImulhiU {s0 s : State} (h : Keeps s0 s) (e : Fin 50) (sl : Fin 48) (r : RForm) : OutKeeps s0 (execImulhiU e sl r s) := by
  unfold execImulhiU
  try dsimp only
  repeat' (first
    | with_reducible assumption
    | (with_reducible intro _)
    | with_reducible apply keeps_issue
    | with_reducible apply keeps_intBody
    | with_reducible apply keeps_next
    | with_reducible apply keeps_fault
    | with_reducible apply keeps_outIte)

@[simp ↓] theorem keeps_execAnd {s0 s : State} (h : Keeps s0 s) (e : Fin 50) (sl : Fin 48) (r : RForm) : OutKeeps s0 (execAnd e sl r s) := by
  unfold execAnd
  try dsimp only
  repeat' (first
    | with_reducible assumption
    | (with_reducible intro _)
    | with_reducible apply keeps_issue
    | with_reducible apply keeps_intBody
    | with_reducible apply keeps_next
    | with_reducible apply keeps_fault
    | with_reducible apply keeps_outIte)

@[simp ↓] theorem keeps_execOr {s0 s : State} (h : Keeps s0 s) (e : Fin 50) (sl : Fin 48) (r : RForm) : OutKeeps s0 (execOr e sl r s) := by
  unfold execOr
  try dsimp only
  repeat' (first
    | with_reducible assumption
    | (with_reducible intro _)
    | with_reducible apply keeps_issue
    | with_reducible apply keeps_intBody
    | with_reducible apply keeps_next
    | with_reducible apply keeps_fault
    | with_reducible apply keeps_outIte)

@[simp ↓] theorem keeps_execXor {s0 s : State} (h : Keeps s0 s) (e : Fin 50) (sl : Fin 48) (r : RForm) : OutKeeps s0 (execXor e sl r s) := by
  unfold execXor
  try dsimp only
  repeat' (first
    | with_reducible assumption
    | (with_reducible intro _)
    | with_reducible apply keeps_issue
    | with_reducible apply keeps_intBody
    | with_reducible apply keeps_next
    | with_reducible apply keeps_fault
    | with_reducible apply keeps_outIte)

@[simp ↓] theorem keeps_execShl {s0 s : State} (h : Keeps s0 s) (e : Fin 50) (sl : Fin 48) (r : RForm) : OutKeeps s0 (execShl e sl r s) := by
  unfold execShl
  try dsimp only
  repeat' (first
    | with_reducible assumption
    | (with_reducible intro _)
    | with_reducible apply keeps_issue
    | with_reducible apply keeps_intBody
    | with_reducible apply keeps_next
    | with_reducible apply keeps_fault
    | with_reducible apply keeps_outIte)

@[simp ↓] theorem keeps_execShr {s0 s : State} (h : Keeps s0 s) (e : Fin 50) (sl : Fin 48) (r : RForm) : OutKeeps s0 (execShr e sl r s) := by
  unfold execShr
  try dsimp only
  repeat' (first
    | with_reducible assumption
    | (with_reducible intro _)
    | with_reducible apply keeps_issue
    | with_reducible apply keeps_intBody
    | with_reducible apply keeps_next
    | with_reducible apply keeps_fault
    | with_reducible apply keeps_outIte)

@[simp ↓] theorem keeps_execSar {s0 s : State} (h : Keeps s0 s) (e : Fin 50) (sl : Fin 48) (r : RForm) : OutKeeps s0 (execSar e sl r s) := by
  unfold execSar
  try dsimp only
  repeat' (first
    | with_reducible assumption
    | (with_reducible intro _)
    | with_reducible apply keeps_issue
    | with_reducible apply keeps_intBody
    | with_reducible apply keeps_next
    | with_reducible apply keeps_fault
    | with_reducible apply keeps_outIte)

@[simp ↓] theorem keeps_execIminS {s0 s : State} (h : Keeps s0 s) (e : Fin 50) (sl : Fin 48) (r : RForm) : OutKeeps s0 (execIminS e sl r s) := by
  unfold execIminS
  try dsimp only
  repeat' (first
    | with_reducible assumption
    | (with_reducible intro _)
    | with_reducible apply keeps_issue
    | with_reducible apply keeps_intBody
    | with_reducible apply keeps_next
    | with_reducible apply keeps_fault
    | with_reducible apply keeps_outIte)

@[simp ↓] theorem keeps_execImaxS {s0 s : State} (h : Keeps s0 s) (e : Fin 50) (sl : Fin 48) (r : RForm) : OutKeeps s0 (execImaxS e sl r s) := by
  unfold execImaxS
  try dsimp only
  repeat' (first
    | with_reducible assumption
    | (with_reducible intro _)
    | with_reducible apply keeps_issue
    | with_reducible apply keeps_intBody
    | with_reducible apply keeps_next
    | with_reducible apply keeps_fault
    | with_reducible apply keeps_outIte)

@[simp ↓] theorem keeps_execIminU {s0 s : State} (h : Keeps s0 s) (e : Fin 50) (sl : Fin 48) (r : RForm) : OutKeeps s0 (execIminU e sl r s) := by
  unfold execIminU
  try dsimp only
  repeat' (first
    | with_reducible assumption
    | (with_reducible intro _)
    | with_reducible apply keeps_issue
    | with_reducible apply keeps_intBody
    | with_reducible apply keeps_next
    | with_reducible apply keeps_fault
    | with_reducible apply keeps_outIte)

@[simp ↓] theorem keeps_execImaxU {s0 s : State} (h : Keeps s0 s) (e : Fin 50) (sl : Fin 48) (r : RForm) : OutKeeps s0 (execImaxU e sl r s) := by
  unfold execImaxU
  try dsimp only
  repeat' (first
    | with_reducible assumption
    | (with_reducible intro _)
    | with_reducible apply keeps_issue
    | with_reducible apply keeps_intBody
    | with_reducible apply keeps_next
    | with_reducible apply keeps_fault
    | with_reducible apply keeps_outIte)

@[simp ↓] theorem keeps_execIdivS {s0 s : State} (h : Keeps s0 s) (e : Fin 50) (sl : Fin 48) (r : RForm) : OutKeeps s0 (execIdivS e sl r s) := by
  unfold execIdivS
  try dsimp only
  repeat' (first
    | with_reducible assumption
    | (with_reducible intro _)
    | with_reducible apply keeps_issue
    | with_reducible apply keeps_intBody
    | with_reducible apply keeps_next
    | with_reducible apply keeps_fault
    | with_reducible apply keeps_outIte)

@[simp ↓] theorem keeps_execIdivU {s0 s : State} (h : Keeps s0 s) (e : Fin 50) (sl : Fin 48) (r : RForm) : OutKeeps s0 (execIdivU e sl r s) := by
  unfold execIdivU
  try dsimp only
  repeat' (first
    | with_reducible assumption
    | (with_reducible intro _)
    | with_reducible apply keeps_issue
    | with_reducible apply keeps_intBody
    | with_reducible apply keeps_next
    | with_reducible apply keeps_fault
    | with_reducible apply keeps_outIte)

@[simp ↓] theorem keeps_execIremS {s0 s : State} (h : Keeps s0 s) (e : Fin 50) (sl : Fin 48) (r : RForm) : OutKeeps s0 (execIremS e sl r s) := by
  unfold execIremS
  try dsimp only
  repeat' (first
    | with_reducible assumption
    | (with_reducible intro _)
    | with_reducible apply keeps_issue
    | with_reducible apply keeps_intBody
    | with_reducible apply keeps_next
    | with_reducible apply keeps_fault
    | with_reducible apply keeps_outIte)

@[simp ↓] theorem keeps_execIremU {s0 s : State} (h : Keeps s0 s) (e : Fin 50) (sl : Fin 48) (r : RForm) : OutKeeps s0 (execIremU e sl r s) := by
  unfold execIremU
  try dsimp only
  repeat' (first
    | with_reducible assumption
    | (with_reducible intro _)
    | with_reducible apply keeps_issue
    | with_reducible apply keeps_intBody
    | with_reducible apply keeps_next
    | with_reducible apply keeps_fault
    | with_reducible apply keeps_outIte)

@[simp ↓] theorem keeps_execImad {s0 s : State} (h : Keeps s0 s) (e : Fin 50) (sl : Fin 48) (r : RForm) : OutKeeps s0 (execImad e sl r s) := by
  unfold execImad
  try dsimp only
  repeat' (first
    | with_reducible assumption
    | (with_reducible intro _)
    | with_reducible apply keeps_issue
    | with_reducible apply keeps_aluBody
    | with_reducible apply keeps_next
    | with_reducible apply keeps_fault
    | with_reducible apply keeps_outIte
    | dsimp only)

@[simp ↓] theorem keeps_execNot {s0 s : State} (h : Keeps s0 s) (e : Fin 50) (sl : Fin 48) (r : RForm) : OutKeeps s0 (execNot e sl r s) := by
  unfold execNot
  try dsimp only
  repeat' (first
    | with_reducible assumption
    | (with_reducible intro _)
    | with_reducible apply keeps_issue
    | with_reducible apply keeps_aluBody
    | with_reducible apply keeps_next
    | with_reducible apply keeps_fault
    | with_reducible apply keeps_outIte
    | dsimp only)

@[simp ↓] theorem keeps_execPopc {s0 s : State} (h : Keeps s0 s) (e : Fin 50) (sl : Fin 48) (r : RForm) : OutKeeps s0 (execPopc e sl r s) := by
  unfold execPopc
  try dsimp only
  repeat' (first
    | with_reducible assumption
    | (with_reducible intro _)
    | with_reducible apply keeps_issue
    | with_reducible apply keeps_aluBody
    | with_reducible apply keeps_next
    | with_reducible apply keeps_fault
    | with_reducible apply keeps_outIte
    | dsimp only)

@[simp ↓] theorem keeps_execClz {s0 s : State} (h : Keeps s0 s) (e : Fin 50) (sl : Fin 48) (r : RForm) : OutKeeps s0 (execClz e sl r s) := by
  unfold execClz
  try dsimp only
  repeat' (first
    | with_reducible assumption
    | (with_reducible intro _)
    | with_reducible apply keeps_issue
    | with_reducible apply keeps_aluBody
    | with_reducible apply keeps_next
    | with_reducible apply keeps_fault
    | with_reducible apply keeps_outIte
    | dsimp only)

@[simp ↓] theorem keeps_execIcmp {s0 s : State} (h : Keeps s0 s) (e : Fin 50) (sl : Fin 48) (r : RForm) : OutKeeps s0 (execIcmp e sl r s) := by
  unfold execIcmp
  try dsimp only
  repeat' (first
    | with_reducible assumption
    | (with_reducible intro _)
    | with_reducible apply keeps_issue
    | with_reducible apply keeps_predBody
    | with_reducible apply keeps_next
    | with_reducible apply keeps_fault
    | with_reducible apply keeps_outIte
    | dsimp only)

@[simp ↓] theorem keeps_execSel {s0 s : State} (h : Keeps s0 s) (e : Fin 50) (sl : Fin 48) (r : RForm) : OutKeeps s0 (execSel e sl r s) := by
  unfold execSel
  try dsimp only
  repeat' (first
    | with_reducible assumption
    | (with_reducible intro _)
    | with_reducible apply keeps_issue
    | with_reducible apply keeps_aluBody
    | with_reducible apply keeps_ite
    | with_reducible apply keeps_next
    | with_reducible apply keeps_fault
    | with_reducible apply keeps_outIte
    | split
    | dsimp only)

@[simp ↓] theorem keeps_execMov {s0 s : State} (h : Keeps s0 s) (e : Fin 50) (sl : Fin 48) (r : RForm) : OutKeeps s0 (execMov e sl r s) := by
  unfold execMov
  try dsimp only
  repeat' (first
    | with_reducible assumption
    | (with_reducible intro _)
    | with_reducible apply keeps_issue
    | with_reducible apply keeps_aluBody
    | with_reducible apply keeps_next
    | with_reducible apply keeps_fault
    | with_reducible apply keeps_outIte
    | dsimp only)

@[simp ↓] theorem keeps_execMovi {s0 s : State} (h : Keeps s0 s) (e : Fin 50) (sl : Fin 48) (i : IForm) : OutKeeps s0 (execMovi e sl i s) := by
  unfold execMovi
  try dsimp only
  repeat' (first
    | with_reducible assumption
    | (with_reducible intro _)
    | with_reducible apply keeps_issue
    | with_reducible apply keeps_aluBody
    | with_reducible apply keeps_next
    | with_reducible apply keeps_fault
    | with_reducible apply keeps_outIte
    | dsimp only)

@[simp ↓] theorem keeps_execAddi {s0 s : State} (h : Keeps s0 s) (e : Fin 50) (sl : Fin 48) (i : IForm) : OutKeeps s0 (execAddi e sl i s) := by
  unfold execAddi
  try dsimp only
  repeat' (first
    | with_reducible assumption
    | (with_reducible intro _)
    | with_reducible apply keeps_issue
    | with_reducible apply keeps_aluBody
    | with_reducible apply keeps_next
    | with_reducible apply keeps_fault
    | with_reducible apply keeps_outIte
    | dsimp only)

@[simp ↓] theorem keeps_execPand {s0 s : State} (h : Keeps s0 s) (e : Fin 50) (sl : Fin 48) (r : RForm) : OutKeeps s0 (execPand e sl r s) := by
  unfold execPand
  try dsimp only
  repeat' (first
    | with_reducible assumption
    | (with_reducible intro _)
    | with_reducible apply keeps_issue
    | with_reducible apply keeps_predBody
    | with_reducible apply keeps_next
    | with_reducible apply keeps_fault
    | with_reducible apply keeps_outIte
    | dsimp only)

@[simp ↓] theorem keeps_execPor {s0 s : State} (h : Keeps s0 s) (e : Fin 50) (sl : Fin 48) (r : RForm) : OutKeeps s0 (execPor e sl r s) := by
  unfold execPor
  try dsimp only
  repeat' (first
    | with_reducible assumption
    | (with_reducible intro _)
    | with_reducible apply keeps_issue
    | with_reducible apply keeps_predBody
    | with_reducible apply keeps_next
    | with_reducible apply keeps_fault
    | with_reducible apply keeps_outIte
    | dsimp only)

@[simp ↓] theorem keeps_execPnot {s0 s : State} (h : Keeps s0 s) (e : Fin 50) (sl : Fin 48) (r : RForm) : OutKeeps s0 (execPnot e sl r s) := by
  unfold execPnot
  try dsimp only
  repeat' (first
    | with_reducible assumption
    | (with_reducible intro _)
    | with_reducible apply keeps_issue
    | with_reducible apply keeps_predBody
    | with_reducible apply keeps_next
    | with_reducible apply keeps_fault
    | with_reducible apply keeps_outIte
    | dsimp only)

@[simp ↓] theorem keeps_execBallot {s0 s : State} (h : Keeps s0 s) (e : Fin 50) (sl : Fin 48) (r : RForm) : OutKeeps s0 (execBallot e sl r s) := by
  unfold execBallot
  try dsimp only
  repeat' (first
    | with_reducible assumption
    | (with_reducible intro _)
    | with_reducible apply keeps_issue
    | with_reducible apply keeps_aluBody
    | with_reducible apply keeps_next
    | with_reducible apply keeps_fault
    | with_reducible apply keeps_outIte
    | dsimp only)

@[simp ↓] theorem keeps_noteLane {s0 s : State} (h : Keeps s0 s) (g : Group) (sp : Space) (p : Nat) : Keeps s0 (noteLane s g sp p) := by
  unfold noteLane
  try dsimp only
  repeat' (first | with_reducible assumption | (simp +contextual [h]; done) | split)

theorem keeps_accessFoldl {α : Type} {s0 : State} {f : AccessRes → α → AccessRes} (hf : ∀ r x, Keeps s0 r.st → Keeps s0 (f r x).st)
    {l : List α} {r : AccessRes} (h : Keeps s0 r.st) : Keeps s0 (l.foldl f r).st := by
  induction l generalizing r with
  | nil => exact h
  | cons a l ih => exact ih (hf r a h)

theorem keeps_loadLane {s0 : State} (e : Nat) (sp : Space) (m : MForm) (r : AccessRes) (l : Nat) (h : Keeps s0 r.st) :
    Keeps s0 (loadLane e sp m r l).st := by
  unfold loadLane
  dsimp only
  repeat' (first | with_reducible assumption | with_reducible apply keeps_noteLane | split)

theorem keeps_storeLane {s0 : State} (e : Nat) (sp : Space) (m : MForm) (r : AccessRes) (l : Nat) (h : Keeps s0 r.st) :
    Keeps s0 (storeLane e sp m r l).st := by
  unfold storeLane
  dsimp only
  repeat' (first | with_reducible assumption | with_reducible apply keeps_noteLane | with_reducible apply keeps_spaceWrite | split)

@[simp ↓] theorem keeps_accessBody {s0 s : State} (h : Keeps s0 s) (e : Nat) (sp : Space) (m : MForm) (store : Bool) (g : Group)
    (act : List Nat) : IssueKeeps s0 (accessBody e sp m store s g act) := by
  have k := keeps_issueAll h
  unfold accessBody
  split
  · exact ⟨keeps_of_snd (k _ _) (by assumption), fun _ k => k⟩
  · have ht := keeps_of_snd (k _ _) (by assumption)
    refine ⟨?_, fun _ k => k⟩
    cases store
    · exact keeps_accessFoldl (keeps_loadLane e sp m) ht
    · exact keeps_accessFoldl (keeps_storeLane e sp m) ht

@[simp ↓] theorem keeps_execLdLocal {s0 s : State} (h : Keeps s0 s) (e : Fin 50) (sl : Fin 48) (m : MForm) : OutKeeps s0 (execLdLocal e sl m s) := by
  unfold execLdLocal
  try dsimp only
  repeat' (first
    | with_reducible assumption
    | (with_reducible intro _)
    | with_reducible apply keeps_issue
    | with_reducible apply keeps_accessBody
    | with_reducible apply keeps_ite
    | with_reducible apply keeps_next
    | with_reducible apply keeps_fault
    | with_reducible apply keeps_outIte
    | split)

@[simp ↓] theorem keeps_execStLocal {s0 s : State} (h : Keeps s0 s) (e : Fin 50) (sl : Fin 48) (m : MForm) : OutKeeps s0 (execStLocal e sl m s) := by
  unfold execStLocal
  try dsimp only
  repeat' (first
    | with_reducible assumption
    | (with_reducible intro _)
    | with_reducible apply keeps_issue
    | with_reducible apply keeps_accessBody
    | with_reducible apply keeps_ite
    | with_reducible apply keeps_next
    | with_reducible apply keeps_fault
    | with_reducible apply keeps_outIte
    | split
    | dsimp only
    | with_reducible apply IssueKeeps.mk
    | dsimp only [id])

@[simp ↓] theorem keeps_ringBody {s0 s : State} (h : Keeps s0 s) (e : Nat) (m : MForm) (g : Group) (act : List Nat) :
    IssueKeeps s0 (ringBody e m s g act) := by
  unfold ringBody
  dsimp only
  refine keeps_issueIte ?_ ?_ <;> exact ⟨h, fun _ k => k⟩

@[simp ↓] theorem keeps_execLdRing {s0 s : State} (h : Keeps s0 s) (e : Fin 50) (sl : Fin 48) (m : MForm) : OutKeeps s0 (execLdRing e sl m s) := by
  unfold execLdRing
  try dsimp only
  repeat' (first
    | with_reducible assumption
    | (with_reducible intro _)
    | with_reducible apply keeps_next
    | with_reducible apply keeps_issue
    | with_reducible apply keeps_ringBody
    | with_reducible apply keeps_ite
    | with_reducible apply keeps_getD
    | with_reducible apply keeps_iteSnd
    | with_reducible apply keeps_iteFst
    | with_reducible apply keeps_outIte
    | with_reducible apply keeps_issueIte
    | with_reducible apply keeps_foldl
    | with_reducible apply keeps_some
    | with_reducible exact keeps_none
    | with_reducible apply keeps_next
    | with_reducible apply keeps_fault
    | simp only [↓Keeps.upd_iff]
    | with_reducible apply Keeps.updFresh
    | (refine keeps_of_some ?_ (by assumption))
    | (refine keeps_of_snd ?_ (by assumption))
    | (refine keeps_of_fst ?_ (by assumption))
    | split
    | dsimp only)

@[simp ↓] theorem keeps_execLdBank {s0 s : State} (h : Keeps s0 s) (e : Fin 50) (sl : Fin 48) (m : MForm) : OutKeeps s0 (execLdBank e sl m s) := by
  unfold execLdBank
  try dsimp only
  repeat' (first
    | with_reducible assumption
    | (with_reducible intro _)
    | with_reducible apply keeps_issue
    | with_reducible apply keeps_accessBody
    | with_reducible apply keeps_next
    | with_reducible apply keeps_fault
    | with_reducible apply keeps_outIte)

@[simp ↓] theorem keeps_execStBank {s0 s : State} (h : Keeps s0 s) (e : Fin 50) (sl : Fin 48) (m : MForm) : OutKeeps s0 (execStBank e sl m s) := by
  unfold execStBank
  try dsimp only
  repeat' (first
    | with_reducible assumption
    | (with_reducible intro _)
    | with_reducible apply keeps_issue
    | with_reducible apply keeps_accessBody
    | with_reducible apply keeps_next
    | with_reducible apply keeps_fault
    | with_reducible apply keeps_outIte)

@[simp ↓] theorem keeps_execLdGlobal {s0 s : State} (h : Keeps s0 s) (e : Fin 50) (sl : Fin 48) (m : MForm) : OutKeeps s0 (execLdGlobal e sl m s) := by
  unfold execLdGlobal
  try dsimp only
  repeat' (first
    | with_reducible assumption
    | (with_reducible intro _)
    | with_reducible apply keeps_issue
    | with_reducible apply keeps_accessBody
    | with_reducible apply keeps_next
    | with_reducible apply keeps_fault
    | with_reducible apply keeps_outIte)

@[simp ↓] theorem keeps_execStGlobal {s0 s : State} (h : Keeps s0 s) (e : Fin 50) (sl : Fin 48) (m : MForm) : OutKeeps s0 (execStGlobal e sl m s) := by
  unfold execStGlobal
  try dsimp only
  repeat' (first
    | with_reducible assumption
    | (with_reducible intro _)
    | with_reducible apply keeps_issue
    | with_reducible apply keeps_accessBody
    | with_reducible apply keeps_next
    | with_reducible apply keeps_fault
    | with_reducible apply keeps_outIte)

theorem keeps_atomRequest {s0 : State} (e : Nat) (o : AtomOp) (m : AForm) (r : AccessRes) (p : Nat) (ls : List Nat) (h : Keeps s0 r.st) :
    Keeps s0 (atomRequest e o m r p ls).st := by
  unfold atomRequest
  dsimp only
  repeat' (first
    | with_reducible assumption
    | with_reducible apply keeps_noteLane
    | with_reducible apply keeps_spaceWrite
    | with_reducible apply keeps_ite
    | split)

@[simp ↓] theorem keeps_atomBody {s0 s : State} (h : Keeps s0 s) (e : Nat) (o : AtomOp) (m : AForm) (g : Group)
    (act : List Nat) : IssueKeeps s0 (atomBody e o m s g act) := by
  have k := keeps_issueAll h
  unfold atomBody
  dsimp only
  split
  · exact ⟨keeps_of_snd (k _ _) (by assumption), fun _ k => k⟩
  · have ht := keeps_of_snd (k _ _) (by assumption)
    exact ⟨keeps_accessFoldl (fun r p k => keeps_atomRequest e o m r p _ k) ht, fun _ k => k⟩

@[simp ↓] theorem keeps_execAadd {s0 s : State} (h : Keeps s0 s) (e : Fin 50) (sl : Fin 48) (m : AForm) : OutKeeps s0 (execAadd e sl m s) := by
  unfold execAadd
  try dsimp only
  repeat' (first
    | with_reducible assumption
    | (with_reducible intro _)
    | with_reducible apply keeps_issue
    | with_reducible apply keeps_atomBody
    | with_reducible apply keeps_next
    | with_reducible apply keeps_fault
    | with_reducible apply keeps_outIte)

@[simp ↓] theorem keeps_execAsub {s0 s : State} (h : Keeps s0 s) (e : Fin 50) (sl : Fin 48) (m : AForm) : OutKeeps s0 (execAsub e sl m s) := by
  unfold execAsub
  try dsimp only
  repeat' (first
    | with_reducible assumption
    | (with_reducible intro _)
    | with_reducible apply keeps_issue
    | with_reducible apply keeps_atomBody
    | with_reducible apply keeps_next
    | with_reducible apply keeps_fault
    | with_reducible apply keeps_outIte)

@[simp ↓] theorem keeps_execAand {s0 s : State} (h : Keeps s0 s) (e : Fin 50) (sl : Fin 48) (m : AForm) : OutKeeps s0 (execAand e sl m s) := by
  unfold execAand
  try dsimp only
  repeat' (first
    | with_reducible assumption
    | (with_reducible intro _)
    | with_reducible apply keeps_issue
    | with_reducible apply keeps_atomBody
    | with_reducible apply keeps_next
    | with_reducible apply keeps_fault
    | with_reducible apply keeps_outIte)

@[simp ↓] theorem keeps_execAor {s0 s : State} (h : Keeps s0 s) (e : Fin 50) (sl : Fin 48) (m : AForm) : OutKeeps s0 (execAor e sl m s) := by
  unfold execAor
  try dsimp only
  repeat' (first
    | with_reducible assumption
    | (with_reducible intro _)
    | with_reducible apply keeps_issue
    | with_reducible apply keeps_atomBody
    | with_reducible apply keeps_next
    | with_reducible apply keeps_fault
    | with_reducible apply keeps_outIte)

@[simp ↓] theorem keeps_execAxor {s0 s : State} (h : Keeps s0 s) (e : Fin 50) (sl : Fin 48) (m : AForm) : OutKeeps s0 (execAxor e sl m s) := by
  unfold execAxor
  try dsimp only
  repeat' (first
    | with_reducible assumption
    | (with_reducible intro _)
    | with_reducible apply keeps_issue
    | with_reducible apply keeps_atomBody
    | with_reducible apply keeps_next
    | with_reducible apply keeps_fault
    | with_reducible apply keeps_outIte)

@[simp ↓] theorem keeps_execAminS {s0 s : State} (h : Keeps s0 s) (e : Fin 50) (sl : Fin 48) (m : AForm) : OutKeeps s0 (execAminS e sl m s) := by
  unfold execAminS
  try dsimp only
  repeat' (first
    | with_reducible assumption
    | (with_reducible intro _)
    | with_reducible apply keeps_issue
    | with_reducible apply keeps_atomBody
    | with_reducible apply keeps_next
    | with_reducible apply keeps_fault
    | with_reducible apply keeps_outIte)

@[simp ↓] theorem keeps_execAmaxS {s0 s : State} (h : Keeps s0 s) (e : Fin 50) (sl : Fin 48) (m : AForm) : OutKeeps s0 (execAmaxS e sl m s) := by
  unfold execAmaxS
  try dsimp only
  repeat' (first
    | with_reducible assumption
    | (with_reducible intro _)
    | with_reducible apply keeps_issue
    | with_reducible apply keeps_atomBody
    | with_reducible apply keeps_next
    | with_reducible apply keeps_fault
    | with_reducible apply keeps_outIte)

@[simp ↓] theorem keeps_execAminU {s0 s : State} (h : Keeps s0 s) (e : Fin 50) (sl : Fin 48) (m : AForm) : OutKeeps s0 (execAminU e sl m s) := by
  unfold execAminU
  try dsimp only
  repeat' (first
    | with_reducible assumption
    | (with_reducible intro _)
    | with_reducible apply keeps_issue
    | with_reducible apply keeps_atomBody
    | with_reducible apply keeps_next
    | with_reducible apply keeps_fault
    | with_reducible apply keeps_outIte)

@[simp ↓] theorem keeps_execAmaxU {s0 s : State} (h : Keeps s0 s) (e : Fin 50) (sl : Fin 48) (m : AForm) : OutKeeps s0 (execAmaxU e sl m s) := by
  unfold execAmaxU
  try dsimp only
  repeat' (first
    | with_reducible assumption
    | (with_reducible intro _)
    | with_reducible apply keeps_issue
    | with_reducible apply keeps_atomBody
    | with_reducible apply keeps_next
    | with_reducible apply keeps_fault
    | with_reducible apply keeps_outIte)

@[simp ↓] theorem keeps_execAexch {s0 s : State} (h : Keeps s0 s) (e : Fin 50) (sl : Fin 48) (m : AForm) : OutKeeps s0 (execAexch e sl m s) := by
  unfold execAexch
  try dsimp only
  repeat' (first
    | with_reducible assumption
    | (with_reducible intro _)
    | with_reducible apply keeps_issue
    | with_reducible apply keeps_atomBody
    | with_reducible apply keeps_next
    | with_reducible apply keeps_fault
    | with_reducible apply keeps_outIte)

@[simp ↓] theorem keeps_execAcas {s0 s : State} (h : Keeps s0 s) (e : Fin 50) (sl : Fin 48) (m : AForm) : OutKeeps s0 (execAcas e sl m s) := by
  unfold execAcas
  try dsimp only
  repeat' (first
    | with_reducible assumption
    | (with_reducible intro _)
    | with_reducible apply keeps_issue
    | with_reducible apply keeps_atomBody
    | with_reducible apply keeps_next
    | with_reducible apply keeps_fault
    | with_reducible apply keeps_outIte)

@[simp ↓] theorem keeps_execAfadd {s0 s : State} (h : Keeps s0 s) (e : Fin 50) (sl : Fin 48) (m : AForm) : OutKeeps s0 (execAfadd e sl m s) := by
  unfold execAfadd
  try dsimp only
  repeat' (first
    | with_reducible assumption
    | (with_reducible intro _)
    | with_reducible apply keeps_issue
    | with_reducible apply keeps_atomBody
    | with_reducible apply keeps_next
    | with_reducible apply keeps_fault
    | with_reducible apply keeps_outIte)

@[simp ↓] theorem keeps_execAload {s0 s : State} (h : Keeps s0 s) (e : Fin 50) (sl : Fin 48) (m : AForm) : OutKeeps s0 (execAload e sl m s) := by
  unfold execAload
  try dsimp only
  repeat' (first
    | with_reducible assumption
    | (with_reducible intro _)
    | with_reducible apply keeps_issue
    | with_reducible apply keeps_atomBody
    | with_reducible apply keeps_next
    | with_reducible apply keeps_fault
    | with_reducible apply keeps_outIte)

@[simp ↓] theorem keeps_execAstore {s0 s : State} (h : Keeps s0 s) (e : Fin 50) (sl : Fin 48) (m : AForm) : OutKeeps s0 (execAstore e sl m s) := by
  unfold execAstore
  try dsimp only
  repeat' (first
    | with_reducible assumption
    | (with_reducible intro _)
    | with_reducible apply keeps_issue
    | with_reducible apply keeps_atomBody
    | with_reducible apply keeps_next
    | with_reducible apply keeps_fault
    | with_reducible apply keeps_outIte)

end Sys2Proof.Machine
end

