-- ==== Sys2Proof/Laws/KeepsPart9.lean ====
section
/-! SUPPORT. What the operations and commands keep (KeepsBase), in the order of the model's files: Dispatch. -/

set_option linter.unusedTactic false
set_option linter.unreachableTactic false
set_option linter.unusedSimpArgs false
set_option linter.unusedVariables false

namespace Sys2Proof.Machine

theorem keeps_exec {s0 s : State} (h : Keeps s0 s) (i : Instr) : OutKeeps s0 (exec i s) := by
  unfold exec
  try dsimp only
  repeat' (first | with_reducible assumption | (simp +contextual [h]; done) | split)

end Sys2Proof.Machine
end

