-- ==== Sys2Proof/Laws/Packets.lean ====
section
/-! SUPPORT. Packets: a packet that the device forms passes the CRC check (R361). -/

namespace Sys2Proof.Machine

/-- Sealing a packet: its CRC covers header bits 0 to 479, so storing it leaves it valid (R361). -/
theorem sound_sealed (h : BitVec 512) (pay : List Byte) :
    (⟨setFld h 480 32 (Packet.crcOf ⟨h, pay⟩).toNat, pay⟩ : Packet).sound = true := by
  have hb : ∀ v, (bvBytes (setFld h 480 32 v)).take 60 = (bvBytes h).take 60 := by
    intro v
    apply List.ext_getElem?
    intro i
    simp only [bvBytes, toBytes, tab, List.getElem?_take, List.getElem?_map]
    split
    · rename_i hi
      rw [List.getElem?_range (by omega)]
      simp only [Option.map_some, Option.some.injEq]
      apply BitVec.eq_of_getLsbD_eq
      intro j hj
      simp only [BitVec.getLsbD_ofNat, hj, decide_true, Bool.true_and, Nat.testBit_shiftRight]
      have := setFld_getLsbD h 480 32 v (8 * i + j)
      simp only [BitVec.getLsbD] at this
      rw [this, if_neg (by omega)]
      simp; omega
    · rfl
  have hf : ∀ v, (⟨setFld h 480 32 v, pay⟩ : Packet).pathMode = (⟨h, pay⟩ : Packet).pathMode := by
    intro v
    have ht : (⟨setFld h 480 32 v, pay⟩ : Packet).typ = (⟨h, pay⟩ : Packet).typ := by
      apply BitVec.eq_of_getLsbD_eq
      intro j hj
      simp only [Packet.typ, BitVec.getLsbD_extractLsb', setFld_getLsbD, hj]
      rw [if_neg (by omega)]
      simp; omega
    simp only [Packet.pathMode, ht, Packet.payWord]
  have hs : ∀ v, (⟨setFld h 480 32 v, pay⟩ : Packet).crcOf = (⟨h, pay⟩ : Packet).crcOf := by
    intro v
    simp only [Packet.crcOf, hb, Packet.stable, hf, Packet.payWord]
  unfold Packet.sound
  rw [decide_eq_true_eq, hs]
  apply BitVec.eq_of_getLsbD_eq
  intro j hj
  simp only [Packet.crc, BitVec.getLsbD_extractLsb', setFld_getLsbD, hj]
  rw [if_pos (by omega)]
  simp [BitVec.getLsbD, show 480 + j < 512 by omega]

/-- A packet that the device forms passes R361. -/
theorem mkPacket_sound (s : State) (q : PktSpec) : (mkPacket s q).sound = true := sound_sealed _ _
end Sys2Proof.Machine
end

