-- ==== Sys2Proof/Laws/Traffic.lean ====
section
/-! SUPPORT. What the requests at the ports of Rilaz leave alone (Traffic): everything but the registers, memory with its poison, the SC,
the tints, the far tier, the error records, what is sent, and the free values used. -/

set_option linter.unusedTactic false
set_option linter.unreachableTactic false
set_option linter.unusedSimpArgs false
set_option linter.unusedVariables false

namespace Sys2Proof.Machine

theorem PortSide.refl (s : State) : PortSide s s := ⟨rfl, rfl, rfl, rfl, rfl, rfl, rfl, rfl, rfl, rfl, rfl, rfl, rfl, rfl⟩

theorem PortSide.trans {a b c : State} (h : PortSide a b) (k : PortSide b c) : PortSide a c :=
  ⟨k.arrays.trans h.arrays, k.engines.trans h.engines, k.vc.trans h.vc, k.near.trans h.near, k.movers.trans h.movers, k.items.trans h.items, k.host.trans h.host, k.fab.trans h.fab, k.power.trans h.power, k.thermal.trans h.thermal, k.boot.trans h.boot, k.pins.trans h.pins, k.aclkMhz.trans h.aclkMhz, k.pending.trans h.pending⟩

/-- The same, as one equation. -/
theorem PortSide.eq {s t : State} (h : PortSide s t) : t = { s with
    regs := t.regs, mem := t.mem, poison := t.poison, sc := t.sc, tint := t.tint, far := t.far, evlog := t.evlog
    repair := t.repair, pend := t.pend, lastErr := t.lastErr, outbox := t.outbox, fresh := t.fresh } := by
  obtain ⟨h0, h1, h2, h3, h4, h5, h6, h7, h8, h9, h10, h11, h12, h13⟩ := h
  cases t
  simp only at *
  simp only [h0, h1, h2, h3, h4, h5, h6, h7, h8, h9, h10, h11, h12, h13]

theorem PortSide.upd {s0 s : State} (h : PortSide s0 s) (regs mem poison sc tint far evlog repair pend lastErr outbox fresh) :
    PortSide s0 (State.mk regs s.arrays s.engines mem poison sc s.vc tint s.near far s.movers s.items s.host s.fab s.power s.thermal
      s.boot s.pins s.aclkMhz evlog repair pend lastErr outbox fresh s.pending) :=
  ⟨h.arrays, h.engines, h.vc, h.near, h.movers, h.items, h.host, h.fab, h.power, h.thermal, h.boot, h.pins, h.aclkMhz, h.pending⟩

theorem PortSide.upd_iff {s0 s : State} (regs mem poison sc tint far evlog repair pend lastErr outbox fresh) :
    PortSide s0 (State.mk regs s.arrays s.engines mem poison sc s.vc tint s.near far s.movers s.items s.host s.fab s.power s.thermal
      s.boot s.pins s.aclkMhz evlog repair pend lastErr outbox fresh s.pending) ↔ PortSide s0 s :=
  ⟨fun h => ⟨h.arrays, h.engines, h.vc, h.near, h.movers, h.items, h.host, h.fab, h.power, h.thermal, h.boot, h.pins, h.aclkMhz,
    h.pending⟩, fun h => h.upd ..⟩

theorem PortSide.foldl {α : Type} {f : State → α → State} (hf : ∀ s0 s a, PortSide s0 s → PortSide s0 (f s a)) {s0 s : State}
    (h : PortSide s0 s) (l : List α) : PortSide s0 (l.foldl f s) := by
  induction l generalizing s with
  | nil => exact h
  | cons a t ih => exact ih (hf _ _ _ h)

theorem portSide_setRegWord {s0 s : State} (h : PortSide s0 s) (o : Nat) (v : Word) : PortSide s0 (setRegWord s o v) := by
  unfold setRegWord
  try dsimp only
  repeat' (first
    | with_reducible assumption
    | simp only [PortSide.upd_iff]
    | split)

theorem portSide_setRegFld {s0 s : State} (h : PortSide s0 s) (o lo w v : Nat) : PortSide s0 (setRegFld s o lo w v) := by
  unfold setRegFld
  try dsimp only
  repeat' (first
    | with_reducible assumption
    | with_reducible apply portSide_setRegWord
    | simp only [PortSide.upd_iff]
    | split)

theorem portSide_setRegBit {s0 s : State} (h : PortSide s0 s) (o i : Nat) : PortSide s0 (setRegBit s o i) := by
  unfold setRegBit
  try dsimp only
  repeat' (first
    | with_reducible assumption
    | with_reducible apply portSide_setRegFld
    | simp only [PortSide.upd_iff]
    | split)

theorem portSide_clrRegBit {s0 s : State} (h : PortSide s0 s) (o i : Nat) : PortSide s0 (clrRegBit s o i) := by
  unfold clrRegBit
  try dsimp only
  repeat' (first
    | with_reducible assumption
    | with_reducible apply portSide_setRegFld
    | simp only [PortSide.upd_iff]
    | split)

theorem portSide_setCounter {s0 s : State} (h : PortSide s0 s) (o v : Nat) : PortSide s0 (setCounter s o v) := by
  unfold setCounter
  try dsimp only
  repeat' (first
    | with_reducible assumption
    | with_reducible apply portSide_setRegWord
    | simp only [PortSide.upd_iff]
    | split)

theorem portSide_addCounter {s0 s : State} (h : PortSide s0 s) (o k : Nat) : PortSide s0 (addCounter s o k) := by
  unfold addCounter
  try dsimp only
  repeat' (first
    | with_reducible assumption
    | with_reducible apply portSide_setCounter
    | simp only [PortSide.upd_iff]
    | split)

theorem portSide_freeWord {s0 s : State} (h : PortSide s0 s) : PortSide s0 (freeWord s).2 := by
  unfold freeWord
  try dsimp only
  repeat' (first
    | with_reducible assumption
    | simp only [PortSide.upd_iff]
    | split)

theorem portSide_freeBool {s0 s : State} (h : PortSide s0 s) : PortSide s0 (freeBool s).2 := by
  unfold freeBool
  try dsimp only
  repeat' (first
    | with_reducible assumption
    | simp only [PortSide.upd_iff]
    | split)

theorem portSide_emit {s0 s : State} (h : PortSide s0 s) (o : Output) : PortSide s0 (emit s o) := by
  unfold emit
  try dsimp only
  repeat' (first
    | with_reducible assumption
    | simp only [PortSide.upd_iff]
    | split)

theorem portSide_logEvent {s0 s : State} (h : PortSide s0 s) (c k : Nat) (d : List Word) : PortSide s0 (logEvent s c k d) := by
  unfold logEvent
  try dsimp only
  repeat' (first
    | with_reducible assumption
    | simp only [PortSide.upd_iff]
    | split)

theorem portSide_triggerVector {s0 s : State} (h : PortSide s0 s) (v : Fin 128) : PortSide s0 (triggerVector s v) := by
  unfold triggerVector
  try dsimp only
  repeat' (first
    | with_reducible assumption
    | with_reducible apply portSide_setRegBit
    | with_reducible apply portSide_emit
    | simp only [PortSide.upd_iff]
    | split)

theorem portSide_raiseErr {s0 s : State} (h : PortSide s0 s) (i : Nat) : PortSide s0 (raiseErr s i) := by
  unfold raiseErr withCause settleCause
  try dsimp only
  repeat' (first
    | with_reducible assumption
    | with_reducible apply portSide_setRegBit
    | with_reducible apply portSide_triggerVector
    | with_reducible apply portSide_clrRegBit
    | simp only [PortSide.upd_iff]
    | split)

theorem portSide_markBad {s0 s : State} (h : PortSide s0 s) (w : Word) : PortSide s0 (markBad s w) := by
  unfold markBad
  try dsimp only
  repeat' (first
    | with_reducible assumption
    | simp only [PortSide.upd_iff]
    | split)

theorem portSide_enterPending {s0 s : State} (h : PortSide s0 s) (w : Word) (c : Byte) : PortSide s0 (enterPending s w c) := by
  unfold enterPending
  try dsimp only
  repeat' (first
    | with_reducible assumption
    | with_reducible apply portSide_raiseErr
    | with_reducible apply portSide_markBad
    | simp only [PortSide.upd_iff]
    | split)

theorem portSide_overflowBucket {s0 s : State} (h : PortSide s0 s) (c : BktClass) (i : Nat) : PortSide s0 (overflowBucket s c i) := by
  unfold overflowBucket
  try dsimp only
  repeat' (first
    | with_reducible assumption
    | with_reducible apply portSide_setRegWord
    | with_reducible apply portSide_logEvent
    | with_reducible apply portSide_raiseErr
    | with_reducible apply portSide_enterPending
    | simp only [PortSide.upd_iff]
    | split)

theorem portSide_addBucket {s0 s : State} (h : PortSide s0 s) (c : BktClass) (i k : Nat) : PortSide s0 (addBucket s c i k).2 := by
  unfold addBucket
  try dsimp only
  repeat' (first
    | with_reducible assumption
    | with_reducible apply portSide_setRegFld
    | with_reducible apply portSide_overflowBucket
    | simp only [PortSide.upd_iff]
    | split)

theorem portSide_correctedError {s0 s : State} (h : PortSide s0 s) (c : BktClass) (i : Nat) (loc : Word) : PortSide s0 (correctedError s c i loc).2 := by
  unfold correctedError
  try dsimp only
  repeat' (first
    | with_reducible assumption
    | with_reducible apply portSide_addBucket
    | simp only [PortSide.upd_iff]
    | split)

theorem portSide_uncorrectable {s0 s : State} (h : PortSide s0 s) (c : BktClass) (i : Nat) (loc : Word) : PortSide s0 (uncorrectable s c i loc).2 := by
  unfold uncorrectable
  try dsimp only
  repeat' (first
    | with_reducible assumption
    | with_reducible apply portSide_setRegWord
    | with_reducible apply portSide_logEvent
    | with_reducible apply portSide_raiseErr
    | with_reducible apply portSide_addBucket
    | simp only [PortSide.upd_iff]
    | split)

theorem portSide_setFarPort {s0 s : State} (h : PortSide s0 s) (p : Nat) (x : FarPort) : PortSide s0 (setFarPort s p x) := by
  unfold setFarPort
  try dsimp only
  repeat' (first
    | with_reducible assumption
    | simp only [PortSide.upd_iff]
    | split)

theorem portSide_setFarModule {s0 s : State} (h : PortSide s0 s) (p : Nat) (x : Fm576) : PortSide s0 (setFarModule s p x) := by
  unfold setFarModule
  try dsimp only
  repeat' (first
    | with_reducible assumption
    | simp only [PortSide.upd_iff]
    | split)

theorem portSide_setPoison {s0 s : State} (h : PortSide s0 s) (u : Nat) (b : Bool) : PortSide s0 (setPoison s u b) := by
  unfold setPoison
  try dsimp only
  repeat' (first
    | with_reducible assumption
    | simp only [PortSide.upd_iff]
    | split)

theorem portSide_chargeBucket {s0 s : State} (h : PortSide s0 s) (m t n r : Nat) : PortSide s0 (chargeBucket s m t n r) := by
  unfold chargeBucket
  try dsimp only
  repeat' (first
    | with_reducible assumption
    | simp only [PortSide.upd_iff]
    | split)

theorem portSide_chargeFme {s0 s : State} (h : PortSide s0 s) (n : Nat) : PortSide s0 (chargeFme s n) := by
  unfold chargeFme
  try dsimp only
  repeat' (first
    | with_reducible assumption
    | simp only [PortSide.upd_iff]
    | split)

theorem portSide_setPhys {s0 s : State} (h : PortSide s0 s) (p x : Nat) (f : PhysRec → PhysRec) : PortSide s0 (setPhys s p x f) := by
  unfold setPhys
  try dsimp only
  repeat' (first
    | with_reducible assumption
    | with_reducible apply portSide_setFarPort
    | simp only [PortSide.upd_iff]
    | split)

theorem portSide_checkPool {s0 s : State} (h : PortSide s0 s) (p : Nat) : PortSide s0 (checkPool s p) := by
  unfold checkPool
  try dsimp only
  repeat' (first
    | with_reducible assumption
    | with_reducible apply portSide_setRegFld
    | with_reducible apply portSide_setRegBit
    | with_reducible apply portSide_logEvent
    | with_reducible apply portSide_setFarModule
    | simp only [PortSide.upd_iff]
    | split)

theorem portSide_commitInto {s0 s : State} (h : PortSide s0 s) (p g x : Nat) (d : Bool) : PortSide s0 (commitInto s p g x d) := by
  unfold commitInto
  try dsimp only
  repeat' (first
    | with_reducible assumption
    | with_reducible apply portSide_setFarPort
    | with_reducible apply portSide_setPhys
    | with_reducible apply portSide_checkPool
    | simp only [PortSide.upd_iff]
    | split)

theorem portSide_startCommit {s0 s : State} (h : PortSide s0 s) (p g : Nat) (d : Bool) : PortSide s0 (startCommit s p g d) := by
  unfold startCommit
  try dsimp only
  repeat' (first
    | with_reducible assumption
    | with_reducible apply portSide_commitInto
    | simp only [PortSide.upd_iff]
    | split)

theorem portSide_levelWear {s0 s : State} (h : PortSide s0 s) (p : Nat) : PortSide s0 (levelWear s p) := by
  unfold levelWear
  try dsimp only
  repeat' (first
    | with_reducible assumption
    | with_reducible apply portSide_setFarPort
    | with_reducible apply portSide_chargeFme
    | with_reducible apply portSide_commitInto
    | simp only [PortSide.upd_iff]
    | split)

theorem portSide_appendJournal {s0 s : State} (h : PortSide s0 s) (p y g x : Nat) : PortSide s0 (appendJournal s p y g x) := by
  unfold appendJournal
  try dsimp only
  repeat' (first
    | with_reducible assumption
    | with_reducible apply portSide_setFarPort
    | with_reducible apply portSide_setFarModule
    | with_reducible apply portSide_chargeFme
    | simp only [PortSide.upd_iff]
    | split)

theorem portSide_checkpoint {s0 s : State} (h : PortSide s0 s) (p : Nat) : PortSide s0 (checkpoint s p) := by
  unfold checkpoint
  try dsimp only
  repeat' (first
    | with_reducible assumption
    | with_reducible apply portSide_setFarModule
    | with_reducible apply portSide_chargeFme
    | simp only [PortSide.upd_iff]
    | split)

theorem portSide_granuleOk {s0 s : State} (h : PortSide s0 s) (p g : Nat) : PortSide s0 (granuleOk s p g) := by
  unfold granuleOk
  try dsimp only
  repeat' (first
    | with_reducible assumption
    | with_reducible apply portSide_setFarPort
    | with_reducible apply portSide_setFarModule
    | with_reducible apply portSide_setPhys
    | (with_reducible refine PortSide.foldl (fun _ _ _ _ => ?_) ?_ _)
    | simp only [PortSide.upd_iff]
    | split)

theorem portSide_releaseGranule {s0 s : State} (h : PortSide s0 s) (p g o : Nat) (d : Bool) : PortSide s0 (releaseGranule s p g o d) := by
  unfold releaseGranule
  try dsimp only
  repeat' (first
    | with_reducible assumption
    | with_reducible apply portSide_setPhys
    | with_reducible apply portSide_appendJournal
    | simp only [PortSide.upd_iff]
    | split)

theorem portSide_journalDone {s0 s : State} (h : PortSide s0 s) (p g : Nat) : PortSide s0 (journalDone s p g) := by
  unfold journalDone
  try dsimp only
  repeat' (first
    | with_reducible assumption
    | with_reducible apply portSide_setFarPort
    | with_reducible apply portSide_checkPool
    | with_reducible apply portSide_levelWear
    | with_reducible apply portSide_appendJournal
    | with_reducible apply portSide_checkpoint
    | with_reducible apply portSide_releaseGranule
    | simp only [PortSide.upd_iff]
    | split)

theorem portSide_settleGranule {s0 s : State} (h : PortSide s0 s) (p g : Nat) : PortSide s0 (settleGranule s p g) := by
  unfold settleGranule
  try dsimp only
  repeat' (first
    | with_reducible assumption
    | with_reducible apply portSide_startCommit
    | with_reducible apply portSide_granuleOk
    | with_reducible apply portSide_journalDone
    | simp only [PortSide.upd_iff]
    | split)

theorem portSide_roomForBuffer {s0 s : State} (h : PortSide s0 s) (p g : Nat) : PortSide s0 (roomForBuffer s p g) := by
  unfold roomForBuffer
  try dsimp only
  repeat' (first
    | with_reducible assumption
    | with_reducible apply portSide_settleGranule
    | simp only [PortSide.upd_iff]
    | split)

theorem portSide_stageLine {s0 s : State} (h : PortSide s0 s) (p g l : Nat) (x : FarLine) : PortSide s0 (stageLine s p g l x) := by
  unfold stageLine
  try dsimp only
  repeat' (first
    | with_reducible assumption
    | with_reducible apply portSide_setFarPort
    | simp only [PortSide.upd_iff]
    | split)

theorem portSide_storeNear {s0 s : State} (h : PortSide s0 s) (a : Nat) (x : ScLine) : PortSide s0 (storeNear s a x) := by
  unfold storeNear
  try dsimp only
  repeat' (first
    | with_reducible assumption
    | with_reducible apply portSide_setPoison
    | (with_reducible refine PortSide.foldl (fun _ _ _ _ => ?_) ?_ _)
    | simp only [PortSide.upd_iff]
    | split)

theorem portSide_writeBack {s0 s : State} (h : PortSide s0 s) (n : Nat) (x : ScLine) : PortSide s0 (writeBack s n x) := by
  unfold writeBack
  try dsimp only
  repeat' (first
    | with_reducible assumption
    | with_reducible apply portSide_setRegBit
    | with_reducible apply portSide_roomForBuffer
    | with_reducible apply portSide_stageLine
    | with_reducible apply portSide_storeNear
    | simp only [PortSide.upd_iff]
    | split)

theorem portSide_dropLine {s0 s : State} (h : PortSide s0 s) (n : Nat) : PortSide s0 (dropLine s n) := by
  unfold dropLine
  try dsimp only
  repeat' (first
    | with_reducible assumption
    | simp only [PortSide.upd_iff]
    | split)

theorem portSide_markTree {s0 s : State} (h : PortSide s0 s) (n w : Nat) (v : Bool) : PortSide s0 (markTree s n w v) := by
  unfold markTree
  try dsimp only
  repeat' (first
    | with_reducible assumption
    | simp only [PortSide.upd_iff]
    | split)

theorem portSide_freeWay {s0 s : State} (h : PortSide s0 s) (n : Nat) : PortSide s0 (freeWay s n).2 := by
  unfold freeWay
  try dsimp only
  repeat' (first
    | with_reducible assumption
    | with_reducible apply portSide_writeBack
    | with_reducible apply portSide_dropLine
    | simp only [PortSide.upd_iff]
    | split)

theorem portSide_ensureLine {s0 s : State} (h : PortSide s0 s) (n : Nat) (b : Bool) : PortSide s0 (ensureLine s n b) := by
  unfold ensureLine
  try dsimp only
  repeat' (first
    | with_reducible assumption
    | with_reducible apply portSide_markTree
    | with_reducible apply portSide_freeWay
    | simp only [PortSide.upd_iff]
    | split)

theorem portSide_countHit {s0 s : State} (h : PortSide s0 s) (l : Nat) : PortSide s0 (countHit s l) := by
  unfold countHit
  try dsimp only
  repeat' (first
    | with_reducible assumption
    | with_reducible apply portSide_addCounter
    | simp only [PortSide.upd_iff]
    | split)

theorem portSide_countMiss {s0 s : State} (h : PortSide s0 s) (l : Nat) : PortSide s0 (countMiss s l) := by
  unfold countMiss
  try dsimp only
  repeat' (first
    | with_reducible assumption
    | with_reducible apply portSide_addCounter
    | simp only [PortSide.upd_iff]
    | split)

theorem portSide_showMisses {s0 s : State} (h : PortSide s0 s) (l : Nat) : PortSide s0 (showMisses s l) := by
  unfold showMisses
  try dsimp only
  repeat' (first
    | with_reducible assumption
    | with_reducible apply portSide_setRegFld
    | simp only [PortSide.upd_iff]
    | split)

theorem portSide_openMiss {s0 s : State} (h : PortSide s0 s) (l : Nat) : PortSide s0 (openMiss s l) := by
  unfold openMiss
  try dsimp only
  repeat' (first
    | with_reducible assumption
    | with_reducible apply portSide_countMiss
    | with_reducible apply portSide_showMisses
    | simp only [PortSide.upd_iff]
    | split)

theorem portSide_movePoisoned {s0 s : State} (h : PortSide s0 s) (l : Nat) : PortSide s0 (movePoisoned s l) := by
  unfold movePoisoned
  try dsimp only
  repeat' (first
    | with_reducible assumption
    | with_reducible apply portSide_uncorrectable
    | with_reducible apply portSide_startCommit
    | simp only [PortSide.upd_iff]
    | split)

theorem portSide_fetchLine {s0 s : State} (h : PortSide s0 s) (l : Nat) (b : Bool) : PortSide s0 (fetchLine s l b) := by
  unfold fetchLine
  try dsimp only
  repeat' (first
    | with_reducible assumption
    | with_reducible apply portSide_ensureLine
    | with_reducible apply portSide_movePoisoned
    | simp only [PortSide.upd_iff]
    | split)

theorem portSide_fetchMiss {s0 s : State} (h : PortSide s0 s) (l : Nat) (b : Bool) : PortSide s0 (fetchMiss s l b) := by
  unfold fetchMiss
  try dsimp only
  repeat' (first
    | with_reducible assumption
    | with_reducible apply portSide_showMisses
    | with_reducible apply portSide_movePoisoned
    | with_reducible apply portSide_fetchLine
    | simp only [PortSide.upd_iff]
    | split)

theorem portSide_holdMiss {s0 s : State} (h : PortSide s0 s) (l : Nat) : PortSide s0 (holdMiss s l) := by
  unfold holdMiss
  try dsimp only
  repeat' (first
    | with_reducible assumption
    | with_reducible apply portSide_setRegBit
    | with_reducible apply portSide_addCounter
    | with_reducible apply portSide_freeWord
    | simp only [PortSide.upd_iff]
    | split)

theorem portSide_stallTint {s0 s : State} (h : PortSide s0 s) (t : Nat) : PortSide s0 (stallTint s t) := by
  unfold stallTint
  try dsimp only
  repeat' (first
    | with_reducible assumption
    | with_reducible apply portSide_addCounter
    | with_reducible apply portSide_freeWord
    | simp only [PortSide.upd_iff]
    | split)

theorem portSide_chargePort {s0 s : State} (h : PortSide s0 s) (p : Port) (r : LineReq) : PortSide s0 (chargePort s p r) := by
  unfold chargePort
  try dsimp only
  repeat' (first
    | with_reducible assumption
    | with_reducible apply portSide_chargeBucket
    | (with_reducible refine PortSide.foldl (fun _ _ _ _ => ?_) ?_ _)
    | simp only [PortSide.upd_iff]
    | split)

theorem portSide_touchSc {s0 s : State} (h : PortSide s0 s) (p : Port) (r : LineReq) : PortSide s0 (touchSc s p r) := by
  unfold touchSc
  try dsimp only
  repeat' (first
    | with_reducible assumption
    | with_reducible apply portSide_markTree
    | with_reducible apply portSide_countHit
    | with_reducible apply portSide_openMiss
    | with_reducible apply portSide_fetchMiss
    | simp only [PortSide.upd_iff]
    | split)

theorem portSide_issueReq {s0 s : State} (h : PortSide s0 s) (p : Port) (r : LineReq) : PortSide s0 (issueReq s p r).2 := by
  unfold issueReq
  try dsimp only
  repeat' (first
    | with_reducible assumption
    | with_reducible apply portSide_holdMiss
    | with_reducible apply portSide_stallTint
    | with_reducible apply portSide_chargePort
    | with_reducible apply portSide_touchSc
    | simp only [PortSide.upd_iff]
    | split)

theorem portSide_issueReqs {s0 s : State} (h : PortSide s0 s) (p : Port) (rs : List LineReq) : PortSide s0 (issueReqs s p rs).2 := by
  induction rs generalizing s with
  | nil => exact h
  | cons r t ih =>
    unfold issueReqs
    have hr := portSide_issueReq h p r
    split
    · rename_i s' hx; rw [hx] at hr; exact hr
    · rename_i s' hx; rw [hx] at hr; exact ih hr

/-- Issuing all requests of a port, or being held, leaves everything else alone. -/
theorem portSide_issueAll (s : State) (p : Port) (rs : List LineReq) : PortSide s (issueAll s p rs).2 := by
  unfold issueAll
  split
  · exact portSide_issueReq (PortSide.refl s) p _
  · dsimp only
    split
    · exact portSide_issueReqs (PortSide.refl s) p rs
    · exact PortSide.refl s

end Sys2Proof.Machine
end

