-- ==== Sys2Proof/Tests/Slice0.lean ====
section
/-! SUPPORT. The model's own tests: ill-formed commands that WellFormed refuses, instruction words written out from the encoding of
chapter 7, worked cases of the spec, and for each statement with hypotheses states and operands that meet them. -/

namespace Sys2Proof.Tests

set_option Elab.async false

open Sys2Proof Sys2Proof.Machine

/-- A state with these registers written. -/
def withRegs (s : State) (l : List (Nat × Word)) : State := l.foldl (fun s x => setRegWord s x.1 x.2) s

/-! Well-formed commands. -/

/-- Ill-formed commands: an action bit not set in the word written. -/
theorem test_wf_action_bits :
    wellFormed (.taCntClear 0 0) = false ∧ wellFormed (.taHighClr 0 0) = false ∧ wellFormed (.taStopReq 0 2 0) = false ∧
    wellFormed (.taStopResume 0 1) = false ∧ wellFormed (.dbgHalt 0 0) = false ∧ wellFormed (.dbgResume 0 0x100) = false ∧
    wellFormed (.dbgStep 0 0x100) = false ∧ wellFormed (.haltAll 0 0) = false ∧ wellFormed (.resumeAll 0 0x1000) = false ∧
    wellFormed (.teCntClear 0 0x20) = false ∧ wellFormed (.flushReq 2) = false ∧ wellFormed (.flushInval 1) = false ∧
    wellFormed (.scHighClr 0 0) = false ∧ wellFormed (.moverGo 0 0) = false ∧ wellFormed (.persistReq 0) = false ∧
    wellFormed (.format 0 2) = false ∧ wellFormed (.unmount 0 3) = false ∧ wellFormed (.mount 0 1) = false ∧
    wellFormed (.retrain 0 1) = false ∧ wellFormed (.fabCmdLeave 2) = false ∧ wellFormed (.rediscover 1) = false ∧
    wellFormed (.confirm 2) = false ∧ wellFormed (.confirmAll 1) = false ∧ wellFormed (.withdraw 3) = false ∧
    wellFormed (.deep 2) = false ∧ wellFormed (.wake 1) = false ∧ wellFormed (.clearHold 0) = false ∧ wellFormed (.go 2) = false ∧
    wellFormed (.retry 1) = false ∧ wellFormed (.prog 2) = false ∧ wellFormed (.erase 1) = false ∧ wellFormed (.nonce 2) = false ∧
    wellFormed (.tokenSubmit 1) = false ∧ wellFormed (.extend6 8) = false ∧ wellFormed (.extend7 4) = false ∧
    wellFormed (.relaySend 0) = false := by
  decide +kernel

/-- The same commands with their bit set. -/
theorem test_wf_action_bits_set :
    wellFormed (.taCntClear 0 8) = true ∧ wellFormed (.taHighClr 0 0x20000) = true ∧ wellFormed (.taStopReq 0 1 0) = true ∧
    wellFormed (.taStopResume 0 2) = true ∧ wellFormed (.dbgHalt 0 0x100) = true ∧ wellFormed (.dbgResume 0 0x200) = true ∧
    wellFormed (.dbgStep 0 0x400) = true ∧ wellFormed (.haltAll 0 0x1000) = true ∧ wellFormed (.resumeAll 0 0x2000) = true ∧
    wellFormed (.teCntClear 0 0x40) = true ∧ wellFormed (.flushReq 1) = true ∧ wellFormed (.flushInval 2) = true ∧
    wellFormed (.scHighClr 0 0x20000) = true ∧ wellFormed (.format 0 1) = true ∧ wellFormed (.unmount 0 2) = true ∧
    wellFormed (.mount 0 3) = true ∧ wellFormed (.retrain 0 2) = true ∧ wellFormed (.relaySend 1) = true := by
  decide +kernel

/-- Ill-formed commands: lengths and combinations that the hardware does not have. -/
theorem test_wf_lengths :
    wellFormed (.accvReadComplete 0 true true) = false ∧ wellFormed (.scRequest ⟨⟨0, 0, 0, 0, .read, false⟩, .clean⟩) = false ∧
    wellFormed (.scRequest ⟨⟨0, 0, 1, 128, .read, false⟩, .clean⟩) = false ∧ wellFormed (.vcWordResend 0 false []) = false ∧
    wellFormed (.vcWordResend 0 false [10560]) = false ∧ wellFormed (.fm576Event 0 []) = false ∧
    wellFormed (.work 0 ⟨0, [0]⟩) = false ∧ wellFormed (.data 0 ⟨0, [0]⟩) = false ∧ wellFormed (.result 0 ⟨0, [0]⟩) = false ∧
    wellFormed (.ack 0 ⟨0, [0]⟩) = false ∧ wellFormed (.nack 0 ⟨0, [0]⟩) = false ∧ wellFormed (.lot 0 ⟨0, [0]⟩) = false ∧
    wellFormed (.crcDrop 0 ⟨0, [0]⟩) = false ∧ wellFormed (.packetForward 0 ⟨0, [0]⟩ ⟨0, .clean⟩) = false ∧
    wellFormed (.itemComplete ⟨0, 0, 0⟩ (List.replicate 16385 0)) = false ∧ wellFormed (.submit 0 0 (List.replicate 513 0)) = false ∧
    wellFormed (.dataFrame 0 ⟨0, [], 0⟩) = false ∧ wellFormed (.linkControlFrame 0 ⟨0, [0], 0⟩) = false ∧
    wellFormed (.idleFrame 0 ⟨0, [0], 0⟩) = false ∧ wellFormed (.probe 0 0 []) = false ∧
    wellFormed (.probe 0 0 (List.replicate 17 0)) = false ∧ wellFormed (.probeReply ⟨0, false, 0, 0, false, [0], []⟩) = false ∧
    wellFormed (.probeTimeout []) = false ∧ wellFormed (.routeSet ⟨0, 0, 4096, List.replicate 17 0⟩) = false ∧
    wellFormed (.routeSet ⟨0, 0, 0, List.replicate 4081 0⟩) = false ∧ wellFormed (.thermalSample ⟨[], [], []⟩) = false ∧
    wellFormed (.fuses (List.replicate 1025 0) [] true true) = false ∧ wellFormed (.regions [] []) = false ∧
    wellFormed (.nearMem []) = false ∧ wellFormed (.farMem []) = false ∧ wellFormed (.fabric []) = false ∧
    wellFormed (.spdmResponse 0 (List.replicate 4097 0)) = false ∧ wellFormed (.challenge .doe 0 []) = false ∧
    wellFormed (.getMeasurements .doe 1 false []) = false ∧ wellFormed (.bar2Read 0 0) = false ∧ wellFormed (.bar2Write 0 [] false) = false := by
  decide +kernel

/-! Thread instructions. -/

/-- A launch record: one group of 32 threads, 256 v registers, 64 KiB of local store, all four arrays, item 7 of device 5. -/
def demoLaunch : LaunchRec :=
  BitVec.ofNat 256 (31 * 2 ^ 5 + 31 * 2 ^ 10 + 64 * 2 ^ 16 + 0x1000 * 2 ^ 32 + 5 * 2 ^ 160 + 7 * 2 ^ 176 + 15 * 2 ^ 224)

/-- A group of 32 threads that are all ready at address 0. -/
def demoGroup : Group := { threads := List.replicate 32 {}, u := [(1, 0x800)], launch := demoLaunch, block := 0, gidx := 0, age := 0 }

def demoSubset : Subset := ⟨0, List.range 32, false⟩

/-- A module at READY in debug mode: GDDR7, one enabled region, a hold window of 1 MiB, identifier 5. -/
def live : State :=
  withRegs { boot := { begun := 15, done := 15 },
             pins := { pwrGood := true, coreUp := true, startDue := false, fmPerst := true } }
    [(Reg.NEAR_STATUS, BitVec.ofNat 32 (12 + 93184 * 256)), (Reg.RLZ_STATUS, 64), (Reg.RLZ_HOLD_SIZE, 1024), (Reg.TE_ID 0, 0x10000),
     (Reg.REP_REGION 0, 64), (Reg.TA_ID 0, 0x10000), (Reg.FAB_ID, 0x10005), (Reg.BOOT_STEP, 0x3E), (Reg.SEC_STAT, 3), (Reg.TE_DRING_CFG 0 0, 0x100)]

/-- The module with the group g in slot 0 of engine 0 and the word w at address 0. -/
def demoWith (g : Group) (w : BitVec 64) : State :=
  { live with engines := [(0, { groups := [(0, g)], blocks := [(0, { launch := demoLaunch, groups := 1, base := 0 })], nextBlock := 1,
                                rings := [(0, { slots := [(⟨5, 7, 0⟩, List.replicate 128 9)], fifo := [(⟨5, 7, 0⟩, 3, 2)] })],
                                icache := [(0, w)] })] }

def demo (w : BitVec 64) : State := demoWith demoGroup w

theorem demo_breakpoint (w : BitVec 64) : breakpointAt (demo w) 0 demoSubset.pc = false :=
  (rfl : _ = breakpointAt live 0 0).trans (by decide +kernel)

theorem demo_fetch (w : BitVec 64) : fetchWord (demo w) 0 demoSubset.pc = some w := by
  simp [fetchWord, demo, demoWith, eng, lookD, look, demoSubset]

theorem demo_issues (w : BitVec 64) (hl : legalWord w = true) (hv : vregsNamed w ≤ 256) :
    Issues (demo w) 0 0 w demoGroup demoSubset where
  slot := rfl
  pick := by decide +kernel
  eligible := by decide +kernel
  idle := rfl
  first := rfl
  sound := rfl
  fetch := demo_fetch w
  brk := demo_breakpoint w
  legal := hl
  vregs := hv
  full := by decide +kernel

def r0 : RForm := ⟨false, false, 0, 0, 0, 0, 0, false, false, false, false, 0⟩
def i0 : IForm := ⟨false, false, 0, 0, false, 0, 0⟩
def m0 : MForm := ⟨false, false, 0, 2, 0, 0, 0, 2, 0, false⟩
def a0 : AForm := ⟨false, false, 0, 2, 0, 0, 0, 0, 0, 0, 0⟩

/-- A legal word of every thread instruction. -/
def demoWords : List (BitVec 64) :=
  ([0, 1, 2, 3, 4, 5, 6, 7, 8, 9, 0xA, 0xB, 0xC, 0xD, 0xE, 0xF, 0x10, 0x11, 0x12, 0x13, 0x14, 0x15, 0x16, 0x17, 0x18, 0x19, 0x1C, 0x1D, 0x1E,
    0x1F].map (fun o => r0.encode 0 o)) ++ [i0.encode 0 0x1A, i0.encode 0 0x1B] ++
  ([0, 1, 2, 3, 4, 5, 6, 7, 8, 9, 0xA, 0xB, 0xC, 0xD, 0x10, 0x11, 0x12].map (fun o => r0.encode 1 o)) ++
  [r0.encode 2 0x00, r0.encode 2 0x25, { r0 with mod := 0x140 }.encode 2 0x30, i0.encode 3 0, r0.encode 3 1, i0.encode 3 2, r0.encode 3 3, { i0 with imm := 1 }.encode 3 4, r0.encode 3 5,
   r0.encode 3 6, m0.encode 4 0, m0.encode 4 1, { m0 with w := true }.encode 4 0, { m0 with w := true }.encode 4 1, m0.encode 5 0, m0.encode 5 1,
   m0.encode 6 0, m0.encode 6 1] ++
  ([0, 1, 2, 3, 4, 5, 6, 7, 8, 9, 0xA, 0xB, 0xC, 0xD].map (fun o => a0.encode 7 o)) ++
  [{ r0 with mod := 3 }.encode 8 0, r0.encode 9 0, { r0 with mod := 0x10 }.encode 9 0] ++
  ([0, 1, 2, 4, 9, 0xC, 0xD, 0xE].map (fun o => { r0 with ua := true }.encode 10 o)) ++
  ([3, 8].map (fun o => { r0 with ua := true, mod := 4 }.encode 10 o)) ++ [i0.encode 11 0, r0.encode 11 1]

theorem demo_words : demoWords.all (fun w => legalWord w && decide (vregsNamed w ≤ 256) && decide (actLanes w demoGroup demoSubset = List.range 32)) = true := by
  decide +kernel

/-- Every thread instruction has a word that issues from a state, for all 32 lanes: the hypothesis of the statements about them. -/
theorem witness_issues (w : BitVec 64) (hw : w ∈ demoWords) :
    Issues (demo w) 0 0 w demoGroup demoSubset ∧ actLanes w demoGroup demoSubset = List.range 32 := by
  have h := List.all_eq_true.mp demo_words w hw
  simp only [Bool.and_eq_true, decide_eq_true_eq] at h
  exact ⟨demo_issues w h.1.1 h.1.2, h.2⟩

/-- Words written out from R229 to R231, R236, R243, R244 and R249: iadd v3, v1, v2; movi u4, 0x12345678; ld.local v5 with B v6, OFF −4,
SIZE 2; aadd v7 with u2, v8, v9; and a guarded fadd by the inverse of p5. -/
theorem test_words :
    RForm.ofWord 0x000000C0_40800000 = { r0 with d := 3, a := 1, b := 2 } ∧
    wordClass 0x000000C0_40800000 = 0 ∧ wordOp 0x000000C0_40800000 = 0 ∧
    IForm.ofWord 0x01A00120_12345678 = { i0 with d := 4, ud := true, imm := 0x12345678 } ∧ wordOp 0x01A00120_12345678 = 0x1A ∧
    MForm.ofWord 0x40000140_01BFFF10 = { m0 with d := 5, b := 6, off := 0xFFFC } ∧ wordClass 0x40000140_01BFFF10 = 4 ∧
    AForm.ofWord 0x700001C0_82024000 = { a0 with d := 7, a := 2, b := 8, c := 9 } ∧ wordClass 0x700001C0_82024000 = 7 ∧
    RForm.ofWord 0x100D4000_00000000 = { r0 with g := true, gn := true, gp := 5 } ∧ wordClass 0x100D4000_00000000 = 1 := by
  decide +kernel

/-- A guard of 0 shuts every lane out; the conditions of icmp and fcmp that a MOD names are legal (R233). -/
theorem witness_guard_and_conditions :
    actLanes ({ r0 with g := true, ua := true }.encode 10 0) demoGroup demoSubset = [] ∧
    (([0, 1, 2, 3, 4, 5].all (fun k => legalWord ({ r0 with mod := k }.encode 0 0x17))) = true) ∧
    (([0, 4, 8, 12, 16, 20, 24].all (fun k => legalWord ({ r0 with mod := k }.encode 1 0x08))) = true) := by
  decide +kernel

/-- Illegal words (R233): a reserved class, an OP of no instruction, a reserved bit, a reserved rounding mode; and one that names v255. -/
theorem witness_illegal_words :
    legalWord 0xC000000000000000 = false ∧ legalWord (r0.encode 0 0x20) = false ∧ legalWord ({ i0 with rsv := 1 }.encode 3 0) = false ∧
    legalWord ({ r0 with mod := 2 }.encode 1 0) = false ∧
    (legalWord ({ r0 with d := 255 }.encode 0 0) = true ∧ vregsNamed ({ r0 with d := 255 }.encode 0 0) = 256 ∧
      launchVregs 0 < vregsNamed ({ r0 with d := 255 }.encode 0 0)) ∧
    fetchWord { demo 0 with engines := [(0, { groups := [(0, demoGroup)] })], regs := [] } 0 0 = none := by
  decide +kernel

/-- Worked operands of chapter 7: a branch back by 8, a jump and link, a target of brv that is not aligned, a division by zero. -/
theorem witness_branches :
    (0x1000#48 + (0xFFFFFFF8#32).signExtend 48 = 0xFF8) ∧
    (let g := { demoGroup with u := [(0, 4), (1, 0)] }
     (g.operand 0 true 1).extractLsb' 0 16 ++ g.operand 0 true 0 = 4#48) ∧
    (∀ l ∈ List.range 32, ((demoGroup.operand l false 1).extractLsb' 0 16 ++ demoGroup.operand l false 0).toNat % 8 = 0) := by
  decide +kernel

/-- What R239 lists for exp2, log2, rcp and rsqrt leaves operands within the accuracy of R238. -/
theorem witness_approx : (Fmt.fp32.round .nearest (.num false 1 1)).2.overflow = false ∧ (Fmt.fp32.decode 0xFFC00000).isNan = true ∧
    (0x80000001#32).getLsbD 31 = true ∧ (Fmt.fp32.decode 0x80000001).isNan = false := by
  decide +kernel

/-! Memory accesses, atomics and barriers. -/

/-- Loads and stores: every lane's address passes its checks and nothing is poisoned, in each space. -/
theorem witness_accesses :
    (∀ l ∈ List.range 32, laneCheck (demo 0) 0 demoGroup .local false 4 l (laneAddr .local demoGroup l 0 0 0x3FC) = .inr 0x3FC ∧
      (spaceRead (demo 0) 0 demoGroup .local 0x3FC 4).2 = false ∧
      laneCheck (demo 0) 0 demoGroup .local true 4 l (laneAddr .local demoGroup l 0 0 0x3FC) = .inr 0x3FC) ∧
    (∀ l ∈ List.range 32, laneCheck (demo 0) 0 demoGroup .bank false 4 l (laneAddr .bank demoGroup l 0 0 8) = .inr (pbBase + 8) ∧
      (spaceRead (demo 0) 0 demoGroup .bank (pbBase + 8) 4).2 = false ∧
      laneCheck (demo 0) 0 demoGroup .bank true 4 l (laneAddr .bank demoGroup l 0 0 8) = .inr (pbBase + 8)) ∧
    (∀ l ∈ List.range 32, laneCheck (demo 0) 0 demoGroup .global false 4 l (laneAddr .global demoGroup l 0 0 0) = .inr holdBase ∧
      (spaceRead (demo 0) 0 demoGroup .global holdBase 4).2 = false ∧
      laneCheck (demo 0) 0 demoGroup .global true 4 l (laneAddr .global demoGroup l 0 0 0) = .inr holdBase) := by
  decide +kernel

/-- The module whose channels all replace a wire in both directions. -/
def replacing (w : BitVec 64) : State := { demo w with vc := { replacing := tab 228 (fun k => (k, 1)) } }

theorem replacing_issues (w : BitVec 64) (hl : legalWord w = true) (hv : vregsNamed w ≤ 256) :
    Issues (replacing w) 0 0 w demoGroup demoSubset where
  slot := rfl
  pick := by decide +kernel
  eligible := by decide +kernel
  idle := rfl
  first := rfl
  sound := rfl
  fetch := demo_fetch w
  brk := (rfl : _ = breakpointAt live 0 0).trans (by decide +kernel)
  legal := hl
  vregs := hv
  full := by decide +kernel

/-- The requests of a group-issue are all issued, and then every lane still passes its checks and finds no poison; while a wire of
the channel is being replaced they are held. -/
theorem witness_port_requests :
    (let r := issueAll (fetched (demo 0) 0 0 0) (enginePort (demo 0) 0 demoLaunch false) ((List.range 32).map (fun _ => ⟨true, holdBase, 4, false⟩))
     r.1 = true ∧ (∀ l ∈ List.range 32, laneCheck r.2 0 demoGroup .global false 4 l (laneAddr .global demoGroup l 0 0 0) = .inr holdBase) ∧
     (spaceRead r.2 0 demoGroup .global holdBase 4).2 = false) ∧
    (let r := issueAll (fetched (demo 0) 0 0 0) (enginePort (demo 0) 0 demoLaunch false) ((List.range 32).map (fun _ => ⟨false, pbBase + 8, 4, false⟩))
     r.1 = true ∧ (∀ l ∈ List.range 32, laneCheck r.2 0 demoGroup .bank true 4 l (laneAddr .bank demoGroup l 0 0 8) = .inr (pbBase + 8))) ∧
    (issueAll (fetched (demo 0) 0 0 0) (enginePort (demo 0) 0 demoLaunch false) [⟨false, holdBase, 4, true⟩]).1 = true ∧
    (issueAll (fetched (replacing 0) 0 0 0) (enginePort (replacing 0) 0 demoLaunch false) [⟨true, holdBase, 4, false⟩]).1 = false ∧
    (issueAll (fetched (replacing 0) 0 0 0) (enginePort (replacing 0) 0 demoLaunch false) [⟨false, pbBase + 8, 4, false⟩]).1 = false := by
  decide +kernel

/-- The drain-ring window: a delivered slot gives its bytes, the next one has not been delivered. -/
theorem witness_ring_window :
    (∀ l ∈ List.range 32, ringLane (demo 0) 0 { m0 with w := true } demoGroup l = .inr (0, some [9, 0, 0, 0])) ∧
    ringLane (demo 0) 0 { m0 with w := true, off := 0x200 } demoGroup 0 = .inr (1, none) := by
  decide +kernel

/-- Where accesses trap: misaligned, outside the allocation, the bank and the map; a poisoned word. -/
theorem witness_access_traps :
    laneCheck (demo 0) 0 demoGroup .local false 4 0 2 = .inl ⟨0, 4, 0, 2⟩ ∧
    laneCheck (demo 0) 0 demoGroup .local true 4 3 65536 = .inl ⟨3, 6, 0, 65536⟩ ∧
    laneCheck (demo 0) 0 demoGroup .local false 4 0 65532 = .inr 65532 ∧
    laneCheck (demo 0) 0 demoGroup .bank false 4 0 0x800000 = .inl ⟨0, 5, 0, 0x800000⟩ ∧
    laneCheck (demo 0) 0 demoGroup .global false 4 0 (holdBase + 0x100000 : Nat) = .inl ⟨0, 5, 0, 0x080000100000⟩ ∧
    laneCheck (demo 0) 0 demoGroup .global true 4 0 (holdBase + 0xFFFFC : Nat) = .inr (holdBase + 0xFFFFC) ∧
    (spaceRead { demo 0 with poison := [holdBase] } 0 demoGroup .global holdBase 4).2 = true ∧
    actLanes ({ m0 with g := true }.encode 6 0) { demoGroup with threads := { p := 1 } :: List.replicate 31 {} } demoSubset = [0] := by
  decide +kernel

/-- A group whose lane l holds 4l in v0. -/
def spreadGroup : Group := { demoGroup with threads := tab 32 (fun l => { v := putD 0 [] 0 (BitVec.ofNat 32 (4 * l)) }) }

/-- Atomics: all lanes on one word, and lanes on several words that all pass, for local store. -/
theorem witness_atomics :
    (∀ l ∈ List.range 32, laneCheck (demo 0) 0 demoGroup .global true 4 l (laneAddr .global demoGroup l 0 0 0) = .inr holdBase) ∧
    actLanes (a0.encode 7 0) spreadGroup demoSubset = List.range 32 ∧
    (∀ l ∈ List.range 32, laneCheck (demoWith spreadGroup 0) 0 spreadGroup .bank true 4 l (laneAddr .bank spreadGroup l 0 0 0) =
      .inr (pbBase + 4 * l)) ∧
    ((([0, 1, 2] : List Nat).map (fun l => pbBase + 4 * l)).foldl
      (fun r q => atomRequest 0 .add a0 r q (([0, 1, 2] : List Nat).filter (fun l => decide (pbBase + 4 * l = q))))
      { st := demoWith spreadGroup 0, g := spreadGroup, faults := [] }).faults = [] ∧
    (actLanes (a0.encode 7 0xD) spreadGroup demoSubset).getLast? = some 31 := by
  decide +kernel

/-- A write of the hold window at its first byte, and one that ends with a line of GDDR7. -/
theorem witness_writes :
    ([1] : List Byte) ≠ [] ∧ holdBase ≤ holdBase ∧ 126 + ([1, 2] : List Byte).length ≤ holdBase ∧ 126 / 128 = (126 + 2 - 1) / 128 ∧
    look live.sc.lines 0 = none ∧
    (let s : State := { live with sc := { live.sc with lines := [(5, { way := 0, valid := BitVec.allOnes 128, dirty := BitVec.allOnes 128 })] } }
     (look s.sc.lines (5 * 128 / 128)).map (fun q => (q.valid, q.dirty)) = some (BitVec.allOnes 128, BitVec.allOnes 128)) := by
  decide +kernel

/-- Barriers: no lane waits yet; a mask that holds every lane; one that leaves lane 0 out; a group that waits in another form. -/
theorem witness_barriers :
    barrierForm (demo 0) 0 0 demoGroup false 0 = none ∧ barrierForm (demo 0) 0 0 demoGroup true 7 = none ∧
    (∀ l ∈ List.range 32, (0xFFFFFFFF#32).getLsbD l = true) ∧ (0xFFFFFFFE#32).getLsbD 0 = false ∧
    (let g := { demoGroup with threads := { bar := some ⟨false, 0, none⟩ } :: List.replicate 31 {} }
     barrierForm (demoWith g 0) 0 0 g false 0 = some ⟨false, 0, none⟩ ∧ g.pick = some ⟨0, (List.range 32).drop 1, false⟩ ∧
     g.threads.length = 32 ∧ (g.th 1).exited = false ∧ (g.th 1).bar = none) ∧
    (let g := { demoGroup with threads := List.replicate 32 { bar := some ⟨true, 7, none⟩ } }
     barrierForm (demoWith g 0) 0 0 g true 7 = some ⟨true, 7, none⟩ ∧ ∀ l ∈ List.range 32, (g.th l).bar = some ⟨true, 7, none⟩) := by
  decide +kernel

/-! Array and trigger instructions, and traps. -/

/-- Descriptors of item 7 of device 5: an INT8 pass of one row and one column with CLEAR (R79), the same keeping the active tile without
CLEAR, a preload of zeros and a drain to the ring (R131, R135), all of INT8 or INT32. -/
def passDesc : Desc := BitVec.ofNat 512 (1 + 9 * 16 + 9 * 256 + 2 ^ 15 + holdBase * 2 ^ 128 + holdBase * 2 ^ 224 + 5 * 2 ^ 416 + 7 * 2 ^ 432)
def keepDesc : Desc := BitVec.ofNat 512 (1 + 9 * 16 + 9 * 256 + 2 ^ 16 + holdBase * 2 ^ 224 + 5 * 2 ^ 416 + 7 * 2 ^ 432)
def preDesc : Desc := BitVec.ofNat 512 (2 + 10 * 16 + 3 * 2 ^ 9 + 5 * 2 ^ 416 + 7 * 2 ^ 432)
def drainDesc : Desc := BitVec.ofNat 512 (3 + 10 * 16 + 5 * 2 ^ 416 + 7 * 2 ^ 432)

/-- The group with the words of a descriptor in u0 to u15. -/
def descGroup (d : Desc) : Group := { demoGroup with u := (List.range 16).foldl (fun u i => putD 0 u i (wordOf d i)) [] }

def ra : RForm := { r0 with ua := true }

/-- apass, apre and adrain: a descriptor of their kind that the array takes, one of another kind, an array that is not granted or not
enabled, a full queue, a ring without room. -/
theorem witness_descriptor_instructions :
    ([passDesc, preDesc, drainDesc].all (fun d => decide (argDesc (descGroup d) ra = d) && decide (fld ((descGroup d).ureg 0) 0 4 = fld d 0 4)
      && decide ((issueDesc (demo 0) 0 d (.group 0 0)).1 = .queued)) = true) ∧
    demoLaunch.getLsbD 224 = true ∧ arrayEnabled live 0 = true ∧ arrayEnabled live 1 = false ∧
    (let s := setArr live 0 { queue := List.replicate 16 ⟨0, passDesc, .dispatcher, false, false⟩ }
     (issueDesc s 0 passDesc (.group 0 0)).1 = .full) ∧
    (issueDesc (setRing live 0 0 { reserved := 8 }) 0 drainDesc (.group 0 0)).1 = .ringHeld ∧
    (∀ h ∈ (grp (demo 0) 0 0).toList, h.stopped = false) := by
  decide +kernel

/-- await, dpop and drel at the boundary of what is there: one completion, one FIFO entry, one delivered slot. -/
theorem witness_completions :
    fld ({ ra with mod := 4 }).mod 2 8 = 1 ∧ ({ demoGroup with done := [[3], [], [], []] }.done.getD 0 []).length = 1 ∧
    (demoGroup.done.getD 0 []).length = 0 ∧ (ring (demo 0) 0 0).fifo = [(⟨5, 7, 0⟩, 3, 2)] ∧ (ring (demo 0) 0 1).fifo = [] ∧
    (ring (demo 0) 0 0).slots.length = 1 ∧ (ring (demo 0) 0 1).slots.length < 1 := by
  decide +kernel

/-- lst: a tile of 128 rows of 128 INT8 codes at 0 with a pitch of 512 fills the allocation of 64 KiB; one more row pitch does not fit; the
shadow is withheld while a pass waits that will load it. -/
theorem witness_lake_tile :
    Fmt.ofCode 9 = some .int8 ∧ Fmt.int8.rateClass ≠ none ∧ Fmt.ofCode 15 = none ∧
    (let g := { demoGroup with u := [(1, 512), (2, BitVec.ofNat 32 (127 + 127 * 256 + 9 * 2 ^ 20))] }
     (g.ureg 0).toNat % 64 = 0 ∧ (g.ureg 1).toNat % 64 = 0 ∧ fld (g.ureg 2) 0 8 + 1 = 128 ∧ fld (g.ureg 2) 8 9 + 1 = 128 ∧
     0 + 127 * 512 + Fmt.int8.rowBytes 128 ≤ 1024 * launchLsize g.launch ∧ ¬ (512 + 127 * 512 + Fmt.int8.rowBytes 128 ≤ 1024 * 63) ∧
     (63 : Nat) % 64 ≠ 0 ∧ ¬ (129 ≤ 128)) ∧
    lakeOpen (arr live 0) = true ∧ lakeOpen { queue := [⟨0, passDesc, .dispatcher, false, false⟩] } = false ∧
    (blockOf (demo 0) 0 demoGroup).isSome = true := by
  decide +kernel

def demoKey : ItemKey := ⟨5, 7, 0⟩

/-- A running item of the ITT with the task t. -/
def demoItem (t : TaskDesc) : IttEntry :=
  { key := demoKey, tint := 0, state := .running, code := 0, detail := 0, flags := 0, resends := 0, srcPort := 16, task := t, persist := none, out := none }

/-- The module with that item. -/
def withItem (s : State) (x : IttEntry) : State := { s with items := { s.items with itt := [x] } }

/-- tarm and tsig: a tag with no entry, one that only counts, one armed at its EXPECT, and the operand word of tag 1 with EXPECT 1. -/
theorem witness_triggers :
    launchKey demoLaunch = demoKey ∧ fld (0x10001#32) 0 16 = 1 ∧ fld (0x10001#32) 16 16 = 1 ∧ trigOf live demoKey 1 = none ∧
    live.items.trig.length < 4096 ∧
    (let s : State := { live with items := { live.items with trig := [⟨demoKey, 1, none, 1⟩] } }
     trigOf s demoKey 1 = some ⟨demoKey, 1, none, 1⟩) ∧
    (let y : TrigEntry := ⟨demoKey, 1, some 1, 0⟩
     (y.count + 1 ≤ 1) ∧ y.expect ≠ none) ∧
    (let s : State := { live with items := { live.items with trig := List.replicate 4096 ⟨demoKey, 2, none, 1⟩ } }
     trigOf s demoKey 1 = none ∧ 4096 ≤ s.items.trig.length) := by
  decide +kernel

/-- scanrep: an anchor entry that waits for engine 0 alone. -/
theorem witness_scanrep :
    (let x : AnchorEntry := ⟨demoKey, 0, 1, [0], none, none, none, none⟩
     x.key = launchKey demoLaunch ∧ x.t.val = fld (demoGroup.ureg 0) 0 4 ∧ (0 : Fin 50) ∈ x.waiting) := by
  decide +kernel

/-- Traps: the item of the group is live; a debugger that halts on traps; both a sound and a misaligned jump target. -/
theorem witness_traps :
    grp (demo 0) 0 0 = some demoGroup ∧
    (debugMode (demo 0) && regBit (demo 0) (Reg.TE_DBG_CTRL 0) 11) = false ∧
    (debugMode (withRegs (demo 0) [(Reg.TE_DBG_CTRL 0, 0x800)]) && regBit (withRegs (demo 0) [(Reg.TE_DBG_CTRL 0, 0x800)]) (Reg.TE_DBG_CTRL 0) 11) = true ∧
    ittOf (withItem (demo 0) (demoItem 0)) (launchKey demoGroup.launch) = some (demoItem 0) ∧ (demoItem 0).live = true ∧
    (let g := { demoGroup with threads := List.replicate 32 { v := [(0, 4)] } }
     (List.range 32).filter (fun l => decide (((g.operand l false 1).extractLsb' 0 16 ++ g.operand l false 0).toNat % 8 ≠ 0)) = List.range 32) := by
  decide +kernel

/-! GDDR7, the far tier and persists. -/

/-- The module with controllers 0 to n at STATE 2, the first calibrated at 50 degrees and failing. -/
def withControllers (n : Nat) : State :=
  withRegs { live with near := { calib := [(0, 50)], failing := [0] } } ((List.range (n + 1)).map (fun c => (Reg.NEAR_CTL_STAT c, 2)))

/-- Controllers: 64 retries or a move of 9 degrees are not enough, 65 or 10 are; six or five others serve. -/
theorem witness_controllers :
    ctlState (withControllers 6) 0 = 2 ∧ look (withControllers 6).near.calib 0 = some 50 ∧ ¬ (64 < 64) ∧ 64 < 65 ∧
    ((59 : Int) - 50).natAbs < 10 ∧ 10 ≤ ((60 : Int) - 50).natAbs ∧ ctlState live 0 ≠ 2 ∧
    ctlState (withRegs live [(Reg.NEAR_CTL_STAT 0, 3)]) 0 = 3 ∧ 0 ∈ (withControllers 6).near.failing ∧
    ((List.range 12).filter (fun i => decide (i ≠ 0) && (decide (ctlState (withControllers 6) i = 2) || decide (ctlState (withControllers 6) i = 3)))).length = 6 ∧
    ((List.range 12).filter (fun i => decide (i ≠ 0) && (decide (ctlState (withControllers 5) i = 2) || decide (ctlState (withControllers 5) i = 3)))).length = 5 := by
  decide +kernel

/-- Far port 0 at STATE st with the tables, staging and commits given, and its module. -/
def withFar (st : Nat) (f : FarPort) (m : Fm576) : State :=
  withRegs { live with far := { ports := [(0, f)], modules := [(0, m)] } } [(Reg.FME_PORT_STAT 0, BitVec.ofNat 32 (st + 4 * 16))]

def oneGranule (hours : Nat) : FarTables := { fwd := [(3, 0)], phys := [(0, { wear := 1, state := 1 })], hours := hours }

/-- Commits: a persist asks for one, none is due; a granule of age 336 and 335; failures 1 and 2; wear below and at the limit. -/
theorem witness_commits :
    portServes (withFar 4 {} {}) 0 = true ∧ portServes (withFar 3 {} {}) 0 = false ∧ look (farPort (withFar 4 {} {}) 0).commits 3 = none ∧
    leastWorn {} = some 0 ∧ leastWorn (oneGranule 0) = some 1 ∧
    (let s := withFar 4 { staging := [(3, {})] } {}
     commitDue s 0 3 = false ∧ commitDue { s with far := { s.far with persists := [⟨1, [((0, 3), 0)], false⟩] } } 0 3 = true) ∧
    look (oneGranule 336).fwd 3 = some 0 ∧ regFld live Reg.FME_CFG 0 11 = 336 ∧ granuleAge (oneGranule 336) 0 = 336 ∧
    granuleAge (oneGranule 335) 0 = 335 ∧
    (let c : CommitRec := { target := 1, image := [], fails := 2 }
     let d : CommitRec := { target := 1, image := [], fails := 1 }
     2 ≤ c.fails ∧ d.fails < 2 ∧ c.committed = false ∧
     leastWorn { oneGranule 0 with phys := put (oneGranule 0).phys 1 { physRec (oneGranule 0) 1 with state := 3 } } = some 2) ∧
    (let c : CommitRec := { target := 1, image := [], committed := true }
     c.committed = true ∧ c.defective = false) ∧
    wearLimit live = 200000 ∧ (physRec (oneGranule 0) 0).wear < 200000 ∧
    200000 ≤ (physRec { oneGranule 0 with phys := [(0, { wear := 200000, state := 1 })] } 0).wear := by
  decide +kernel

/-- Far ports that come and go: DOWN or not, the only user of a port lost, a link found, what its module holds, and the widths. -/
theorem witness_far_ports :
    farState (withFar 0 {} {}) 0 = 0 ∧ farState (withFar 4 { staging := [(3, {})] } {}) 0 ≠ 0 ∧
    (farPort (withFar 4 { staging := [(3, {})] } {}) 0).staging ≠ [] ∧ 11 ≤ live.boot.done ∧
    (let f : FarFound := ⟨true, 4, true, true⟩
     f.ready = true ∧ f.rate64 = true ∧ f.width.toNat = 4 ∧ f.mediaOk = true) ∧
    (farModule (withFar 0 {} {}) 0).header = .absent ∧ (farModule (withFar 0 {} { header := .foreign }) 0).header = .foreign ∧
    (let m : Fm576 := { header := .valid }
     m.readonly = false ∧ 4096 ≤ poolSize (mountTables live m)) ∧
    blockLive live (Reg.FME_PORT_CMD 0) = true ∧ live.items.itt = [] ∧ (withItem live (demoItem 0)).items.itt ≠ [] ∧
    (∀ n ∈ [1, 2, 4], farState (withFar n {} {}) 0 = n) ∧
    (farPort (withFar 0 { width := 1 } {}) 0).width = 1 ∧ (farPort (withFar 0 { width := 7 } {}) 0).width < 8 ∧
    (let s := withItem (withFar 4 { staging := [(3, {})] } {}) (demoItem 0)
     let t := { s with far := { s.far with users := [(demoKey, 0)] } }
     ittOf t demoKey = some (demoItem 0) ∧ portServes t 0 = true) := by
  decide +kernel

/-- Persists: room for one more and none left; one that waits for nothing and one that waits. -/
theorem witness_persists :
    blockLive live Reg.FME_PERSIST = true ∧ live.far.persists.length < 32767 ∧
    (⟨1, [], false⟩ : PersistRec).covers = [] ∧ (⟨1, [((0, 3), 0)], false⟩ : PersistRec).covers ≠ [] := by
  decide +kernel

theorem witness_persists_full : 32767 ≤ (List.replicate 32767 (⟨1, [], false⟩ : PersistRec)).length := by
  rw [List.length_replicate]

/-! Items, rings and registers. -/

/-- The task of a move with one mover descriptor, a fill of one row of 64 bytes at the start of the hold window. -/
def fillDesc : Desc := BitVec.ofNat 512 (4 + holdBase * 2 ^ 96 + 64 * 2 ^ 160)
def moveTask : TaskDesc := BitVec.ofNat 2048 (4 + 2 ^ 16 + fillDesc.toNat * 2 ^ 128)

/-- A packet to this device of type typ for item 7. -/
def toMe (typ tint : Nat) (pay : List Byte) (f : PktSpec → PktSpec) : Packet :=
  mkPacket live (f { dst := 5, typ := typ, tint := tint, key := demoKey, payload := pay })

/-- The module, accepting work. -/
def accepting : State := setRegBit live Reg.DSP_ITEM_CFG 28

set_option maxRecDepth 100000 in
/-- A WORK of that move for item 7: accepted at a free place, while it does not accept, with a full ITT, with a descriptor of no kind. -/
theorem witness_work :
    (let p := toMe 1 0 (bvBytes moveTask) id
     forMe accepting p = true ∧ p.typ.toNat = 1 ∧ p.sound = true ∧ packetFault p = none ∧ p.key = demoKey ∧
     BitVec.ofNat 2048 (ofBytes (p.payload.take 256)) = moveTask) ∧
    armList moveTask (bvBytes moveTask) = [] ∧ tkSigtag moveTask = 0 ∧ taskRefusal accepting moveTask [] = none ∧
    acceptsWork accepting = true ∧ acceptsWork live = false ∧ ittOf accepting demoKey = none ∧ keyEnded accepting demoKey = false ∧
    accepting.items.itt = [] ∧ accepting.items.trig = [] ∧ (ittOf (withItem accepting (demoItem moveTask)) demoKey).isSome = true ∧
    keyEnded { accepting with items := { accepting.items with recent := [demoKey] } } demoKey = true ∧
    taskRefusal accepting 0 [] = some 0 := by
  decide +kernel

theorem witness_work_full :
    let other : IttEntry := { demoItem 0 with key := ⟨6, 7, 0⟩ }
    let s : State := { accepting with items := { accepting.items with itt := List.replicate 8192 other } }
    8192 ≤ s.items.itt.length ∧ ∀ e, e ∈ s.items.itt → ItemKey.same e.key demoKey = false := by
  refine ⟨by rw [List.length_replicate], fun e he => ?_⟩
  rw [List.eq_of_mem_replicate he]
  decide +kernel

set_option maxRecDepth 100000 in
/-- DATA at the start of the hold window and beyond its end, with a tag of an item that is not there; LOT against an older entry, the
same lot, and no entry; a packet whose CRC fails. -/
theorem witness_data_and_lot :
    (let p := toMe 2 0 (List.replicate 64 1) (fun q => { q with addr := holdBase })
     forMe live p = true ∧ p.typ.toNat = 2 ∧ p.sound = true ∧ packetFault p = none ∧ p.tag = 0 ∧ dataMover live = some 24 ∧
     reachAll live .mover true (p.addr + p.payload.length) 64 p.addr = true) ∧
    (let p := toMe 2 0 (List.replicate 64 1) (fun q => { q with addr := holdBase + 0x100000 })
     packetFault p = none ∧ reachAll live .mover true (p.addr + p.payload.length) 64 p.addr = false) ∧
    (let p := toMe 2 0 (List.replicate 64 1) (fun q => { q with tag := 3 })
     p.tag ≠ 0 ∧ keyEnded live p.key = false ∧ ittOf live p.key = none) ∧
    (let p := toMe 7 7 [] (fun q => { q with key := ⟨5, 7, 1⟩ })
     forMe live p = true ∧ p.typ.toNat = 7 ∧ p.sound = true ∧ packetFault p = none ∧ p.key.lot ≠ 0 ∧ ItemKey.same demoKey p.key = true ∧
     demoKey.lot.toNat < p.key.lot.toNat ∧ (demoItem 0).live = true) ∧
    (let p : Packet := { toMe 7 7 [] id with hdr := setFld (toMe 7 7 [] id).hdr 480 32 0 }
     forMe live p = true ∧ p.sound = false) := by
  decide +kernel

/-- Dispatch and completion of that item: accepted with its plan, ended, running with its work done or with a group of it left, with
PERSIST; the fill passes the mover's entry check. -/
theorem witness_dispatch :
    (let e : IttEntry := { demoItem moveTask with state := .accepted }
     ittOf (withItem live e) demoKey = some e ∧ e.live = true ∧ e.out = none ∧ live.power.phaseWait = false ∧
     planOk (withItem live e) e [.mover 0 fillDesc] = true ∧ mvCheck (withItem live e) 0 (ownMove e fillDesc) = none) ∧
    ({ demoItem moveTask with state := .failed } : IttEntry).live = false ∧
    (let s := withItem live (demoItem moveTask)
     workDone s demoKey = true ∧ outputFits moveTask 0 = true ∧ outputAway s moveTask = false ∧ tkPersist moveTask = false ∧ s.items.sent = []) ∧
    (let t : TaskDesc := setFld moveTask 4 1 1
     tkPersist t = true ∧ outputFits t 0 = true ∧ outputAway live t = false ∧
     regFld live Reg.FME_PERSIST_STAT 16 16 = regFld live Reg.FME_PERSIST_STAT 0 16) ∧
    workDone (withItem (demo 0) (demoItem moveTask)) demoKey = false := by
  decide +kernel

/-- A submission of item 9 to this device with 4 blocks and completion ring 0, and entries of each operation. -/
def sqEntry (opc : Nat) : Desc := BitVec.ofNat 512 (opc + 5 * 2 ^ 32 + 9 * 2 ^ 48 + (if opc = 1 then 4 * 2 ^ 192 else 0))

def demoOrig : OrigEntry :=
  { lot := 1, dst := 5, state := .issued, cq := 0, cookie := 0, timeout := 0, tint := 0, payload := [], decided := false, issued := [(0, 5), (1, 5)],
    ended := [] }

/-- Ring 0 enabled with 8 entries and one to take. -/
def ringed : State := withRegs { live with host := { bme := true } } [(Reg.DSP_RING_CFG 0, 0x10303), (Reg.DSP_SQ_TAIL 0, 1)]

def withOrig (s : State) (o : OrigEntry) : State := { s with items := { s.items with orig := [(9, o)] } }

/-- Entries of the ring served next, sound and not. -/
theorem witness_submission :
    nextRing ringed = some 0 ∧ sqOpc (sqEntry 1) = 1 ∧ entryFault ringed (sqEntry 1) = none ∧ sqDlen (sqEntry 1) = 4 ∧
    entryFault (withOrig ringed demoOrig) (sqEntry 1) = some (0x20, 0) ∧
    sqOpc (sqEntry 2) = 2 ∧ entryFault (withOrig ringed demoOrig) (sqEntry 2) = none ∧ origOf (withOrig ringed demoOrig) (sqItem (sqEntry 2)) = some demoOrig ∧
    sqOpc (sqEntry 3) = 3 ∧ entryFault (withOrig ringed demoOrig) (sqEntry 3) = none ∧ entryFault ringed (sqEntry 3) = some (0x22, 0) ∧
    entryFault ringed (sqEntry 2) = some (0x22, 0) ∧ entryFault (withOrig ringed { demoOrig with lot := 0xFFFF }) (sqEntry 2) = some (0x21, 0) ∧
    sqOpc (sqEntry 0) = 0 ∧ 3 < sqOpc (sqEntry 4) := by
  decide +kernel

set_option maxRecDepth 100000 in
/-- A RESULT of the current lot, of an older one and of no item; ACK and NACK of a kept WORK and of a kept RESULT; a resend and the last
one; the timer of an item at an ordinary lot and at the last. -/
theorem witness_answers :
    (let p := toMe 3 0 [] (fun q => { q with key := ⟨5, 9, 1⟩, state := 3 })
     forMe ringed p = true ∧ p.typ.toNat = 3 ∧ p.sound = true ∧ packetFault p = none ∧ p.key.orig.toNat = ownId ringed ∧ p.state = 3 ∧
     origOf (withOrig ringed demoOrig) p.key.item = some demoOrig ∧ (demoOrig.device p.key.lot).isSome = true ∧ p.key.lot ∉ demoOrig.ended ∧
     p.key.lot = demoOrig.lot ∧ origOf ringed p.key.item = none) ∧
    (let p := toMe 3 0 (List.replicate 64 7) (fun q => { q with key := ⟨5, 9, 0⟩, addr := holdBase, state := 3 })
     p.sound = true ∧ packetFault p = none ∧ p.payload ≠ [] ∧ mappedW ringed .mover p.addr p.payload.length = true ∧ p.key.lot ≠ demoOrig.lot ∧
     (demoOrig.device p.key.lot).isSome = true) ∧
    (let x (t : Nat) : SentPkt := ⟨toMe t 0 [] (fun q => { q with key := ⟨5, 9, 1⟩ }), none, 0, none, false⟩
     let a (t k : Nat) : Packet := toMe k 7 [] (fun q => { q with key := ⟨5, 9, 1⟩, atype := t, code := 0x10 })
     forMe ringed (a 1 4) = true ∧ (a 1 4).typ.toNat = 4 ∧ (a 1 4).sound = true ∧ packetFault (a 1 4) = none ∧ (a 1 4).atype ≠ 6 ∧
     [x 1].find? (answered (a 1 4)) = some (x 1) ∧ (x 1).pkt.typ.toNat = 1 ∧ [x 3].find? (answered (a 3 4)) = some (x 3) ∧ (x 3).pkt.typ.toNat = 3 ∧
     [x 3].find? (answered (a 1 4)) = none ∧ (a 1 5).typ.toNat = 5 ∧ packetFault (a 1 5) = none ∧ [x 1].find? (answered (a 1 5)) = some (x 1) ∧
     retryable (a 1 5).code.toNat = true ∧ retryable 0x01 = false ∧ retryable 0x13 = true ∧ retryable 0x14 = false) ∧
    (let s := setRegFld ringed Reg.DSP_ITEM_CFG 24 4 2
     regFld s Reg.DSP_ITEM_CFG 24 4 = 2 ∧ 1 < 2 ∧ 2 ≤ 2) ∧
    demoOrig.lot ≠ 0xFFFF ∧ ({ demoOrig with lot := 0xFFFF }).lot = 0xFFFF ∧ demoOrig.decided = false := by
  decide +kernel

/-- Rings: served, not enabled, full; pointers at the last place allowed and one beyond; an enabled ring that is configured anew. -/
theorem witness_rings :
    ringOn ringed 0 = true ∧ cqRoom ringed 0 = 7 ∧ ringed.host.bme = true ∧ ringOn ringed 1 = false ∧
    cqRoom (withRegs ringed [(Reg.DSP_CQ_TAIL 0, 7)]) 0 = 0 ∧
    (let h : HeldCompletion := ⟨0, 0, some 9⟩
     [h].find? (fun h => decide (h.ring = 0)) = some h) ∧
    blockLive ringed (Reg.DSP_SQ_TAIL 0) = true ∧ sqSize ringed 0 = 8 ∧
    ((7 + 8 - 1) % 8 ≤ (0 + 2 * 8 - 1 - 1) % 8) ∧ ((0 + 2 * 8 - 1 - 1) % 8 < (0 + 8 - 1) % 8) ∧
    ((0 + 8 - 0) % 8 ≤ (0 + 8 - 0) % 8) ∧ ((0 + 8 - 0) % 8 < (1 + 8 - 0) % 8) ∧
    (0x10000#32).getLsbD 16 = true ∧ fld (0x10404#32) 0 5 ≠ regFld ringed (Reg.DSP_RING_CFG 0) 0 5 := by
  decide +kernel

/-- Register writes and BAR2: a block that is not live at reset; an access within the hold window and one beyond it. -/
theorem witness_registers :
    blockLive State.reset (BitVec.ofNat 26 (Reg.GLB_SCRATCH 0)).toNat = false ∧ (BitVec.ofNat 26 (Reg.GLB_SCRATCH 0)).toNat = Reg.GLB_SCRATCH 0 ∧
    2 ≤ live.boot.done ∧ findReg regMap 0x3FFFFFC = none ∧ (0x3FFFFFC#26).toNat % 4 = 0 ∧ (1#26).toNat % 4 ≠ 0 := by
  decide +kernel

/-- BAR2 (R530, R571, R572): the first and the last bytes of the hold window are served, one beyond it is not; the window starts at its
base. -/
def windowed : State := withRegs live [(Reg.GLB_HSTAT, 7), (Reg.GLB_BAR2_BASE_HI, 0x800)]

theorem witness_window :
    bar2Addr windowed 0 = holdBase ∧ bar2Made windowed 0 1 = true ∧ bar2Served windowed false holdBase 1 = true ∧
    bar2Made windowed 0xFF000 4096 = true ∧ bar2Served windowed true (holdBase + 0xFF000) 4096 = true ∧
    bar2Made windowed 0xFF001 4096 = true ∧ bar2Served windowed true (holdBase + 0xFF001) 4096 = false ∧
    bar2Served windowed false (holdBase + 0xFF001) 4096 = false := by
  decide +kernel

/-! The host function, resets and the sideband. -/

/-- The host function: a link that is up or may come up, contacts, and a pending vector that is not masked. -/
theorem witness_host :
    hostReaches windowed = true ∧ hostReaches live = false ∧ linkUp windowed = true ∧ linkMay live = true ∧ live.pins.perst = true ∧
    (let s := withRegs { windowed with host := { msixEn := true, bme := true } } [(Reg.MSIX_PBA 3, 0x80000000), (Reg.MSIX_CTRL 127, 0)]
     regBit s (Reg.MSIX_PBA (127 / 32)) (127 % 32) = true ∧ regBit s (Reg.MSIX_CTRL 127) 0 = false ∧ s.host.msixEn = true ∧ s.host.bme = true ∧
     s.host.fmask = false ∧ hostReaches s = true) ∧
    (∀ r ∈ List.range 8, r ≠ 0 → (BitVec.ofNat 3 r).toNat = r) := by
  decide +kernel

/-- Resets: the debounce of 250,000 cycles and one less; VDD_STBY present and absent; the sideband before and after CLOCKS. -/
theorem witness_resets :
    249999 < 250000 ∧ 250000 ≤ 250000 ∧ live.pins.stby = true ∧ ({ live.pins with stby := false }).stby = false ∧
    2 ≤ live.boot.done ∧ State.reset.boot.done < 2 ∧ (0xFFFFFFFF#32).toNat ≠ Reg.BOOT_CMD ∧ (2#32).toNat % 4 ≠ 0 ∧
    (BitVec.ofNat 32 (Reg.GLB_SCRATCH 3)).toNat = Reg.GLB_SCRATCH 3 ∧
    keptReg true (Reg.TE_CTRL 0) = false ∧ keptReg false (Reg.GLB_SCRATCH 0) = false ∧
    ({ live.power with deep := .deep }).deep = .deep ∧ ({ live.power with deep := .entering }).deep = .entering ∧
    alertLow live = false ∧ alertLow { live with pins := { live.pins with railsFault := true } } = true ∧
    bit (0x1_00000000_00000000#72) 64 = true ∧ bit (0#72) 64 = false := by
  decide +kernel

/-- Persisting and refreshing: a port whose mount calls for one granule first; a levelling move that is not due. -/
theorem witness_refresh_first :
    (let f := farPort (withFar 4 { first := [3] } {}) 0
     f.first ≠ [] ∧ 3 ∈ f.first ∧ 4 ∉ f.first ∧ ({} : FarPort).first = []) ∧
    ({ sinceLevel := 1023 } : FarPort).sinceLevel < 1024 ∧ live.sc.held = [] ∧ live.sc.host = [] := by
  decide +kernel

/-- The task of a product of one row and column of INT32 in OUTMODE o, its output in the hold window of this device or of another. -/
def productTask (o dev : Nat) : TaskDesc := BitVec.ofNat 2048 (1 + o * 2 ^ 5 + 2 ^ 8 + (holdBase + dev * 2 ^ 48) * 2 ^ 576)

/-- Completion: products with their output inline and in memory; an output of another device; a RESULT kept; the work not done. -/
theorem witness_completion :
    (let s (o : Nat) := withItem live (demoItem (productTask o 5))
     tkProducts (productTask 0 5) ≠ 0 ∧ tkOutmode (productTask 0 5) = false ∧ tkOutmode (productTask 1 5) = true ∧
     outputFits (productTask 0 5) 9 = true ∧ outputAway (s 0) (productTask 0 5) = false ∧ outputAway (s 1) (productTask 1 9) = false ∧
     outputAway (s 0) (productTask 0 9) = true ∧ workDone (s 0) demoKey = true) ∧
    ({ demoItem moveTask with out := some [] } : IttEntry).out = some [] := by
  decide +kernel

/-- The host port: a read whose requests are all taken, the same while a wire of the channel is replaced; registers of plain fields. -/
theorem witness_host_port :
    (let x : Bar2Req := { addr := holdBase, len := 4, data := none }
     (issueReqs { windowed with sc := { windowed.sc with host := [.bar2 x] } } (hostPort windowed) (reqsOf true holdBase 4)).1 =
       (reqsOf true holdBase 4).length ∧
     (let s : State := { windowed with vc := (replacing 0).vc, sc := { windowed.sc with host := [.bar2 x] } }
      s.sc.host ≠ [] ∧ (issueReqs s (hostPort s) (reqsOf true holdBase 4)).1 ≠ (reqsOf true holdBase 4).length)) ∧
    windowed.sc.held = [] ∧ windowed.sc.host = [] ∧
    (findReg regMap Reg.DSP_ITEM_CFG).isSome = true ∧ (findReg regMap Reg.FME_CFG).isSome = true ∧ (findReg regMap 0x8000).isSome = true ∧
    blockLive live Reg.DSP_ITEM_CFG = true ∧ blockLive live Reg.FME_CFG = true ∧ Reg.DSP_ITEM_CFG % 4 = 0 ∧ Reg.FME_CFG % 4 = 0 := by
  decide +kernel

/-! Arrays, launches and the debugger. -/

def entry (d : Desc) : QEntry := { id := 0, desc := d, issuer := .dispatcher }

/-- The tile of the pass, as loaded from the hold window. -/
def demoTile : Tile := { key := demoKey, fmt := 9, mt := 1, kt := 1, codes := [[0]], scales := [[]], lake := false, bad := false }

/-- The columns of the item, owned. -/
def ownedCols : Tbl ColRec := [(0, { owned := true, orig := 5, item := 7, lot := 0 })]

/-- The module with array 0 in a state. -/
def withArray (a : ArraySt) : State := setArr live 0 a

/-- Descriptors: the last place of the queue, one that fails its checks, a full queue; a tile that loads sound and poisoned. -/
theorem witness_queue :
    arrayEnabled live 0 = true ∧ live.items.heldDesc = [] ∧ (arr live 0).fenced = false ∧
    (let s := withArray { queue := List.replicate 15 (entry passDesc) }
     (arr s 0).queue.length < 16 ∧ checkDesc s 0 (unspill (arr s 0) passDesc) = none ∧ descToRing passDesc = false) ∧
    checkDesc live 0 (setFld passDesc 0 4 0) = some 0 ∧ checkDesc live 0 (setFld passDesc 128 48 (holdBase + 1)) = some 4 ∧
    16 ≤ (arr (withArray { queue := List.replicate 16 (entry passDesc) }) 0).queue.length ∧
    descOp passDesc = 1 ∧ descXsrc passDesc = 0 ∧ triggered live passDesc = true ∧ descFmt passDesc 4 = some .int8 ∧
    (loadTile live passDesc .int8).bad = false ∧ (loadTile { live with poison := [holdBase] } passDesc .int8).bad = true := by
  decide +kernel

/-- Passes: one that loads and claims its column, one that keeps the active tile and column, one that owns none. -/
theorem witness_passes :
    (let a : ArraySt := { queue := [entry passDesc], shadow := some (demoTile, 0), ramp := .up 0 0 0 }
     let s := withArray a
     columnsBusy a passDesc = false ∧ ownsColumns a passDesc = true ∧ triggered s passDesc = true ∧ descClaims passDesc = true ∧
     (claimAnchor s passDesc).isSome = true ∧ nextTile a (entry passDesc) = some demoTile ∧ a.ramp ≠ .none) ∧
    (let a : ArraySt := { queue := [entry keepDesc], active := some demoTile, cols := ownedCols, floorDuty := 1 }
     descXsrc keepDesc = 1 ∧ keepsActive a keepDesc = true ∧ columnsBusy a keepDesc = false ∧ ownsColumns a keepDesc = true ∧
     descClaims keepDesc = false ∧ nextTile a (entry keepDesc) = some demoTile ∧ 0 < a.floorDuty) ∧
    (let d := setFld passDesc 15 1 0
     let a : ArraySt := { queue := [entry d] }
     descOp d = 1 ∧ descXsrc d = 0 ∧ columnsBusy a d = false ∧ ownsColumns a d = false) := by
  decide +kernel

/-- A stop that saves a cursor: a pass of two columns cut after the first. -/
def twoDesc : Desc := setFld passDesc 49 8 1

theorem witness_stops :
    (let a : ArraySt := { queue := [entry twoDesc], streaming := true, active := some { demoTile with mt := 1 }, stopping := true, stopCol := some 0, cols := ownedCols }
     let s := withArray a
     let r := runColumns s 0 twoDesc 1
     0 + 1 < descNcol twoDesc ∧ (arr r 0).queue = a.queue ∧ (arr r 0).streaming = true) ∧
    blockLive live (Reg.TA_STOP 0) = true ∧ debugMode live = true ∧ debugMode (withRegs live [(Reg.SEC_STAT, 0)]) = false ∧
    (1#32).getLsbD 1 = false ∧ (2#32).getLsbD 0 = false ∧
    (let s := withItem (withArray { inflight := [entry passDesc] }) (demoItem moveTask)
     ittOf s (descKey passDesc) = some (demoItem moveTask) ∧ (demoItem moveTask).live = true ∧ (arr s 0).inflight.head? = some (entry passDesc)) := by
  decide +kernel

/-- A preload of zeros; a drain of a sound column, of a poisoned one, and one that has read its last column. -/
theorem witness_drains :
    (let a : ArraySt := { queue := [entry preDesc] }
     let s := withArray a
     descOp preDesc = 2 ∧ columnsBusy a preDesc = false ∧ ownsColumns a preDesc = true ∧ triggered s preDesc = true ∧
     descClaims preDesc = true ∧ (claimAnchor s preDesc).isSome = true ∧ descFmt preDesc 4 = some .int32 ∧
     preloadPoisoned s preDesc .int32 = false) ∧
    (let a : ArraySt := { queue := [entry drainDesc], cols := ownedCols }
     descOp drainDesc = 3 ∧ a.drains.length < 2 ∧ ownsColumns a drainDesc = true ∧ triggered (withArray a) drainDesc = true) ∧
    descNcol drainDesc = 1 ∧ RMode.ofCode (fld drainDesc 8 2) = some .nearest ∧ descToRing drainDesc = true ∧
    (tab (descMt drainDesc) (fun i => lookD ([] : Tbl AccEntry) (256 * i + descEbase drainDesc + 0) {})).all (fun e => e.sound) = true ∧
    (lookD ownedCols (descEbase drainDesc + 0) {}).poison = false ∧ drainDesc.getLsbD 11 = false ∧ (setFld drainDesc 11 1 1).getLsbD 11 = true := by
  decide +kernel

/-- The module of replacing, with array 0 in a state. -/
def slowArray (a : ArraySt) : State := setArr (replacing 0) 0 a

def savedPass : SavedPass := ⟨{ entry twoDesc with desc := setFld twoDesc 480 9 1 }, 3⟩

/-- Descriptors: one that goes to its array at once, by an empty queue, behind a streaming head, and one refused at the head; one that a
mover of its item keeps back; one that resumes the head or a saved pass. -/
theorem witness_descriptors_at_the_head :
    resumesHead {} passDesc = false ∧ savedOf {} passDesc = none ∧ keptBack live 0 passDesc = false ∧ drainPieces live 0 passDesc = [passDesc] ∧
    headOk {} passDesc = true ∧ headOk {} keepDesc = false ∧ checkDesc live 0 keepDesc = none ∧
    (let a : ArraySt := { queue := [entry passDesc], streaming := true }
     resumesHead a passDesc = false ∧ a.queue.length < 16) ∧
    (let m : MoverEntry := { desc := setFld (setFld fillDesc 448 16 5) 480 13 7, src := .dispatcher }
     keptBack { live with movers := [(0, [m])] } 0 passDesc = true) ∧
    (let a : ArraySt := { queue := [entry passDesc], halted := true, haltId := 1 }
     resumesHead a passDesc = true ∧ a.stopping = false) ∧
    (let a : ArraySt := { saved := [savedPass], halted := true }
     savedOf a (setFld twoDesc 480 9 1) = some savedPass ∧ a.resumeHeld = none ∧ resumesHead a (setFld twoDesc 480 9 1) = false ∧
     keptBack (withArray a) 0 (setFld twoDesc 480 9 1) = false ∧
     drainPieces (withArray a) 0 (setFld twoDesc 480 9 1) = [setFld twoDesc 480 9 1]) := by
  decide +kernel

/-- Reads of a tile and of a pass, all issued and held; a pass that retires and one that waits; a ramp-down that ends. -/
theorem witness_array_reads :
    (let a : ArraySt := { queue := [entry passDesc] }
     let rs := (tileReqs passDesc .int8).drop a.loaded
     mayStart a (entry passDesc) = true ∧ (issueReqs (withArray a) (arrayPort (withArray a) 0 passDesc) rs).1 = rs.length ∧
     (issueReqs (slowArray a) (arrayPort (slowArray a) 0 passDesc) rs).1 ≠ rs.length) ∧
    (let a : ArraySt := { queue := [entry passDesc], streaming := true, active := some demoTile, cols := ownedCols }
     (retire (withArray a) 0).1 = true ∧ (arr (retire (withArray a) 0).2 0).inflight ≠ [] ∧ (retire (slowArray a) 0).1 = false) ∧
    ({ ramp := .down 16 4 } : ArraySt).ramp = .down 16 4 ∧ regBit (withRegs live [(Reg.TA_CTRL 0, 4)]) (Reg.TA_CTRL 0) 2 = true ∧
    regBit live (Reg.TA_CTRL 0) 2 = false := by
  decide +kernel

/-- Stops and resumes: with and without a mode move; a pass whose last column waits for its reads; a lake write that runs; a pass cut
short; a saved pass that is issued again, fails its checks, or finds the queue full. -/
theorem witness_stops_and_resumes :
    (let s : State := { live with power := { live.power with move := some true } }
     live.power.move = none ∧ s.power.move.isSome = true) ∧
    (let a : ArraySt := { queue := [entry passDesc], streaming := true, active := some demoTile, cols := ownedCols }
     descNcol passDesc ≤ max (descStart passDesc) 0 + 1 ∧ (retire (slowArray a) 0).1 = false ∧
     (endStream (slowArray a) 0).1 = false ∧ (endStream (withArray a) 0).1 = true ∧ (endStream (withArray {}) 0).1 = true) ∧
    (lakeBusy { lake := some ⟨demoTile, false, false⟩ } = true ∧ lakeBusy {} = false) ∧
    (let a : ArraySt := { queue := [entry twoDesc], streaming := true, active := some demoTile, stopping := true, stopCol := some 0, cols := ownedCols }
     let r := feedTo (withArray a) 0 twoDesc 1
     r.1 = true ∧ (arr (runColumns r.2 0 twoDesc 1) 0).queue = a.queue ∧ (arr (runColumns r.2 0 twoDesc 1) 0).streaming = true) ∧
    (let a : ArraySt := { saved := [savedPass], halted := true }
     a.saved.getLast? = some savedPass ∧ a.resumeHeld = none ∧ a.stopping = false ∧
     checkDesc (withArray a) 0 (setFld savedPass.entry.desc 16 2 0) = none ∧ checkDesc live 0 (setFld savedPass.entry.desc 64 8 255) ≠ none ∧
     (headOk { a with saved := [] } (setFld savedPass.entry.desc 16 2 0) = true) ∧
     16 ≤ ({ a with queue := List.replicate 16 (entry drainDesc) } : ArraySt).queue.length) ∧
    (let s := withItem (withArray { queue := [entry passDesc], streaming := true }) (demoItem moveTask)
     (arr s 0).queue.head? = some (entry passDesc) ∧ ittOf s (descKey passDesc) = some (demoItem moveTask)) := by
  decide +kernel

/-- Preloads and drains: reads all issued and held; entries usable and not; a drain refused at the head of a queue with a saved pass; a
column that is poisoned, and one with a bad entry; a drain to memory; one that has stopped on poison. -/
theorem witness_preload_and_drain_reads :
    (let d := setFld (setFld preDesc 9 2 0) 128 48 holdBase
     let a : ArraySt := { queue := [entry d] }
     let rs := (preloadReqs d .int32).drop a.loaded
     rs ≠ [] ∧ (issueReqs (withArray a) (arrayPort (withArray a) 0 d) rs).1 = rs.length ∧
     (issueReqs (slowArray a) (arrayPort (slowArray a) 0 d) rs).1 ≠ rs.length ∧ preloadPoisoned (withArray a) d .int32 = false ∧
     preloadPoisoned { live with poison := [holdBase] } d .int32 = true ∧ descClaims d = true) ∧
    (let a : ArraySt := { queue := [entry drainDesc], cols := ownedCols }
     let b : ArraySt := { a with saved := [savedPass] }
     mayStart a (entry drainDesc) = true ∧ headOk a drainDesc = true ∧ headOk b drainDesc = false) ∧
    (let r : DrainRec := { entry := entry drainDesc, next := 0, flags := 0 }
     r.flags.getLsbD 4 = false ∧ ({ r with flags := 16 } : DrainRec).flags.getLsbD 4 = true ∧
     (let c : ColRec := { owned := true, orig := 5, item := 7, poison := true }
      c.poison = true) ∧
     ({ res := 1 } : AccEntry).sound = false ∧ (ittOf (withItem live (demoItem moveTask)) (descKey drainDesc)).isSome = true) ∧
    (let d := setFld (setFld drainDesc 12 1 1) 128 48 holdBase
     let a : ArraySt := { drains := [{ entry := entry d, next := 0, flags := 0 }], cols := ownedCols }
     descToRing d = false ∧ (issueAll (withArray a) (arrayPort (withArray a) 0 d) (columnReqs d .int32 0)).1 = true ∧
     (issueAll (slowArray a) (arrayPort (slowArray a) 0 d) (columnReqs d .int32 0)).1 = false) := by
  decide +kernel

/-- Registers of arrays and rings: live blocks, the view while the scrubber holds the port, and rings at the end of their space. -/
theorem witness_array_registers :
    blockLive live (Reg.TA_CTRL 199) = true ∧ blockLive live (Reg.TA_QSTAT 199) = true ∧ blockLive live (Reg.TE_CTRL 49) = true ∧
    blockLive live (Reg.TA_ACCV_CTRL 0) = true ∧ viewHolds live 0 = false ∧ regBit live Reg.ERR_SCRUB_CTRL 0 = false ∧
    scrubsArray (withRegs live [(Reg.ERR_SCRUB_CTRL, 1)]) 0 = true ∧ viewHolds (withRegs live [(Reg.TA_ACCV_STATUS 0, 1)]) 0 = true ∧
    blockLive live (Reg.TE_DRING_CFG 49 3) = true ∧ ringFits live 0 1 64 32 = true ∧ ringFits live 0 1 65 32 = false ∧
    ringFits live 0 1 0 32 = false := by
  decide +kernel

/-- Launches: a record that is refused, one that fits beside a group, one that does not, and groups that end or stay. -/
theorem witness_launches :
    engineEnabled live 0 = true ∧ launchBad demoLaunch = none ∧ launchBad (setFld demoLaunch 32 48 4) = some 1 ∧
    (eng (demo 0) 0).launchQ = [] ∧ (eng (demo 0) 0).groups ≠ [] ∧ launchFits (demo 0) 0 demoLaunch = true ∧
    launchFits (demo 0) 0 (setFld demoLaunch 16 9 384) = false ∧ (freeSlots (eng (demo 0) 0))[0]? = some 1 ∧ launchGroups demoLaunch = 1 ∧
    demoGroup.stopped = false ∧ (demoGroup.threads.any (fun th => !th.exited)) = true ∧ demoGroup.pick ≠ none ∧ demoGroup.dbg = .running ∧
    (let g := { demoGroup with threads := { bar := some ⟨false, 7, none⟩ } :: List.replicate 31 {} }
     barrierForm (demoWith g 0) 0 0 g false 7 = some ⟨false, 7, none⟩ ∧
     ((barrierNeeds (demoWith g 0) 0 0 g ⟨false, 7, none⟩).filter (fun y => !waitsAt (g.th y.2) false 7)).head? = some (0, 1)) := by
  decide +kernel

/-! The debugger, the SC, channels, movers, tints, repair and scrubbing. -/

/-- Debugger writes for slot 0, each with its action bit alone; a group that is halting, and a halted one with the view at p and u. -/
theorem witness_debugger :
    debugMode (demo 0) = true ∧ debugMode State.reset = false ∧ blockLive (demo 0) (Reg.TE_DBG_CTRL 0) = true ∧
    fld (0x100#32) 0 6 < 48 ∧ fld (0x100#32) 9 2 = 0 ∧ fld (0x100#32) 12 2 = 0 ∧ fld (0x200#32) 8 1 = 0 ∧ fld (0x200#32) 10 1 = 0 ∧
    fld (0x400#32) 8 2 = 0 ∧ fld (0x1000#32) 8 3 = 0 ∧ fld (0x1000#32) 13 1 = 0 ∧ fld (0x2000#32) 12 1 = 0 ∧
    (blockOf (demo 0) 0 demoGroup).map (·.trapped) = some none ∧
    grp (demoWith { demoGroup with dbg := .halting } 0) 0 0 = some { demoGroup with dbg := .halting } ∧
    (let g := { demoGroup with dbg := .halted }
     let s := withRegs (demoWith g 0) [(Reg.TE_DBG_SEL 0, 0xFF1F)]
     grp s 0 (regFld s (Reg.TE_DBG_CTRL 0) 0 6) = some g ∧ regFld s (Reg.TE_DBG_SEL 0) 5 3 = 0 ∧ regFld s (Reg.TE_DBG_SEL 0) 8 8 = 255 ∧
     255 < launchVregs g.launch ∧ regFld (withRegs s [(Reg.TE_DBG_SEL 0, 0x20)]) (Reg.TE_DBG_SEL 0) 5 3 = 1 ∧
     regFld (withRegs s [(Reg.TE_DBG_SEL 0, 0x3F40)]) (Reg.TE_DBG_SEL 0) 5 3 = 2 ∧ regFld (withRegs s [(Reg.TE_DBG_SEL 0, 0x3F40)]) (Reg.TE_DBG_SEL 0) 8 8 = 63) := by
  decide +kernel

def scReq (addr : Nat) (len : Fin 129) (op : ScOp) (streaming : Bool) : ScReq := ⟨0, 0, BitVec.ofNat 48 addr, len, op, streaming⟩

/-- Requests: hold window; a line that is cached, one that is not, with a free miss entry and with none; a full bucket and a drawn one. -/
theorem witness_requests :
    (∀ a ∈ [0, 128, holdBase], scReaches live (scReq a 128 .read false) = true ∧ scAdmitted live (scReq a 128 .read false) = true) ∧
    scReaches live (scReq holdBase 1 (.write 5) false) = true ∧ scReaches live (scReq holdBase 4 (.atomicAdd 1) false) = true ∧
    (let x : ScLine := { way := 0, valid := 0xFF }
     byteMask (0 % 128) 8 &&& ~~~ x.valid = 0) ∧
    missRoom live 0 = true ∧ look live.sc.lines 0 = none ∧
    (let q := scReq 0 128 .read true
     let s : State := { live with sc := { live.sc with misses := [(0, [q])] } }
     look s.sc.misses 0 = some [q] ∧ 0 * 128 < farBase ∧ q.op = .read ∧ q.streaming = true ∧ (scReq 0 128 .read false).streaming = false) ∧
    scReaches State.reset (scReq 0 128 .read false) = false := by
  decide +kernel

/-- The hold ways, with no item and with one, and a change that is under way. -/
theorem witness_hold_ways :
    blockLive live Reg.RLZ_FLUSH = true ∧ blockLive live Reg.RLZ_CFG = true ∧ live.items.itt = [] ∧
    (withItem live (demoItem 0)).items.itt ≠ [] ∧ fld (12#32) 0 4 ≤ 12 ∧ (2#32).getLsbD 1 = true ∧ (1#32).getLsbD 1 = false ∧
    regBit (setRegBit live Reg.RLZ_STATUS 17) Reg.RLZ_STATUS 17 = true ∧ blockLive live (Reg.RLZ_SC_OCC 63) = true := by
  decide +kernel

/-- Channels: a word of the first group strikes once with room in the bucket; the last spare; a slice whose channel has lost a direction. -/
theorem witness_channels :
    vcMode live 0 false ≠ 3 ∧ 511 < 512 * vcGroups 0 false ∧ 511 / 512 = 0 ∧
    (let s := withRegs live [(Reg.ERR_BKT_CFG 5, 3), (Reg.ERR_BKT (365 + 0), 1)]
     regFld s (Reg.ERR_BKT (365 + 0)) 0 16 + 1 < regFld s (Reg.ERR_BKT_CFG 5) 0 16 ∧ look s.vc.strikes (groupKey 0 false 0) = none) ∧
    (let s : State := { live with vc := { strikes := [(groupKey 0 false 0, (511, 2))], spares := [(groupKey 0 false 0, 14)] } }
     look s.vc.strikes (groupKey 0 false 0) = some (511, 2) ∧ 2 < 3 ∧ lookD s.vc.spares (groupKey 0 false 0) 0 = 14) ∧
    (let s := withRegs live [(Reg.RLZ_SC_ID 0, 0x10000), (vcReg 0, 3)]
     regBit s (Reg.RLZ_SC_ID 0) 16 = true ∧ vcMode s 0 false = 3) := by
  decide +kernel

/-- Movers: a host descriptor that passes its check and one without an operation; queued host and dispatcher entries; tint 0 and 7; limits
with a ceiling below, at and above the guarantee. -/
theorem witness_movers :
    blockLive live (Reg.RLZ_MV_SUBMIT 0) = true ∧ mvCheck live 0 fillDesc = none ∧ mvCheck live 0 0 = some 1 ∧
    (let s : State := { live with movers := [(0, [⟨fillDesc, .host, 0, false⟩])] }
     mvQueue s 0 = [⟨fillDesc, .host, 0, false⟩] ∧ s.items.heldMover = [] ∧ mvReach s fillDesc = true ∧ mvOp fillDesc = 4 ∧ mvRows fillDesc = 1 ∧
     mvDhint fillDesc = false) ∧
    mvReach live (setFld fillDesc 96 48 (holdBase + 0x100000)) = false ∧ mvQueue live 0 = [] ∧
    blockLive live (Reg.DSP_TINT_LIM 0 0) = true ∧ max 1 (fld (0x10000#32) 16 16) = 1 ∧ max 1 (fld (2#32) 16 16) < fld (2#32) 0 16 := by
  decide +kernel

/-- The epoch: a bucket that is not full, and one effective guarantee to put in force. -/
theorem witness_epoch :
    (let s : State := { live with tint := { tokens := [(0, 5)], pendEff := [(4 * 6 + 3, 9)] } }
     look s.tint.tokens 0 = some 5 ∧ s.tint.pendEff = [(4 * 6 + 3, 9)]) := by
  decide +kernel

/-- Repair: one pending record, chosen and not; a compaction that runs; scrubbers that visit and do not; a slow lap and one that is known. -/
theorem witness_repair :
    blockLive live Reg.REP_CMD = true ∧ regBit live Reg.REP_STATUS 10 = false ∧ regBit live Reg.REP_STATUS 11 = false ∧
    (let s : State := { live with pend := [⟨3, 1⟩] }
     s.repair.log.length + s.pend.length < halfRoom ∧ s.pend[regFld s Reg.REP_PEND_SEL 0 8]? = some ⟨3, 1⟩ ∧
     s.pend[regFld (withRegs s [(Reg.REP_PEND_SEL, 1)]) Reg.REP_PEND_SEL 0 8]? = none) ∧
    live.repair.log.length + 1 < halfRoom ∧
    regBit (setRegBit live Reg.REP_STATUS 11) Reg.REP_STATUS 11 = true ∧ live.repair.held = [] ∧
    scrubs live .sc 0 = false ∧
    (let s := withRegs live [(Reg.ERR_SCRUB_CTRL, 0xF)]
     scrubs s .acc 199 = true ∧ scrubs s .sc 63 = true ∧ scrubs s .pb 47 = true ∧ scrubs s .near 11 = true ∧ scrubs s .near 12 = false ∧
     entryBad (lookD (arr s 199).entries 0 {}) = false ∧
     (let u := withRegs s [(Reg.ERR_BKT_CFG (scrubClass .sc true).num, 2)]
      regFld u (Reg.ERR_BKT ((scrubClass .sc true).first + 0)) 0 16 + 1 < regFld u (Reg.ERR_BKT_CFG (scrubClass .sc true).num) 0 16) ∧
     regWord s (Reg.ERR_SCRUB_LIM (scrubNum .sc)) < 0xFFFFFFFF#32 ∧ (scrubNum .sc, 0) ∉ s.repair.slow) := by
  decide +kernel

/-- The view with a read in flight; a group that is ready, one in issue, one whose item has ended; the states of the groups' engine. -/
theorem witness_views_and_groups :
    (let s := setArr (withRegs live [(Reg.TA_ACCV_STATUS 0, 1)]) 0 { viewPending := true }
     (arr s 0).viewPending = true ∧ viewHolds s 0 = true) ∧
    demoGroup.readyNow = true ∧ (eng (demo 0) 0).fenced = false ∧ ({ demoGroup with stopped := true } : Group).stopped = true ∧
    ({ demoGroup with dbg := .halting } : Group).inIssue = none ∧
    ({ demoGroup with dbg := .halting, inIssue := some ⟨0, demoSubset, [], false⟩ } : Group).inIssue ≠ none := by
  decide +kernel

/-- Requests that wait: no tokens left in the epoch, no miss entry free in the slice, a wire being replaced; two that wait at one line,
streaming and not, with and without a controller that recalibrates; the tint of the host port. -/
theorem witness_waiting_requests :
    (let q := scReq 0 128 .read false
     let l := withRegs live [(Reg.DSP_TINT_LIM 0 0, 0x10000), (Reg.DSP_TINT_CAP 0, 1000)]
     let s : State := { l with tint := { tokens := [(bucketKey 0 0 0, 0)], drawn := [(bucketKey 0 0 0, 2 ^ 40)] } }
     scReaches s q = true ∧ scAdmitted s q = false ∧ scMay live q = true ∧ scMisses live q = true ∧ channelHolds live true 0 = false ∧
     channelHolds (replacing 0) true 0 = true ∧ scReaches (replacing 0) q = true ∧ scAdmitted (replacing 0) q = true) ∧
    (let s : State := { live with sc := { live.sc with misses := (List.range 128).map (fun _ => (127, [])) } }
     missRoom s 0 = false ∧ scAdmitted s (scReq 0 128 .read false) = true) ∧
    nearHolds live 0 = false ∧ nearHolds (withRegs live [(Reg.NEAR_CTL_STAT (nearPlace live 0).1, 3)]) 0 = true ∧ sliceAllocates live 0 = true ∧
    (let r : ScReq := { scReq 0 128 .read false with master := 272 }
     r.master.val = 272) := by
  decide +kernel

/-- Channels with spares left, slices that serve; movers whose item has ended, that read a line, or that place a packet. -/
theorem witness_channels_and_movers :
    (let s : State := { live with vc := { strikes := [(groupKey 0 false 0, (511, 3))], spares := [(groupKey 0 false 0, 15)] } }
     look s.vc.strikes (groupKey 0 false 0) = some (511, 3) ∧ lookD s.vc.spares (groupKey 0 false 0) 0 = 15 ∧ 15 < 16 ∧
     slicePhases s 0 < 2) ∧
    (let e : MoverEntry := { desc := fillDesc, src := .host }
     let n := (moverReqs live e).length
     ({ e with ended := true } : MoverEntry).ended = true ∧ mvParts fillDesc ≠ [] ∧ mvParts 0 = [] ∧
     (issueReqs live (moverPort 0 e) (moverReqs live e)).1 = n ∧
     (issueReqs (replacing 0) (moverPort 0 e) (moverReqs (replacing 0) e)).1 ≠ n) ∧
    (let d := setFld (setFld fillDesc 448 16 5) 480 13 7
     let s : State := withItem { live with movers := [(0, [{ desc := d, src := .dispatcher }])] } (demoItem moveTask)
     mvReach s (setFld d 96 48 (holdBase + 0x100000)) = false ∧ ittOf s (moverKey d) = some (demoItem moveTask)) ∧
    fld (2#32) 16 16 < max (fld (2#32) 0 16) (max 1 (fld (2#32) 16 16)) := by
  decide +kernel

/-- An accumulator entry whose residue is wrong, in a column of an item and in a free one. -/
theorem witness_bad_entry :
    entryBad { res := 1 } = true ∧ (lookD ownedCols 0 {}).owned = true ∧ ({} : ColRec).owned = false ∧
    (ittOf (withItem live (demoItem moveTask)) ⟨5, 7, 0⟩).isSome = true := by
  decide +kernel

/-! Start-up. -/

/-- A module at rest before step k, not supervised, with BOOT_STEP as given above STATE. -/
def starting (k : Nat) (hi : Nat) : State :=
  withRegs { live with boot := { begun := k, done := k } } [(Reg.BOOT_STEP, BitVec.ofNat 32 (k % 15 + hi))]

def eventOf (cls : Byte) : LogRec := ⟨0, 0, cls, 0, []⟩

/-- Every step can begin somewhere; a start due and none due; thermal hold and none; both paths; a step that has failed cannot begin. -/
theorem witness_steps :
    ((List.range 15).all (fun k => canBegin (starting k 0) k)) = true ∧ canBegin (starting 3 32) 3 = false ∧ canBegin live 9 = false ∧
    State.reset.pins.startDue = true ∧ live.pins.startDue = false ∧ retriesPower live = false ∧ thermalHold live = false ∧
    thermalHold { live with evlog := [eventOf 6, eventOf 5] } = true ∧ thermalHold { live with evlog := [eventOf 5, eventOf 6] } = false ∧
    fastPath (starting 3 0) = false ∧ fastPath (starting 3 128) = true ∧ live.pins.stby = true ∧
    bootState (starting 3 16) = 1 ∧ bootState (starting 3 32) = 2 ∧ bootState live = 3 ∧ waitsBefore live 15 = true ∧ waitsBefore live 3 = false ∧
    joinState live ≠ 1 ∧ regBit live Reg.FAB_CFG 0 = false ∧ isManager live = false ∧ isAssigned live = true ∧
    { live.fab with routed := true }.routed = true ∧ live.fab.routed = false ∧ isAssigned State.reset = false ∧
    joinState (withRegs live [(Reg.FAB_JOIN_STAT, 1)]) = 1 := by
  decide +kernel

/-- REPAIR with nothing bad, and with 27 regions bad. -/
theorem witness_merge :
    mergeFailure (mergeParts (starting 7 0)).1.repair.merged = none ∧
    mergeFailure (mergeParts { starting 7 0 with repair := { dxFuse := (List.range 27).map (unitRecord 1) } }).1.repair.merged = some (0x70, 23) := by
  decide +kernel

/-- The state an outcome holds; the module at READY where it holds none. -/
def after (o : Host.Outcome State Fault Refusal) : State :=
  match o with
  | .next s => s
  | _ => live

/-- A module whose POWER step has failed and takes RETRY. -/
def retried : State := withRegs { live with boot := { begun := 1, done := 0 } } [(Reg.BOOT_STEP, 0x100)]

/-- POWER at the ends of its range, and below it (R594). -/
theorem test_power :
    (let t := after (execPower 400 600 true none true 3 retried)
     t.boot.done = 1 ∧ bootState t = 0 ∧ t.pins.pwrGood = true) ∧
    (let t := after (execPower 400 399 true none false 3 retried)
     t.boot.done = 0 ∧ bootState t = 2 ∧ regWord t Reg.BOOT_FAIL = 399) := by
  decide +kernel

/-- An empty flash: neither slot holds an image, so IMAGE fails with code 0x20 (R533, R545). -/
theorem test_empty_flash :
    slotStatus (beginStep (starting 2 0) 2) 0 = 6 ∧ slotStatus (beginStep (starting 2 0) 2) 1 = 6 ∧
    (let t := after (execImage none true (starting 2 0))
     bootState t = 2 ∧ regFld t Reg.BOOT_STEP 16 8 = 0x20) := by
  decide +kernel

/-- The 128 bytes of a header with an MGC firmware section and an engine firmware section of no length (R541, R542). -/
def imageHeader : List Byte :=
  toBytes 4 0x4D495A47 ++ toBytes 2 1 ++ toBytes 2 (regFld live Reg.GLB_ID 0 16) ++ toBytes 6 0 ++ toBytes 2 2500 ++ toBytes 4 (128 + 10733) ++
  toBytes 2 2 ++ toBytes 2 0 ++ toBytes 4 128 ++ List.replicate 36 0 ++ toBytes 16 1 ++ toBytes 16 3 ++ List.replicate 32 0

/-- The module before IMAGE, with such an image in slot A and the root key of its signature block fused. -/
def signed : State :=
  let s := starting 2 0
  { s with boot := { s.boot with flash := setFlash [] 0 imageHeader, rootHash := digest (List.replicate 1952 0xFF) } }

theorem signed_root : sigRoot (imgSig signed 0) = List.replicate 1952 0xFF := by decide +kernel

theorem signed_rest :
    holdsImage signed 0 = true ∧ certCap (sigCert (imgSig signed 0)) 0 = true ∧ slotRevoked signed (certSlot (sigCert (imgSig signed 0))) = false ∧
    slotCut signed 0 = false ∧ minSvn signed ≤ hdrSvn signed 0 ∧ headerOk signed 0 = true ∧
    sectionsOk (hdrSigoff signed 0) (sectionTable signed 0) = true ∧ paramsOk signed (paramRecords signed 0 (sectionTable signed 0)) = true := by
  decide +kernel

/-- An image whose signatures the verification function of log 17 accepts is valid. -/
theorem witness_signed_image (h : ∀ k m x, Config.mlDsaVerify k m x = true) : slotStatus signed 0 = 1 := by
  obtain ⟨h1, h2, h3, h4, h5, h6, h7, h8⟩ := signed_rest
  have hr : rootHolds signed (imgSig signed 0) = true := by
    have e : signed.boot.rootHash = digest (List.replicate 1952 0xFF) := rfl
    rw [rootHolds, signed_root, h, e, decide_eq_true rfl, Bool.and_self]
  simp [slotStatus, h1, h2, h3, h4, h6, h7, h8, hr, sigHolds, h, Nat.not_lt.mpr h5]

/-! Power and heat. -/

/-- Region states and failed phases; a slice phase; what waits to be staged; the eighth step; a bank that is being zeroed. -/
theorem witness_regions_of_power :
    regionState live 3 = rgDark ∧ regionAlive live 3 = true ∧ failCount live 3 = 0 ∧ regBit live (Reg.PWR_REGION 3) 4 = false ∧
    (let s := withRegs live [(Reg.PWR_REGION 3, 0x13)]
     regionState s 3 = rgOn ∧ failCount s 3 = 1 ∧ regBit s (Reg.PWR_REGION 3) 11 = false) ∧
    (let s := withRegs live [(Reg.PWR_REGION 3, 0x34)]
     regionState s 3 = rgCapped ∧ failCount s 3 = 2 ∧ 240 < 241 ∧ 215 < 216) ∧
    (lookD live.power.sliceMemFail 63 0).testBit 3 = false ∧
    (let s : State := { live with power := { toStage := [(7, some 2), (3, none), (5, some 1)] } }
     nextStaging s = some (3, none) ∧ s.power.deep = .none) ∧
    nextStaging { live with power := { toStage := [(3, none)], staging := some ⟨4, 7, false, some 1⟩ } } = none ∧
    (⟨4, 7, false, some 1⟩ : StagingRec).steps = 7 ∧ (⟨4, 6, false, some 1⟩ : StagingRec).steps < 7 ∧
    (47 : Nat) ∈ ({ zeroing := [0, 47] } : PowerSt).zeroing ∧ live.pins.coreUp = true ∧ State.reset.pins.coreUp = false := by
  decide +kernel

/-- The mode move, deep idle and the blades: 379 and 621 are out, 380 and 620 are not. -/
theorem witness_modes :
    effMode live = false ∧ live.power.move = none ∧ live.power.staging = none ∧ live.power.deep = .none ∧ 9 ≤ live.boot.done ∧
    regBit live Reg.PWR_CTRL 0 = false ∧ effMode (withRegs live [(Reg.PWR_STATUS, 1)]) = true ∧
    regBit (withRegs live [(Reg.PWR_CTRL, 1)]) Reg.PWR_CTRL 0 = true ∧
    mayDeep live = true ∧ mayDeep (withItem live (demoItem moveTask)) = false ∧ moversEmpty live = true ∧
    joinState (withRegs live [(Reg.FAB_JOIN_STAT, 2)]) = 2 ∧
    bladeOut 379 = true ∧ bladeOut 621 = true ∧ bladeOut 380 = false ∧ bladeOut 620 = false ∧
    1 ≤ { live.pins with outSamples := 1 }.outSamples ∧ { live.pins with coreUp := false, inputDue := true }.inputDue = true ∧
    ctlState (withControllers 6) 6 = 2 ∧ 2 ≤ portState (withRegs live [(Reg.FAB_PORT_STAT 15, 3)]) 15 := by
  decide +kernel

/-- A tick with a blade beyond the absolute limit stops (R591); at the limit it does not. -/
theorem test_absolute_limit :
    execGovernorTick 801 480 0 live = .fault .beyondAbsoluteLimits ∧ (after (execGovernorTick 800 800 0 live)).power.samples = [0] :=
  ⟨rfl, by decide +kernel⟩

def zeroDegrees : ThermalReadings := ⟨List.replicate 384 (some 0), [], []⟩

set_option maxRecDepth 100000 in
/-- A sample in which every sensor reads 0 degrees, and the same with trip limits of 0. -/
theorem witness_sample :
    tripBy (takeSample live zeroDegrees) = none ∧
    (tripBy (takeSample (withRegs live [(Reg.THM_LIM_DX, 0)]) zeroDegrees)).isSome = true ∧
    sensorFailed live 383 = false ∧ regBit (withRegs live [(Reg.THM_STATUS, 0x10000)]) Reg.THM_STATUS 16 = true := by
  decide +kernel

/-- A sample that warns in a Darrax region and a Rilaz zone and pauses the region: the limits are 95 and 102 degrees, 95 and 100. -/
theorem witness_warnings :
    (let u := withRegs live [(Reg.THM_REGION 0, BitVec.ofNat 32 (102 * 16 * 256)), (Reg.THM_RZ_EST1 0, BitVec.ofNat 32 (95 * 16 * 65536))]
     (dxTemps u).any (fun y => decide (limit u Reg.THM_LIM_DX 0 ≤ y.2)) = true ∧ (rzTemps u).any (fun y => decide (limit u Reg.THM_LIM_RZ 0 ≤ y.2)) = true ∧
     limit u Reg.THM_LIM_DX 8 ≤ regionTemp u 0 ∧ tripBy u = none) ∧
    bootState (withRegs live [(Reg.BOOT_STEP, 0x41)]) = 4 ∧
    (let s : State := { live with thermal := { autoDue := true }, pins := { live.pins with coreUp := false } }
     s.thermal.autoDue = true ∧ s.pins.coreUp = false ∧ s.pins.startDue = false) := by
  decide +kernel

/-! Flash, tokens and attestation. -/

/-- Sectors: of slot A with no image in use and with it, of the saved training, of the event log; the relay's states; both transports. -/
theorem witness_security :
    flashAllowed live 0 false = true ∧ live.boot.flashOp = none ∧
    flashAllowed { live with boot := { live.boot with image := some ⟨0, 0, 0, 0, 0, 2500, []⟩ } } 0 false = false ∧
    flashAllowed live 0x4000000 true = true ∧ flashAllowed live 0x4000000 false = false ∧ flashAllowed live 0x43FF000 true = true ∧
    flashAllowed live 0x4400000 true = false ∧ (2#32).getLsbD 0 = false ∧ (1#32).getLsbD 1 = false ∧
    relayState live = 0 ∧ relayState (withRegs live [(Reg.SEC_RELAY_STAT, 1)]) = 1 ∧ live.boot.token = none ∧
    spdmOpen live .doe = false ∧ spdmOpen (withRegs live [(Reg.GLB_HSTAT, 5)]) .doe = true ∧ spdmOpen live (.fabric 9) = true ∧
    tokenResult live ⟨List.replicate 10797 0, none⟩ = 1 := by
  decide +kernel

theorem witness_sector : (List.replicate 4096 (0xFF : Byte)).length = 4096 := by
  rw [List.length_replicate]

/-- A token header of KIND 1 that asks for DEBUG, for this module's serial number 0. -/
def debugToken : List Byte := toBytes 4 0x4B545A47 ++ [1, 0, 0, 0] ++ List.replicate 56 0 ++ List.replicate 10733 0xFF

theorem debug_token_root : sigRoot (debugToken.drop 64) = List.replicate 1952 0xFF := by decide +kernel

/-- The module that checks it: its root key fused, the key slot not revoked, and a nonce of zeros valid. -/
def checking : State := { live with boot := { live.boot with rootHash := digest (List.replicate 1952 0xFF) } }

theorem checking_rest :
    tokHeader debugToken = true ∧ slotRevoked checking (certSlot (sigCert (debugToken.drop 64))) = false ∧ tokUnlock debugToken = true ∧
    certCap (sigCert (debugToken.drop 64)) 1 = true ∧ ofBytes ((debugToken.drop 8).take 8) = (ownSerial checking).toNat ∧
    (debugToken.drop 16).take 32 = List.replicate 32 0 ∧ tokRefused checking debugToken = false ∧ tokKind debugToken = 1 := by
  decide +kernel

/-- A token whose signatures the verification function of log 17 accepts has result 0. -/
theorem witness_accepted_token (h : ∀ k m x, Config.mlDsaVerify k m x = true) : tokenResult checking ⟨debugToken, some (List.replicate 32 0)⟩ = 0 := by
  obtain ⟨h1, h2, h3, h4, h5, h6, h7, -⟩ := checking_rest
  have e : checking.boot.rootHash = digest (List.replicate 1952 0xFF) := rfl
  have hr : rootHolds checking (debugToken.drop 64) = true := by
    rw [rootHolds, debug_token_root, h, e, decide_eq_true rfl, Bool.and_self]
  have hs : sigHolds (debugToken.drop 64) (debugToken.take 64) = true := h _ _ _
  simp only [tokenResult, h1, h2, h3, h4, h5, h6, h7, hr, hs, Bool.not_true, Bool.or_self, Bool.false_eq_true, ne_eq, not_true_eq_false, reduceIte]

/-! Links, frames and the hierarchy. -/

/-- Port q in a state with widths 8 and 8. -/
def withPort (q st : Nat) (p : FabPort) : State :=
  withRegs { live with fab := { live.fab with ports := [(q, p)] } } [(Reg.FAB_PORT_STAT q, BitVec.ofNat 32 (st + 0x880)), (Reg.FAB_PORT_CTRL q, 1)]

/-- Training and its features: lanes that give width 8 with the spare, width 1 and none; a port refused or not; a port that retrains; fault
injection and trace capture in each case. -/
theorem witness_training :
    portState (withPort 15 2 {}) 15 = 2 ∧ widthOf live 15 (0x1FE &&& ~~~badLanes live 15 true) = (8, 1) ∧ (widthOf live 15 1).1 = 1 ∧
    (widthOf live 15 0).1 = 0 ∧ portState (withPort 15 1 {}) 15 = 1 ∧ regBit (withPort 15 1 {}) (Reg.FAB_PORT_CTRL 15) 0 = true ∧
    (fport (withPort 15 1 {}) 15).refused = false ∧ regBit live (Reg.FAB_FI_CTRL 15) 2 = false ∧
    regBit (withRegs live [(Reg.FAB_FI_CTRL 15, 4)]) (Reg.FAB_FI_CTRL 15) 2 = true ∧ portTrained (withPort 15 3 {}) 15 = true ∧
    (0x1FF#9).getLsbD 8 = true ∧ (fport (withPort 15 3 { retraining := true, txGood := 0xFE, rxGood := 0xFF }) 15).retraining = true ∧
    (widthOf live 15 0xFE).1 = 4 ∧ (fport live 15).hello = none ∧ { (fport live 15) with live := true }.live = true ∧
    (7#32).getLsbD 2 = true ∧ fld (7#32) 0 2 = 3 ∧ fld (4#32) 0 2 = 0 ∧ regBit (withRegs live [(Reg.FAB_TRACE_CTRL 15, 1)]) (Reg.FAB_TRACE_CTRL 15) 0 = true ∧
    regBit live Reg.SEC_STAT 1 = true ∧ regBit (withRegs live [(Reg.SEC_STAT, 1)]) Reg.SEC_STAT 1 = false ∧
    fiActive (withRegs live [(Reg.FAB_FI_CTRL 15, 7)]) 15 3 = true ∧ fiActive live 15 3 = false ∧ 12 ≤ live.boot.begun := by
  decide +kernel

/-- A HELLO of this device's own serial number isolates, one of another device does not. -/
def helloOf (serial : BitVec 64) : HelloMsg := ⟨0, false, false, 0, 0, serial, 0⟩

theorem witness_hello : helloIsolates live (helloOf 0) = true ∧ helloIsolates live (helloOf 1) = false := by
  decide +kernel

/-- A data frame of one unit that starts and ends a packet of 64 bytes, with SEQ as given; a control and an idle frame. -/
def dataFrame (seq : Nat) : Frame := mkFrame (1 + seq * 16) (32 + 64 + 63 * 256) 0 (List.replicate 64 0)

set_option maxRecDepth 100000 in
/-- Frames that a trained port takes, sound and not, expected and not. -/
theorem witness_frames :
    (let s := withPort 15 3 {}
     frameTaken s 15 1 (dataFrame 0) = true ∧ (dataFrame 0).body.length = 64 * (frFld (dataFrame 0) 1 3 2 + 1) ∧ frameSound (dataFrame 0) = true ∧
     frameSound { dataFrame 0 with crc := ~~~(dataFrame 0).crc } = false ∧ frFld (dataFrame 0) 0 28 1 = 0 ∧
     frFld (dataFrame 0) 0 4 12 = (fport s 15).rxSeq ∧ frFld (dataFrame 4095) 0 4 12 ≠ (fport s 15).rxSeq ∧
     frFld (dataFrame 0) 1 5 1 = 1 ∧ frFld (dataFrame 0) 1 6 1 = 1 ∧ frFld (dataFrame 0) 1 7 1 = 0 ∧ (bytesPacket (dataFrame 0).body).typ ≠ 6 ∧
     frFld (mkFrame 1 (32 + 64 + 128) 0 []) 1 7 1 = 1 ∧
     frameTaken s 15 2 (mkFrame 2 0 0 []) = true ∧ frameSound (mkFrame 2 0 0 []) = true ∧ frameTaken s 15 3 (mkFrame 3 0 0 []) = true ∧
     frameSound (mkFrame 3 0 0 []) = true ∧ frameTaken s 15 3 (mkFrame 2 0 0 []) = false ∧ frameTaken s 15 2 (mkFrame 3 0 0 []) = false ∧
     (fport s 15).queue = [] ∧ (fport s 15).sending = none) := by
  decide +kernel

/-- Frames outstanding, replayed seven times and not; an acknowledgement that is due; a held packet. -/
theorem witness_port_timers :
    (let p : FabPort := { replay := [dataFrame 0], replays := 7, due := true, held := some ⟨⟨0, []⟩, 5⟩ }
     let s := withPort 15 3 p
     portOpen s 15 = true ∧ (fport s 15).replay ≠ [] ∧ 7 ≤ (fport s 15).replays ∧ (fport s 15).due = true ∧ (fport s 15).held = some ⟨⟨0, []⟩, 5⟩ ∧
     (fport s 15).sending = none) ∧ portOpen (withPort 15 1 {}) 15 = false := by
  decide +kernel

def routedTo (dst : Nat) : Packet := ⟨BitVec.ofNat 512 (dst + 2 ^ 32), []⟩

/-- A path-mode packet with HIDX 15. -/
def onPath : Packet := ⟨BitVec.ofNat 512 (6 * 2 ^ 32), toBytes 4 (2 ^ 8 + 15 * 2 ^ 9 + 15 * 2 ^ 13) ++ List.replicate 60 0⟩

/-- Routed packets: for this device, for one with a route, for one without; a module that is not assigned; the last hop of a path. -/
theorem witness_routes :
    (routedTo 6).pathMode = false ∧ isAssigned live = true ∧ (routedTo 6).dst.toNat ≠ ownId live ∧ (routedTo 5).dst.toNat = ownId live ∧
    (let s := withRegs (withPort 15 3 {}) [(Reg.FAB_ROUTE_DEV 6, 0x10F)]
     routePort s (routeEntry s 6) = some 15 ∧ routePort s (routeEntry s 7) = none) ∧
    onPath.pathMode = true ∧ 15 ≤ pathHidx onPath := by
  decide +kernel

/-- Another manager of a lower serial number. -/
def described : ProbeReplyMsg := ⟨1, false, 0, 0, false, [3], []⟩

/-- The manager of domain 0 with serial number 2, and members. -/
def managing (ms : List Member) : State :=
  withRegs { live with fab := { live.fab with members := ms, probing := some (1, [3], 3), round := true } } [(Reg.FAB_ID, 0x30000), (Reg.SEC_SERIAL_LO, 2)]

/-- A member: not assigned, assigned by another manager, and by this one that was lost; a route set newer and older; a LEFT that names an
originator; a port that can be probed. -/
theorem witness_members :
    (let s : State := { live with fab := { live.fab with mgr := some 9 } }
     isAssigned s = true ∧ isManager s = false ∧ s.fab.mgrLost = false ∧ s.fab.mgr = some 9 ∧ (9 : BitVec 64) ≠ 8) ∧
    portUsable (withPort 15 4 {}) 15 = true ∧ portUsable live 15 = false ∧ isAssigned State.reset = false ∧ ownId live = 5 ∧
    (regWord live Reg.FAB_ROUTE_GEN).toNat ≤ (0#32).toNat ∧ (0#32).toNat < (regWord (withRegs live [(Reg.FAB_ROUTE_GEN, 1)]) Reg.FAB_ROUTE_GEN).toNat ∧
    (15 : Nat) + 1 < 4096 ∧ (4096 : Nat) ≤ 4095 + 1 ∧ 4095 + 1 < 4112 ∧
    leftNames [5] none 5 = true ∧ leftNames [5] none 6 = false ∧ leftNames [] (some 0) 5 = true ∧
    live.items.itt = [] ∧ live.items.orig = [] ∧ isManager (managing []) = true := by
  decide +kernel

/-- The manager: a probe that waits for its third answer, a device described for the first time, another manager of lower serial number;
a member that has missed two heartbeats and one that has answered; route sets acknowledged and not. -/
theorem witness_managers :
    (let m : Member := { desc := described, index := 1, accepted := true, missed := 2, answered := false, sentGen := 1 }
     let s := managing [m]
     s.fab.probing = some (1, [3], 3) ∧ described.path = [3] ∧ memberOf (managing []) 1 = none ∧ freshIndex (managing []) 1 = some 1 ∧
     described.domain.toNat = ownDomain s ∧ { described with domain := 1 }.domain.toNat ≠ ownDomain s ∧
     { described with role := true }.serial.toNat < (ownSerial s).toNat ∧ memberOf s 1 = some m ∧ (memberOf s 1).isSome = true ∧
     m.ackGen < m.sentGen ∧ m.tries < 3 ∧ joined s = [m] ∧ memberId s m = 1 ∧ s.fab.leftGroups = [] ∧ isFedMgr s = false ∧ s.fab.domains = [] ∧
     { m with missed := 1 }.missed < 2 ∧ s.fab.round = true ∧ m.sentGen ≤ { m with ackGen := 1 }.ackGen) ∧
    (let w : LeftWait := ⟨1, 4, [2], none, 3, 1⟩
     (decide (w.member = 1) && decide (w.pseq = (4#16).toNat)) = true ∧ 3 ≤ w.tries) ∧
    (List.range 16).all (fun q => !portUsable (managing []) q) = true := by
  decide +kernel

/-- POWER again after a failure; voltages at and beyond the range. -/
theorem witness_power_again :
    retriesPower retried = true ∧ retried.pins.startDue = false ∧ (399 : Nat) < 400 ∧ (600 : Nat) < 601 := by
  decide +kernel

/-- Power: a capped region without a pause whose arrays are idle, one holding the ramp floor; issue stopped and not; ports empty and not;
one array stopped by a mode move; a recovered PLL of a trained port and of one that trains, with fault injection. -/
theorem witness_power_states :
    (let s := withRegs live [(Reg.PWR_REGION 0, 0x34)]
     regionState s 0 = rgCapped ∧ pauseWanted s 0 = 0 ∧ (arr s 0).streaming = false ∧ (arr s 0).fenced = false ∧ regBit s (Reg.TA_ID 0) 16 = true) ∧
    (arr (withArray { idleHold := .floor }) 0).idleHold = .floor ∧
    issueStopped live = true ∧ issueStopped (withArray { streaming := true }) = false ∧ portsEmpty live = true ∧
    (let s : State := { withArray { halted := true } with power := { live.power with move := some true, paused := [0] } }
     issueStopped s = true ∧ s.power.paused = [0] ∧ (arr s 0).fenced = false ∧ (arr s 0).saved = []) ∧
    portState (withPort 15 2 {}) 15 = 2 ∧ portTrained (withPort 15 3 {}) 15 = true ∧
    regBit (withRegs (withPort 15 3 {}) [(Reg.FAB_FI_CTRL 15, 4)]) (Reg.FAB_FI_CTRL 15) 2 = true := by
  decide +kernel

/-- Training from settings saved for the same partner, verified and not; the generator held while a port trains again; a packet that reads
its route entry and one that does not; a module that is not assigned. -/
theorem witness_saved_training :
    (let x : TrainResult := { txGood := 0x1FF, rxGood := 0x1FF, serial := 7, port := 3, settings := 9, verified := true }
     let s : State := { live with boot := { live.boot with savedFab := [(15, ⟨7, 3, 9⟩)] } }
     usesSaved s 15 x = true ∧ usesSaved s 15 { x with verified := false } = false ∧ usesSaved live 15 x = false) ∧
    (let s := withRegs (withPort 15 3 { txGood := 0x1FF, rxGood := 0x1FF }) [(Reg.FAB_FI_CTRL 15, 7)]
     regBit s (Reg.FAB_FI_CTRL 15) 2 = true ∧ (fport s 15).txGood.getLsbD 0 = true ∧ portTrained s 15 = true) ∧
    readsRoute live (routedTo 6) = true ∧ readsRoute live (routedTo 5) = false ∧ readsRoute live onPath = false ∧
    isAssigned (withRegs live [(Reg.FAB_ID, 0)]) = false ∧
    ({ live with sc := { live.sc with host := [.bar0 0 .b32 0 0] } } : State).sc.host ≠ [] := by
  decide +kernel

/-! Steps. -/

/-- Reset meets the invariant, and a step from a state that meets it answers a next state. -/
theorem witness_invariant : step { State.reset with pending := [.perst true] } = exec (.perst true) State.reset := rfl

end Sys2Proof.Tests
end

section
/-! Accesses to a BAR0 offset that no chapter defines (R14): what a read of its word returns, what a write of its word does, and when a
command's write is made at once or waits (R570, R574). -/

namespace Sys2Proof.Machine

theorem ofBytes_of_all_zero {l : List Byte} (h : ∀ b ∈ l, b = 0) : ofBytes l = 0 := by
  induction l with
  | nil => rfl
  | cons b t ih =>
    obtain ⟨hb, ht⟩ := List.forall_mem_cons.mp h
    simp [ofBytes, hb, ih ht]

/-- The word that an undefined offset shows is zero, whether its block is live or not. -/
theorem liveView_of_undefined (s : State) {off : Nat} (h : findReg regMap off = none) : liveView s off = 0 := by
  simp [liveView, regView, h]

/-- Every byte of the aligned word at an undefined offset reads as zero. -/
theorem regByte_of_undefined (s : State) {off i : Nat} (ha : off % 4 = 0) (hi : i < 4) (h : findReg regMap off = none) :
    regByte s (off + i) = 0 := by
  have hword : (off + i) / 4 * 4 = off := by omega
  simp [regByte, hword, liveView_of_undefined s h]

theorem regRead_of_undefined (s : State) {off : Nat} (ha : off % 4 = 0) (h : findReg regMap off = none) : regRead s off 4 = 0 := by
  refine ofBytes_of_all_zero fun b hb => ?_
  obtain ⟨i, hi, rfl⟩ := List.mem_map.mp hb
  exact regByte_of_undefined s ha (List.mem_range.mp hi) h

theorem writeAt_of_undefined (s : State) {off : Nat} (v hw : Word) (h : findReg regMap off = none) : writeAt s off v hw = s := by
  simp [writeAt, h]

theorem accessWrite_b32_of_undefined (s : State) {off : Nat} (d : BitVec 64) (hw : Word) (ha : off % 4 = 0)
    (h : findReg regMap off = none) : accessWrite s off .b32 d hw = s := by
  simp [accessWrite, ha, writeAt_of_undefined s _ hw h]

/-- A write by BAR0 that is not poisoned takes its place behind the host's accesses received before it, where there are any (R570). -/
theorem exec_registerWrite_waits {s : State} (off : BitVec 26) (size : AccSize) (d : BitVec 64) (hw : Word) (h : s.sc.host ≠ []) :
    exec (.registerWrite .bar0 off size d false hw) s =
      .next { s with sc := { s.sc with host := s.sc.host ++ [.bar0 off.toNat size d hw] } } := by
  simp [exec, execRegisterWrite, h]

/-- A write that does not wait is made at once (by another path, or by BAR0 with no access of the host before it) or, poisoned, discarded
at BAR0 (R574): where making it changes nothing, the command changes nothing. -/
theorem exec_registerWrite_of_no_effect {s : State} {path : AccPath} {off : BitVec 26} {size : AccSize} {d : BitVec 64} {poisoned : Bool}
    {hw : Word} (hnow : path ≠ .bar0 ∨ poisoned = true ∨ s.sc.host = []) (h : accessWrite s off.toNat size d hw = s) :
    exec (.registerWrite path off size d poisoned hw) s = .next s := by
  obtain hpath | hpoisoned | hempty := hnow
  · simp [exec, execRegisterWrite, hpath, h]
  · simp [exec, execRegisterWrite, hpoisoned, h]
  · simp [exec, execRegisterWrite, hempty, h]

/-- Settles O59: the search of the register map decides both what a read shows and whether a write is made, in every state. -/
theorem undefinedRegisterOffsets : Obligations.UndefinedRegisterOffsets := by
  intro s off ha h
  refine ⟨regRead_of_undefined s ha h, fun path d poisoned hw => ⟨fun hnow => ?_, ?_, fun t => ?_⟩⟩
  · exact exec_registerWrite_of_no_effect hnow (accessWrite_b32_of_undefined s d hw ha h)
  · rintro rfl rfl hwaiting
    exact exec_registerWrite_waits off .b32 d hw hwaiting
  · exact accessWrite_b32_of_undefined t d hw ha h

end Sys2Proof.Machine
end
